-- ==== Sys2Proof/Word.lean ====
section
/-!
DEFINITION. The machine's word types (R3, R31, R70): names for the widths that the manual's registers and
memory units have.
-/

namespace Sys2Proof

/-- One byte of memory (R3). -/
abbrev Byte := BitVec 8

/-- The value of a scalar register (R31). -/
abbrev Word := BitVec 64

/-- The 512 bytes of a vector register (R31, R82). -/
abbrev Vec := BitVec 4096

/-- The 1,024 bits of a mask register (R31). -/
abbrev Mask := BitVec 1024

/-- The 128 bits of a capability (R36). -/
abbrev Cap := BitVec 128

/-- The 64 bytes of a fill line, a lap slot, a weight slot or a transfer record (R42, R43, R85, R241). -/
abbrev Line := BitVec 512

end Sys2Proof
end

