-- ==== Sys2Proof/Config.lean ====
section
/-!
DEFINITION. What the specification leaves open: constants without a body, of which nothing can be proved, so that
a claim about the machine holds whatever they are (DESIGN CHOICE, log entries 6, 9, 19, 20, 48, 51 and 62).
-/

namespace Sys2Proof.Config

/-- SHA-256 of the Skep kernel text that boot loads (R337). The text is no part of the manual. -/
opaque skepHash : BitVec 256

/-- The attestation signature of a package over a 288-byte message and its identifier (R339): ECDSA with a private
key that never leaves the hub die, and with a nonce of its own, so its value is free. The second argument counts
the signatures made. -/
opaque attestSignature : Nat → Nat → BitVec 768

/-- The result of a special function whose two enclosing bounds at the model's working precision do not round to
one value (R195). No argument is known for which that happens; the value is then free. -/
opaque specialTie : BitVec 32 → BitVec 32

/-- The part's revision (Table 19-4). -/
opaque revision : BitVec 32

/-- The attestation certificate chain (Table 19-4). -/
opaque certLen : Nat
opaque certByte : Nat → BitVec 8

/-- What a read of an mmio register gives: of its address, the value last stored to it, and the count of reads (R351). -/
opaque mmioRead : Nat → BitVec 64 → Nat → BitVec 64

/-- Through which neighbour's router a flit or a read request leaves its comb, by a number of its own (R332). -/
opaque hop : Nat → Nat

/-- Bytes 16 to 119 of a flit whose KIND the manual gives no payload layout, by the number of the effect (R341). -/
opaque flitPayload : Nat → BitVec 832

/-- Offsets of registers in the mmio blocks (R351): the domain in the PTP block, lane enables and training control of a port in the
Links block, and the cap in the Power block. -/
opaque ptpDomain : BitVec 16
opaque linkLanes : Nat → BitVec 16
opaque linkTrain : Nat → BitVec 16
opaque powerCap : BitVec 16

/-- A 64-bit value that the manual does not fix, a fresh one for each value of the counter State.tick. -/
opaque freeWord : Nat → Word

end Sys2Proof.Config
end

