-- ==== Sys2Proof/Syntax.lean ====
section
/-!
DEFINITION. The instruction set: one constructor of Instr for each row of spec/opcode_table.json, first the 211
instructions of Table 6-11, then the 117 events (the part's other steps, spec/95), each with the data its rule needs.
-/

namespace Sys2Proof

/-- A scalar register s0 to s63 (R31). -/
abbrev SReg := Fin 64
/-- A vector register v0 to v31, or a scalar register s0 to s31 in a V-format field (R31, R139). -/
abbrev VReg := Fin 32
/-- A mask register m0 to m7 (R31). -/
abbrev MReg := Fin 8
/-- A capability register c0 to c15 (R31). -/
abbrev CReg := Fin 16

/-- A scalar source and its last-use bit (R104, R140). -/
structure SSrc where
  r : SReg
  last : Bool
  deriving DecidableEq, Repr

/-- A vector source, or a V-format scalar source s0 to s31, and its last-use bit. -/
structure VSrc where
  r : VReg
  last : Bool
  deriving DecidableEq, Repr

/-- A mask source and its last-use bit. -/
structure MSrc where
  r : MReg
  last : Bool
  deriving DecidableEq, Repr

/-- A capability source and its last-use bit. -/
structure CSrc where
  r : CReg
  last : Bool
  deriving DecidableEq, Repr

/-- The V-format element types, TY codes 0 to 7 in this order (R143). -/
inductive ETy where
  | i8 | i16 | i32 | i4 | bf16 | f16 | f32 | x8
  deriving DecidableEq, Repr

/-- The lattice types of Table 2-3, TY codes 0 to 13 (R38). -/
inductive LTy where
  | excl | maxn | maxi | minn | mini | maxf | minf | union | count | fill | lap | arr | code | mmio
  deriving DecidableEq, Repr

/-- The width codes 0 to 3 (R144). -/
inductive Wd where
  | w8 | w16 | w32 | w64
  deriving DecidableEq, Repr

/-- The scopes of Table 1-3 (R26). -/
inductive Scope where
  | lane | core | comb | sector | die | pkg | node | rack | pod | sys
  deriving DecidableEq, Repr

/-- An order and its scope: the fields OR and SC of word 1, SC zero without an order (R144). -/
inductive Ord where
  | relaxed
  | acq (sc : Scope)
  | rel (sc : Scope)
  | sc (sc : Scope)
  deriving DecidableEq, Repr

/-- The rounding selector RS (R145). -/
inductive RSel where
  | fpc | rne | rtz | rdn | rup
  deriving DecidableEq, Repr

/-- The reduction operators of R191. -/
inductive RedOp where
  | sum | min | max
  deriving DecidableEq, Repr

/-- The types of LDS in the order of its FN values (Table 6-11). -/
inductive LdTy where
  | i8 | n8 | i16 | n16 | i32 | n32 | i64
  deriving DecidableEq, Repr

/-- The address operands of a global access: index register, capability, offset in units of 64 bytes (R209). -/
structure GAddr where
  a : SSrc
  c : CSrc
  imm : BitVec 8
  deriving DecidableEq, Repr

/-- A physical comb: package, die of the package, comb of the die (R276, Waggle of R331). -/
structure Site where
  pkg : Nat
  die : Nat
  comb : Nat
  deriving DecidableEq, Repr

/-- A heartbeat as a neighbour receives it (R332), beside its sequence: identity, digest, and whether its CRC is right. -/
structure Heartbeat where
  id : Site
  digest : BitVec 16
  crcOk : Bool
  deriving DecidableEq, Repr

/-- How a comb comes to hear of an accusation (R332, R330): from a comb that it can hear, or by the flits that it has counted
on the link in a period. -/
inductive Hearing where
  | told (at' : Site)
  | counted (at' : Site) (flits : Nat)
  deriving DecidableEq, Repr

/-- A launch as it stands in host memory, beside its descriptor: the package map, and the OID with the first block that the
loader chooses for the code object and then for the declared objects (R129, R322). -/
structure Placing where
  pkgmap : List (BitVec 32)
  place : List (Nat × Nat)
  deriving DecidableEq, Repr

/-- The home of a declared object (R129). -/
inductive Home where
  | spread
  | pkg (p : Nat)
  | lcore (l : Nat)
  deriving DecidableEq, Repr

/-- A declared object of an image: type, width, size in bytes, home and initial bytes by offset (R129). -/
structure ObjDecl where
  ty : LTy
  w : Wd
  size : Nat
  home : Home
  data : List (Nat × Byte)
  deriving DecidableEq, Repr

/-- A code object as R135 lists it: code bytes, entry offsets, declared objects, the index of the fill object named
treeshape when there is one (R338), the partition word with LANESM1, and V, the default launch descriptor, and the SHA-256
of the code bytes. -/
structure Image where
  code : List Byte
  tasks : List Nat
  objs : List ObjDecl
  treeshape : Option Nat
  part : BitVec 32
  v : Nat
  desc : BitVec 2048
  hash : BitVec 256
  deriving DecidableEq, Repr

/-- Where a write of a register with a behaviour of its own comes from: a SYSWR on its way (its effect id), or the
host's write of the same register in a context block (R299, R347). -/
inductive RegSrc where
  | effect (id : Nat)
  | host (value : Word)
  deriving DecidableEq, Repr

/-- A counted unit: HBM bank, SerDes lane or comb (R329, R330). -/
inductive FaultUnit where
  | bank (pkg die channel bank : Nat)
  | serdes (pkg die lane : Nat)
  | comb (pkg die comb : Nat)
  deriving DecidableEq, Repr

/-- Where an uncorrectable error is found (Table 18-1). -/
inductive ErrPlace where
  | cacheCopy
  | laneState (l : Nat)
  | scratchWord (l off : Nat)
  | accRow (l row : Nat)
  | homeLine (l : Nat) (addr : Nat)
  | saveArea (l : Nat)
  | transferRecord (comb ch : Nat)
  | recordPool (task : Nat)
  | pendingMsg (lcore cls n : Nat)
  deriving DecidableEq, Repr

/-- Where a message comes from that is delivered: an effect on its way, or a core's spill queue that the Skep drains
(R310). -/
inductive MsgSrc where
  | effect (id : Nat)
  | skep (lcore cls : Nat)
  deriving DecidableEq, Repr

/-- What is sent again every 8 us because it is never lost: an effect on its way, a wake by its place, the read of a lane, or the
control flits of a comb's fence (R345). -/
inductive Resent where
  | flit (id : Nat)
  | wake (n : Nat)
  | read (lane : Nat)
  | control (site : Site)
  deriving DecidableEq, Repr

/-- What comes about on a channel of a comb: the next row is sent, or the payload of a number lands (R59, R242). -/
structure PayStep where
  ch : Nat
  id : Option Nat
  deriving DecidableEq, Repr

/-- What a mailbox request asks of the Skep (R346): contexts are made, with a number, a first die, log2 of the die
count, a service bit, the packages, the records of the pool (R92), and the messages of a die's spill region (R279), they
are given an FNMODE default, or removed. -/
inductive MboxReq where
  | create (ctx d0 logn : Nat) (service : Bool) (pkgs : List Nat) (pool spill : Nat)
  | fnmode (ctx : Nat) (v : BitVec 64)
  | remove (ctx : Nat)
  | other
  deriving DecidableEq, Repr

/-- How the Skep answers a posted page fault: with a frame and a memory type for the page, with a refusal (R294), or
with the kill of the context whose tables it cannot keep (R292). -/
inductive SkepAnswer where
  | resume (frame mt : Nat)
  | decline
  | kill
  deriving DecidableEq, Repr

inductive Instr where
  -- Majors 0x01 to 0x03: integer arithmetic, logic and bit operations (R154, R155).
  | add (d : SReg) (a b : SSrc) | sub (d : SReg) (a b : SSrc) | mul (d : SReg) (a b : SSrc)
  | mulh (d : SReg) (a b : SSrc) | mulhn (d : SReg) (a b : SSrc) | div (d : SReg) (a b : SSrc)
  | divn (d : SReg) (a b : SSrc) | rem (d : SReg) (a b : SSrc) | remn (d : SReg) (a b : SSrc)
  | min (d : SReg) (a b : SSrc) | max (d : SReg) (a b : SSrc) | minn (d : SReg) (a b : SSrc)
  | maxn (d : SReg) (a b : SSrc) | abs (d : SReg) (a : SSrc)
  | and (d : SReg) (a b : SSrc) | or (d : SReg) (a b : SSrc) | xor (d : SReg) (a b : SSrc)
  | andn (d : SReg) (a b : SSrc) | shl (d : SReg) (a b : SSrc) | shr (d : SReg) (a b : SSrc)
  | sra (d : SReg) (a b : SSrc) | rol (d : SReg) (a b : SSrc) | slt (d : SReg) (a b : SSrc)
  | sltn (d : SReg) (a b : SSrc) | seq (d : SReg) (a b : SSrc) | sne (d : SReg) (a b : SSrc)
  | csel (d : SReg) (a b : SSrc)
  | clz (d : SReg) (a : SSrc) | ctz (d : SReg) (a : SSrc) | popc (d : SReg) (a : SSrc)
  | brev (d : SReg) (a : SSrc) | bswap (d : SReg) (a : SSrc)
  | exts (d : SReg) (a : SSrc) (k : Fin 64) | extz (d : SReg) (a : SSrc) (k : Fin 64)
  -- Major 0x04: FP32 scalar arithmetic (R158, R159).
  | fadd (d : SReg) (a b : SSrc) | fsub (d : SReg) (a b : SSrc) | fmul (d : SReg) (a b : SSrc)
  | fma (d : SReg) (a b : SSrc) | fdiv (d : SReg) (a b : SSrc) | fsqrt (d : SReg) (a : SSrc) (rm : RSel)
  | fmin (d : SReg) (a b : SSrc) | fmax (d : SReg) (a b : SSrc) | fcmp (d : SReg) (a b : SSrc)
  | fcvti (d : SReg) (a : SSrc) (rm : RSel) | icvtf (d : SReg) (a : SSrc) (rm : RSel)
  | fclass (d : SReg) (a : SSrc)
  -- Majors 0x05 and 0x10: capabilities (R160, R161).
  | cmov (d : CReg) (a : CSrc) | cinc (d : CReg) (a : CSrc) (b : SSrc) | cbound (d : CReg) (a : CSrc) (b : SSrc)
  | crights (d : CReg) (a : CSrc) (b : SSrc) | cget (d : SReg) (a : CSrc) (k : Fin 64)
  | ctest (d : SReg) (a : CSrc) (b : SSrc) | cinci (d : CReg) (a : CSrc) (imm : BitVec 12)
  -- Major 0x06: special registers and system instructions (R167 to R172).
  | mfs (d : SReg) (n : Fin 64) | mts (n : Fin 64) (a : SSrc) | trap (a : SSrc) | tret (a : SSrc)
  | sysrd (d : SReg) (a : SSrc) | syswr (a b : SSrc)
  -- Majors 0x08 to 0x0F: immediate forms (R156, R157).
  | addi (d : SReg) (a : SSrc) (imm : BitVec 12) | andi (d : SReg) (a : SSrc) (imm : BitVec 12)
  | ori (d : SReg) (a : SSrc) (imm : BitVec 12) | xori (d : SReg) (a : SSrc) (imm : BitVec 12)
  | shli (d : SReg) (a : SSrc) (n : Fin 64) | shri (d : SReg) (a : SSrc) (n : Fin 64)
  | srai (d : SReg) (a : SSrc) (n : Fin 64) | slti (d : SReg) (a : SSrc) (imm : BitVec 12)
  | movhi (d : SReg) (imm : BitVec 19) | addpc (d : SReg) (imm : BitVec 19)
  -- Majors 0x16 to 0x1D: control (R162 to R166, R254).
  | beqz (a : SSrc) (off : BitVec 15) | bnez (a : SSrc) (off : BitVec 15) | bltz (a : SSrc) (off : BitVec 15)
  | bgez (a : SSrc) (off : BitVec 15) | bgtz (a : SSrc) (off : BitVec 15) | blez (a : SSrc) (off : BitVec 15)
  | j (off : BitVec 25) | jal (off : BitVec 25) | jalr (d : SReg) (a : SSrc) (imm : BitVec 12)
  | loop (a : SReg) (off : BitVec 15) | sig (v : BitVec 20) | nop | yield | endOp
  -- Majors 0x20 to 0x2D: vector instructions (R177 to R199). n is N, m is M.
  | vadd (t : ETy) (d : VReg) (a b : VSrc) (m : Bool) | vsub (t : ETy) (d : VReg) (a b : VSrc) (m : Bool)
  | vmul (t : ETy) (d : VReg) (a b : VSrc) (m : Bool)
  | vmulh (t : ETy) (n : Bool) (d : VReg) (a b : VSrc) (m : Bool)
  | vadds (t : ETy) (n : Bool) (d : VReg) (a b : VSrc) (m : Bool)
  | vsubs (t : ETy) (n : Bool) (d : VReg) (a b : VSrc) (m : Bool)
  | vmin (t : ETy) (n : Bool) (d : VReg) (a b : VSrc) (m : Bool)
  | vmax (t : ETy) (n : Bool) (d : VReg) (a b : VSrc) (m : Bool)
  | vabs (t : ETy) (d : VReg) (a : VSrc) (m : Bool) | vneg (t : ETy) (d : VReg) (a : VSrc) (m : Bool)
  | vdiv (t : ETy) (n : Bool) (d : VReg) (a b : VSrc) (m : Bool)
  | vfma (t : ETy) (d : VReg) (a b : VSrc) (m : Bool) | vfms (t : ETy) (d : VReg) (a b : VSrc) (m : Bool)
  | vfnma (t : ETy) (d : VReg) (a b : VSrc) (m : Bool)
  | vand (t : ETy) (d : VReg) (a b : VSrc) (m : Bool) | vor (t : ETy) (d : VReg) (a b : VSrc) (m : Bool)
  | vxor (t : ETy) (d : VReg) (a b : VSrc) (m : Bool) | vnot (t : ETy) (d : VReg) (a : VSrc) (m : Bool)
  | vshl (t : ETy) (d : VReg) (a b : VSrc) (m : Bool) | vshr (t : ETy) (d : VReg) (a b : VSrc) (m : Bool)
  | vsra (t : ETy) (d : VReg) (a b : VSrc) (m : Bool)
  | vcmpeq (t : ETy) (n : Bool) (d : MReg) (a b : VSrc) (m : Bool)
  | vcmpne (t : ETy) (n : Bool) (d : MReg) (a b : VSrc) (m : Bool)
  | vcmplt (t : ETy) (n : Bool) (d : MReg) (a b : VSrc) (m : Bool)
  | vcmple (t : ETy) (n : Bool) (d : MReg) (a b : VSrc) (m : Bool)
  | vcmpgt (t : ETy) (n : Bool) (d : MReg) (a b : VSrc) (m : Bool)
  | vcmpge (t : ETy) (n : Bool) (d : MReg) (a b : VSrc) (m : Bool)
  | vsel (t : ETy) (d : VReg) (a b : VSrc)
  | mand (t : ETy) (d : MReg) (a b : MSrc) | mor (t : ETy) (d : MReg) (a b : MSrc)
  | mxor (t : ETy) (d : MReg) (a b : MSrc) | mnot (t : ETy) (d : MReg) (a : MSrc)
  | mpop (t : ETy) (d : VReg) (a : MSrc) | mfirst (t : ETy) (d : VReg) (a : MSrc)
  | mset (t : ETy) (d : MReg) (a : VSrc)
  | vmov (t : ETy) (d : VReg) (a : VSrc) (m : Bool) | vsplat (t : ETy) (d : VReg) (a : VSrc) (m : Bool)
  | vext (t : ETy) (n : Bool) (d : VReg) (a b : VSrc) | vins (t : ETy) (d : VReg) (a b : VSrc) (m : Bool)
  | vidx (t : ETy) (d : VReg) (a : VSrc) (m : Bool)
  | vperm (t : ETy) (d : VReg) (a b : VSrc) (m : Bool) | vrot (t : ETy) (d : VReg) (a b : VSrc) (m : Bool)
  | vslide (t : ETy) (d : VReg) (a b : VSrc) (m : Bool) | vzip (t : ETy) (d : VReg) (a b : VSrc) (m : Bool)
  | vunzip (t : ETy) (d : VReg) (a : VSrc) (m : Bool)
  | vgetr (t : ETy) (d : VReg) (base b : VSrc) (m : Bool) | vputr (t : ETy) (base : VReg) (a b : VSrc) (m : Bool)
  | vcvt (t : ETy) (n : Bool) (d : VReg) (a : VSrc) (st : ETy) (sn : Bool) (m : Bool)
  | vwadd (t : ETy) (n : Bool) (d : VReg) (a b : VSrc) (m : Bool)
  | vwmul (t : ETy) (n : Bool) (d : VReg) (a b : VSrc) (m : Bool)
  | vnarrow (t : ETy) (n : Bool) (d : VReg) (a : VSrc) (sh : Fin 32) (m : Bool)
  | vfmt (k : Fin 8) (a : VSrc)
  | vred (t : ETy) (n : Bool) (d : VReg) (a : VSrc) (op : RedOp) (m : Bool)
  | vdot (t : ETy) (n : Bool) (d : VReg) (a b : VSrc) (m : Bool)
  | vscan (t : ETy) (n : Bool) (d : VReg) (a : VSrc) (op : RedOp) (m : Bool)
  | vsort (t : ETy) (n : Bool) (d : VReg) (logk : Fin 4) (desc : Bool)
  | vsortkv (t : ETy) (n : Bool) (d : VReg) (a : VSrc) (logk : Fin 4) (desc : Bool)
  | vmerge (t : ETy) (n : Bool) (d : VReg) (a b : VSrc) | vtopk (t : ETy) (n : Bool) (d : VReg) (a b : VSrc)
  | vrcp (d : VReg) (a : VSrc) (m : Bool) | vrsq (d : VReg) (a : VSrc) (m : Bool)
  | vsqrt (d : VReg) (a : VSrc) (rm : RSel) (m : Bool) | vexp2 (d : VReg) (a : VSrc) (m : Bool)
  | vlog2 (d : VReg) (a : VSrc) (m : Bool) | vtanh (d : VReg) (a : VSrc) (m : Bool)
  | vrand (n : Bool) (d : VReg) (a b : VSrc) (m : Bool)
  | vpackt (t : ETy) (d : VReg) (a : VSrc) | vunpkt (t : ETy) (d : VReg) (a : VSrc) | vtchk (d : VReg) (a : VSrc)
  -- Majors 0x40 to 0x47: scratchpad and window instructions (R201 to R208).
  | lds (t : LdTy) (d : SReg) (a : SSrc) (imm : BitVec 9) | sts (w : Wd) (d : SSrc) (a : SReg) (imm : BitVec 9)
  | vlds (d : VReg) (a : SSrc) (imm : BitVec 9) | vsts (d : VSrc) (a : SReg) (imm : BitVec 9)
  | vldss (d : VReg) (a b : SSrc) | vstss (d : VReg) (a b : SSrc)
  | vgats (d : VReg) (a : SSrc) (b : VSrc) | vscts (d : VReg) (a : SSrc) (b : VSrc)
  | vldb (d : VReg) (a b : SSrc) | vstb (d : VReg) (a b : SSrc)
  | stn (w : Fin 3) (d : SSrc) (a : SReg) (imm : BitVec 9) | vstn (w : Fin 3) (d : VSrc) (a : SReg) (imm : BitVec 9)
  | ldf (d : SReg) (a : SSrc) (imm : BitVec 9) | vldf (d : VReg) (a : SSrc) (imm : BitVec 9)
  | fclr (d : SSrc) (a : SReg) (imm : BitVec 9) | fset (d : SSrc) (a : SReg) (imm : BitVec 9)
  | waita (d : SReg) (a : SSrc) (imm : BitVec 9)
  -- Major 0x58: barriers (R258 to R261).
  | binit (a b : SSrc) | barr (a : SSrc) | bwait (a b : SSrc) | bstat (d : SReg) (a : SSrc)
  -- Majors 0x70 to 0x75: global memory (R209 to R224). lk is LK.
  | ldx (lk : Fin 16) (w : Wd) (o : Ord) (d : SReg) (g : GAddr)
  | stx (lk : Fin 16) (w : Wd) (o : Ord) (g : GAddr) (b : SSrc)
  | vldx (lk : Fin 16) (o : Ord) (d : VReg) (g : GAddr) | vstx (lk : Fin 16) (o : Ord) (g : GAddr) (b : VSrc)
  | ldc (lk : Fin 16) (o : Ord) (d : CReg) (g : GAddr) | stc (lk : Fin 16) (o : Ord) (g : GAddr) (b : CSrc)
  | join (lk : Fin 16) (t : LTy) (w : Wd) (o : Ord) (g : GAddr) (b : SSrc)
  | vjoin (lk : Fin 16) (t : LTy) (w : Wd) (o : Ord) (g : GAddr) (b : VSrc)
  | vjoinx (lk : Fin 16) (t : LTy) (w : Wd) (o : Ord) (g : GAddr) (b : VSrc) (p : Fin 8)
  | thr (lk : Fin 16) (t : LTy) (w : Wd) (o : Ord) (d : SReg) (g : GAddr) (b : SSrc)
  | thrf (lk : Fin 16) (t : LTy) (w : Wd) (o : Ord) (d : VReg) (g : GAddr) (b : SSrc)
  | xrd (lk : Fin 16) (t : LTy) (w : Wd) (o : Ord) (d : SReg) (g : GAddr)
  | vxrd (lk : Fin 16) (t : LTy) (w : Wd) (o : Ord) (d : VReg) (g : GAddr) (one : Bool)
  | cap (lk : Fin 16) (t : LTy) (w : Wd) (sc : Scope) (acq : Bool) (g : GAddr) (b : SSrc)
  | fence (lk : Fin 16) (sc : Scope)
  | ofork (lk : Fin 16) (d : CReg) (c : CSrc) (b : SSrc)
  -- Major 0x76: tile-walk engine (R243 to R245).
  | twgo (lk : Fin 16) (ch : Fin 8) (g : GAddr) | twperm (lk : Fin 16) (ch : Fin 8) (b : SSrc)
  | twstat (lk : Fin 16) (d : SReg) (ch : Fin 8) (k : Fin 4) | twwait (lk : Fin 16) (ch : Fin 8) (b : SSrc)
  -- Major 0x77: tasks and groups (R247 to R253).
  | spawn (lk : Fin 16) (d : SReg) (a b : SSrc) (c : CSrc) (cls : Fin 16) (al : Fin 8) (pin : Bool)
  | spawnat (lk : Fin 16) (d : SReg) (a b : SSrc) (c : CSrc) (cls : Fin 16) (al : Fin 8) (pin : Bool)
  | tgnew (lk : Fin 16) (d : SReg) (g : GAddr) (ov : Fin 64) | tgclose (lk : Fin 16) (a : SSrc) (c : CSrc)
  | cancel (lk : Fin 16) (a : SSrc) | setdl (lk : Fin 16) (a b : SSrc) | setbg (lk : Fin 16) (a b : SSrc)
  -- Major 0x78: messages and handlers (R255 to R257).
  | msg (lk : Fin 16) (a b : SSrc) (cls : Fin 64) | hreg (lk : Fin 16) (a b : SSrc) (c : CSrc) (cls : Fin 64)
  | hdrop (lk : Fin 16) (cls : Fin 64)
  -- Major 0x79: the ternary array (R228 to R237).
  | tlease (lk : Fin 16) | trel (lk : Fin 16) | tfmt (lk : Fin 16) (kind : Fin 4) (k : Fin 8)
  | tldw (lk : Fin 16) (g : GAddr) (buf : Bool)
  | tmma (lk : Fin 16) (d : SReg) (a b : SSrc) (imm : BitVec 8) (buf : Bool)
  | tdrain (lk : Fin 16) (bf : Bool) (acc : Bool) (d : SReg) (a b : SSrc) (imm : BitVec 8) (vecScale buf : Bool)
  | tzero (lk : Fin 16) (d : SReg) (b : SSrc) | tstat (lk : Fin 16) (d : SReg) (k : Fin 4)
  -- Lanes and records (R95 to R112). l is a lane: logical core * 8 + lane of the core.
  | dispatch (task l : Nat) | registersLoaded (l : Nat) | frameLoadFault (l : Nat) | localQueueFill (task lcore : Nat)
  | budgetExhausted (l : Nat) | blockVerify (l : Nat) (parity : Bool) | commitDrain (l : Nat) | commitSave (l : Nat)
  | recordWrite (l : Nat) | abandonTimeout (l : Nat) | preemptionMessage (lcore : Nat) | coreResume (lcore : Nat)
  | urgencyPreempt (pkg : Nat) | cancelMark (gid pkg : Nat) | cancelRequest (gid lcore : Nat) | cancelFinish (gid : Nat)
  | reclaim (gid : Nat) | wake (n : Nat) | fenceRelease (task : Nat) | groupComplete (gid : Nat) | taskIdFree (task : Nat)
  -- Effects on their way. id is the effect's own number.
  | spawnAccept (id : Nat) | messageDeliver (src : MsgSrc) | wheelTick (pkg die : Nat) | watchRegister (id : Nat)
  | watchRetry (n : Nat) | joinApply (id : Nat) | tagExpiry (n : Nat) | exclStoreApply (id : Nat) | capApply (id : Nat)
  | readRequest (l : Nat) | readResponse (l : Nat) | readTimeout (l : Nat)
  | joinAck (id : Nat) | joinResend (id : Nat) | linklost (id : Nat) | splitResponse (id : Nat)
  -- Links (R340 to R345).
  | flitReceive (pkg port : Nat) (head : BitVec 128) (rest : BitVec 896) (merge : Option (Nat × Nat))
  | linkReplay (pkg port : Nat) | controlResend (what : Resent) | portLaneFailure (pkg port : Nat) (failed : BitVec 8)
  | packageUnreachable (pkg : Nat)
  -- Page faults (R292 to R295). n is the fault's number.
  | pageFaultService (n : Nat) | skepFaultResume (n : Nat) (ans : SkepAnswer) | faultServiceTimeout (n : Nat)
  | sideLogReplay (n : Nat)
  | windowStoreApply (id : Nat) | barrierArrival (id : Nat)
  -- Tile-walk engine (R240 to R246). comb is a logical comb.
  | tweStart (id : Nat) | twePermit (id : Nat) | tweRecordRead (comb ch : Nat) | twePoll (comb ch : Nat)
  | tweTransferDone (comb ch : Nat) | twePayloadWrite (comb : Nat) (what : PayStep)
  -- Ternary array (R228 to R239).
  | leaseGrant (comb : Nat) | slotEnd (comb : Nat) | slottabApply | tldwLoadEnd (comb : Nat) (buf : Bool)
  | arrayCommandEnd (comb : Nat)
  | timeSliceSwitch (site : Site)
  -- Fences and Waggle (R328, R331 to R335). Sites are physical combs.
  | holdSet (site : Site) | holdSetRedispatch (task : Nat) | heartbeat (site : Site)
  | heartbeatReceive (frm at' : Site) (seq : BitVec 16) (hb : Heartbeat) | heartbeatSilence (frm at' : Site)
  | accusation (accused accuser : Site) (heard : Hearing) | accusationExpiry (accused accuser : Site) | fenceNotice (site : Site)
  | selftestDone (site : Site) (pass : Bool) | appealVote (site voter : Site) | appealTimeout (site : Site)
  | appealHoldExpiry (site : Site) | fenceRemap (site : Site) (choice : List (Nat × Nat))
  | faultCounterLeak (u : FaultUnit) | correctedError (u : FaultUnit) | uncorrectableError (u : FaultUnit) (p : ErrPlace)
  | scrub (u : FaultUnit) (addr : Nat)
  -- Launches and host commands (R306, R307, R317 to R322, R347).
  | ttFire (entry : Fin 256) (desc : BitVec 2048) (m : Placing) | launchStart | completionPost
  | launch (desc : BitVec 2048) (m : Placing) | hostCancel | setclass | release | kill
  | ttwrite (bytes : BitVec 256) | preempt
  | sqtail (tail : Word) (entries : List Line) | cqhead (head : Word) | ringConfigWrite (off : Fin 256) (v : Word)
  | mbox (pkg : Nat) (addr : Word) (req : MboxReq) | imgload (req : Line) | imageLoaded (img : Option Image)
  -- Privileged and device register writes (R297, R304, R330, R339, R355).
  | flogcons (src : RegSrc) | flogmir (addr : Word) | fnmode (id : Nat) | slottab (id : Nat) | rsvlo (id : Nat)
  | rsvhi (id : Nat) | grpcls (id : Nat) | tttab (id : Nat) | attctl (id : Nat) | attestDone (pkg : Nat)
  | pwrcap (id : Nat) | registerWrite (id : Nat)
  -- Time, power, reset, boot (R346, R349, R352 to R354).
  | ptpSync (pkg : Nat) (offset : BitVec 32) (domain : BitVec 8) | ptpHoldover (pkg : Nat)
  | clockThrottle (pkg : Nat) (down : Bool) | thermalShutdown (pkg : Nat) | reset (pkg : Nat)
  | bootStepDone (pkg : Nat) (fail : Option (BitVec 16)) | functionLevelReset (pkg : Nat) (vf : Option Nat)
  | hotReset (pkg : Nat)
  -- Fetches that give no instruction (R137, R147), and the last two events of the table.
  | unassignedEncoding | fetchFault | mboxRequestDone (pkg : Nat) (result : BitVec 8)
  | portTrainingDone (pkg port : Nat) (lanesUp : BitVec 8) (peer : BitVec 18)
  deriving DecidableEq, Repr

end Sys2Proof
end

