-- ==== Sys2Proof/WellFormed.lean ====
section
/-!
DEFINITION. Which instructions an encoding can name: the ILLEGAL cases that the fields of a word decide beyond the
reserved bits (R83, R139, R143 to R147, R163, R178, R186, R194, R209, R217, R226).
-/

namespace Sys2Proof

/-- Integer element types (R178). -/
def ETy.isInt : ETy → Bool
  | .i8 | .i16 | .i32 | .i4 => true
  | _ => false

/-- Floating element types (R178). -/
def ETy.isFloat : ETy → Bool
  | .bf16 | .f16 | .f32 => true
  | _ => false

/-- Element width in bits (Table 3-7). -/
def ETy.width : ETy → Nat
  | .i4 => 4
  | .i8 | .x8 => 8
  | .i16 | .bf16 | .f16 => 16
  | .i32 | .f32 => 32

/-- N = 1 is accepted with TY 000, 001 and 010 only (R143). -/
def ETy.nOk (t : ETy) (n : Bool) : Bool :=
  !n || t == .i8 || t == .i16 || t == .i32

/-- A width code that a lattice type allows: 32 bits for maxf, minf and arr, 64 for fill and lap (R39). -/
def LTy.widthOk (t : LTy) (w : Wd) : Bool :=
  match t with
  | .maxf | .minf | .arr => w == .w32
  | .fill | .lap => w == .w64
  | _ => true

/-- Numbers of Table 1-5 (R32). -/
def isSpecial (n : Nat) : Bool := n ≤ 13 || (16 ≤ n && n ≤ 34)

/-- Trigger count of THR: IMM[7:6] + 1 on fill, otherwise 1 (R217). -/
def thrCount (t : LTy) (imm : BitVec 8) : Nat :=
  if t = .fill then imm.toNat / 64 + 1 else 1

/-- int or float (Table 8-1). -/
def ETy.arith (t : ETy) : Bool := t.isInt || t.isFloat

/-- Types that the sorts accept (Table 8-1). -/
def ETy.sortable (t : ETy) : Bool := t.arith && t != .i4

/-- Registers of one side of a conversion: wd/ws of R186 gives one register, a pair or a quad. -/
def cvtRegs (wide narrow : Nat) : Nat := wide / narrow

/-- The shapes of R186: widths in ratio 1, 2, 4, 1/2 or 1/4, pairs even and quads a multiple of 4. -/
def cvtOk (t st : ETy) (d a : VReg) : Bool :=
  let wd := t.width
  let ws := st.width
  if ws ≤ wd then (cvtRegs wd ws ≤ 4) && (d.val % cvtRegs wd ws == 0)
  else (cvtRegs ws wd ≤ 4) && (a.val % cvtRegs ws wd == 0)

/-- Two runs of k registers that share no register (R194). -/
def runsApart (d a k : Nat) : Bool := d + k ≤ a || a + k ≤ d

/-- The field values that make an instruction, as one check per constructor. -/
def Instr.wf : Instr → Bool
  | .cget _ _ k => k.val < 5
  | .mfs _ n | .mts n _ => isSpecial n.val
  | .loop a _ => a.val != 0
  | .vadd t .. | .vsub t .. | .vmul t .. | .vabs t .. | .vneg t .. | .vfma t .. | .vfms t .. | .vfnma t .. => t.arith
  | .vmulh t n .. | .vadds t n .. | .vsubs t n .. => t.isInt && t.nOk n
  | .vmin t n .. | .vmax t n .. | .vdiv t n .. => t.arith && t.nOk n
  | .vshl t .. | .vshr t .. | .vsra t .. | .vidx t .. => t.isInt
  | .vcmpeq t n .. | .vcmpne t n .. | .vcmplt t n .. | .vcmple t n .. | .vcmpgt t n .. | .vcmpge t n .. =>
    t.arith && t.nOk n
  | .vext t n .. => t.nOk n
  | .vperm t .. => t == .i16 || t == .i32 || t.isFloat
  | .vzip _ d .. => d.val % 2 == 0
  | .vunzip _ d a _ => d.val % 2 == 0 && a.r.val % 2 == 0
  | .vcvt t n d a st sn _ =>
    t.nOk n && st.nOk sn && !(t == .x8 && st == .x8) && cvtOk t st d a.r
  | .vwadd t n d .. | .vwmul t n d .. =>
    (t == .i4 || t == .i8 || t == .i16 || t == .bf16 || t == .f16) && t.nOk n && d.val % 2 == 0
  | .vnarrow t n _ a .. => (t == .i4 || t == .i8 || t == .i16) && t.nOk n && a.r.val % 2 == 0
  | .vred t n .. | .vdot t n .. | .vscan t n .. => t.arith && t.nOk n
  | .vsort t n .. => t.sortable && t.nOk n
  | .vsortkv t n d a logk _ =>
    t.sortable && t != .i8 && t.nOk n && logk.val != 3 && runsApart d.val a.r.val (2 ^ logk.val)
  | .vmerge t n d .. | .vtopk t n d .. => t.sortable && t.nOk n && d.val % 2 == 0
  | .vpackt t .. | .vunpkt t .. => t == .i4 || t == .i8
  | .join _ t w .. | .vjoin _ t w .. | .vjoinx _ t w .. | .xrd _ t w .. | .vxrd _ t w .. | .cap _ t w .. =>
    t.widthOk w
  | .thr _ t w _ _ g b => t.widthOk w && b.r.val + thrCount t g.imm ≤ 64
  | .thrf _ t w _ _ _ b => t.widthOk w && (t == .lap || (b.r.val == 0 && !b.last))
  | .spawn _ _ _ _ _ _ al _ => al.val ≤ 4
  | .spawnat _ _ a _ _ _ al _ => al.val ≤ 4 && a.r.val != 63
  | .msg _ _ b _ => b.r.val ≤ 60
  | .hreg _ a .. => a.r.val != 63
  | .tfmt _ kind k => kind.val != 3 && (kind.val == 0 || k.val == 0)
  | .tdrain _ bf acc _ _ b _ vs buf => !(bf && acc) && !(vs && (buf || b.r.val == 63))
  | .tstat _ _ k => k.val != 3
  | _ => true

end Sys2Proof
end

