-- ==== Sys2Proof/Decode.lean ====
section
/-!
DEFINITION. The decoder and the encoder of Tables 6-1 to 6-12 (R136 to R147): words are numbers, a field is a
quotient and a remainder, and every encoding that Table 6-11 does not assign is rejected by name.
-/

namespace Sys2Proof

/-- Why a word is no instruction: each name is a row of Table 6-12, and each raises ILLEGAL (R147). -/
inductive Bad where
  | unassigned
  | reservedField
  | reservedValue
  | missingWord
  deriving DecidableEq, Repr

/-- Bits lo to lo + n - 1 of a word (R3). -/
def fld (w lo n : Nat) : Nat := w / 2 ^ lo % 2 ^ n

/-- One bit of a word. -/
def bit (w i : Nat) : Bool := w / 2 ^ i % 2 == 1

/-- A scalar source at bit lo, its last-use bit just below (Tables 6-1 to 6-9). -/
def sSrcAt (w lo : Nat) : SSrc := ⟨Fin.ofNat 64 (w / 2 ^ lo), bit w (lo - 1)⟩

/-- A V-format source at bit lo. -/
def vSrcAt (w lo : Nat) : VSrc := ⟨Fin.ofNat 32 (w / 2 ^ lo), bit w (lo - 1)⟩

/-- A mask source at bit lo of a V-format word. -/
def mSrcAt (w lo : Nat) : MSrc := ⟨Fin.ofNat 8 (w / 2 ^ lo), bit w (lo - 1)⟩

/-- A capability source at bit lo. -/
def cSrcAt (w lo : Nat) : CSrc := ⟨Fin.ofNat 16 (w / 2 ^ lo), bit w (lo - 1)⟩

def sRegAt (w lo : Nat) : SReg := Fin.ofNat 64 (w / 2 ^ lo)
def vRegAt (w lo : Nat) : VReg := Fin.ofNat 32 (w / 2 ^ lo)
def mRegAt (w lo : Nat) : MReg := Fin.ofNat 8 (w / 2 ^ lo)
def cRegAt (w lo : Nat) : CReg := Fin.ofNat 16 (w / 2 ^ lo)

/-- An instruction whose reserved bits are zero, accepted when its field values are (R147). -/
def accept (zero : Bool) (i : Instr) : Except Bad Instr :=
  if zero then (if i.wf then .ok i else .error .reservedValue) else .error .reservedField

def ETy.ofCode (n : Nat) : ETy :=
  match n with
  | 0 => .i8 | 1 => .i16 | 2 => .i32 | 3 => .i4 | 4 => .bf16 | 5 => .f16 | 6 => .f32 | _ => .x8

def ETy.code : ETy → Nat
  | .i8 => 0 | .i16 => 1 | .i32 => 2 | .i4 => 3 | .bf16 => 4 | .f16 => 5 | .f32 => 6 | .x8 => 7

def LTy.ofCode (n : Nat) : Option LTy :=
  match n with
  | 0 => some .excl | 1 => some .maxn | 2 => some .maxi | 3 => some .minn | 4 => some .mini | 5 => some .maxf
  | 6 => some .minf | 7 => some .union | 8 => some .count | 9 => some .fill | 10 => some .lap | 11 => some .arr
  | 12 => some .code | 13 => some .mmio | _ => none

def LTy.toCode : LTy → Nat
  | .excl => 0 | .maxn => 1 | .maxi => 2 | .minn => 3 | .mini => 4 | .maxf => 5 | .minf => 6 | .union => 7
  | .count => 8 | .fill => 9 | .lap => 10 | .arr => 11 | .code => 12 | .mmio => 13

def Wd.ofCode (n : Nat) : Wd :=
  match n with
  | 0 => .w8 | 1 => .w16 | 2 => .w32 | _ => .w64

def Wd.code : Wd → Nat
  | .w8 => 0 | .w16 => 1 | .w32 => 2 | .w64 => 3

def Scope.ofCode (n : Nat) : Option Scope :=
  match n with
  | 0 => some .lane | 1 => some .core | 2 => some .comb | 3 => some .sector | 4 => some .die | 5 => some .pkg
  | 6 => some .node | 7 => some .rack | 8 => some .pod | 9 => some .sys | _ => none

def Scope.code : Scope → Nat
  | .lane => 0 | .core => 1 | .comb => 2 | .sector => 3 | .die => 4 | .pkg => 5 | .node => 6 | .rack => 7
  | .pod => 8 | .sys => 9

/-- OR and SC together: SC must be zero when OR is 0 (R144). -/
def Ord.ofCode (o sc : Nat) : Option Ord :=
  match o with
  | 0 => if sc = 0 then some .relaxed else none
  | 1 => (Scope.ofCode sc).map .acq
  | 2 => (Scope.ofCode sc).map .rel
  | _ => (Scope.ofCode sc).map .sc

/-- SC and OR in their places of word 1 (Table 6-9). -/
def Ord.bits : Ord → Nat
  | .relaxed => 0
  | .acq s => s.code * 16777216 + 4194304
  | .rel s => s.code * 16777216 + 8388608
  | .sc s => s.code * 16777216 + 12582912

def RSel.ofCode (n : Nat) : Option RSel :=
  match n with
  | 0 => some .fpc | 4 => some .rne | 5 => some .rtz | 6 => some .rdn | 7 => some .rup | _ => none

def RSel.code : RSel → Nat
  | .fpc => 0 | .rne => 4 | .rtz => 5 | .rdn => 6 | .rup => 7

def RedOp.ofCode (n : Nat) : Option RedOp :=
  match n with
  | 0 => some .sum | 1 => some .min | 2 => some .max | _ => none

def RedOp.code : RedOp → Nat
  | .sum => 0 | .min => 1 | .max => 2

def LdTy.ofCode (n : Nat) : Option LdTy :=
  match n with
  | 0 => some .i8 | 1 => some .n8 | 2 => some .i16 | 3 => some .n16 | 4 => some .i32 | 5 => some .n32
  | 6 => some .i64 | _ => none

def LdTy.code : LdTy → Nat
  | .i8 => 0 | .n8 => 1 | .i16 => 2 | .n16 => 3 | .i32 => 4 | .n32 => 5 | .i64 => 6

/-! Shapes of R-format words (Table 6-1). X is reserved in all of them. -/

def rSSS (mk : SReg → SSrc → SSrc → Instr) (w : Nat) : Except Bad Instr :=
  accept (fld w 0 1 == 0) (mk (sRegAt w 15) (sSrcAt w 9) (sSrcAt w 2))

def rSS (mk : SReg → SSrc → Instr) (w : Nat) : Except Bad Instr :=
  accept (fld w 0 8 == 0) (mk (sRegAt w 15) (sSrcAt w 9))

def rSSk (mk : SReg → SSrc → Fin 64 → Instr) (w : Nat) : Except Bad Instr :=
  accept (fld w 0 2 == 0) (mk (sRegAt w 15) (sSrcAt w 9) (Fin.ofNat 64 (w / 4)))

def rSSr (mk : SReg → SSrc → RSel → Instr) (w : Nat) : Except Bad Instr :=
  match RSel.ofCode (fld w 2 3) with
  | some r => accept (fld w 5 3 == 0 && fld w 0 2 == 0) (mk (sRegAt w 15) (sSrcAt w 9) r)
  | none => .error .reservedValue

def rAB (mk : SSrc → SSrc → Instr) (w : Nat) : Except Bad Instr :=
  accept (fld w 15 6 == 0 && fld w 0 1 == 0) (mk (sSrcAt w 9) (sSrcAt w 2))

def rA (mk : SSrc → Instr) (w : Nat) : Except Bad Instr :=
  accept (fld w 15 6 == 0 && fld w 0 8 == 0) (mk (sSrcAt w 9))

def rVSS (mk : VReg → SSrc → SSrc → Instr) (w : Nat) : Except Bad Instr :=
  accept (fld w 20 1 == 0 && fld w 0 1 == 0) (mk (vRegAt w 15) (sSrcAt w 9) (sSrcAt w 2))

def rVSV (mk : VReg → SSrc → VSrc → Instr) (w : Nat) : Except Bad Instr :=
  accept (fld w 20 1 == 0 && fld w 7 1 == 0 && fld w 0 1 == 0) (mk (vRegAt w 15) (sSrcAt w 9) (vSrcAt w 2))

def rCCS (mk : CReg → CSrc → SSrc → Instr) (w : Nat) : Except Bad Instr :=
  accept (fld w 19 2 == 0 && fld w 13 2 == 0 && fld w 0 1 == 0) (mk (cRegAt w 15) (cSrcAt w 9) (sSrcAt w 2))

/-! I, U, B and M formats (Tables 6-2 to 6-4, 6-6). -/

def iSSI (mk : SReg → SSrc → BitVec 12 → Instr) (w : Nat) : Except Bad Instr :=
  accept true (mk (sRegAt w 19) (sSrcAt w 13) (BitVec.ofNat 12 w))

def iShift (mk : SReg → SSrc → Fin 64 → Instr) (w : Nat) : Except Bad Instr :=
  accept (fld w 6 4 == 0) (mk (sRegAt w 19) (sSrcAt w 13) (Fin.ofNat 64 w))

def uS (mk : SReg → BitVec 19 → Instr) (w : Nat) : Except Bad Instr :=
  accept true (mk (sRegAt w 19) (BitVec.ofNat 19 w))

def bA (mk : SSrc → BitVec 15 → Instr) (w : Nat) : Except Bad Instr :=
  accept true (mk (sSrcAt w 16) (BitVec.ofNat 15 w))

/-- Loads: LA belongs to the address register (R140). -/
def mSLoad (mk : SReg → SSrc → BitVec 9 → Instr) (w : Nat) : Except Bad Instr :=
  accept true (mk (sRegAt w 16) (sSrcAt w 10) (BitVec.ofNat 9 w))

def mVLoad (mk : VReg → SSrc → BitVec 9 → Instr) (w : Nat) : Except Bad Instr :=
  accept (fld w 21 1 == 0) (mk (vRegAt w 16) (sSrcAt w 10) (BitVec.ofNat 9 w))

/-- Stores: LA belongs to the data or count register in D (R140). -/
def mSStore (mk : SSrc → SReg → BitVec 9 → Instr) (w : Nat) : Except Bad Instr :=
  accept true (mk ⟨sRegAt w 16, bit w 9⟩ (sRegAt w 10) (BitVec.ofNat 9 w))

def mVStore (mk : VSrc → SReg → BitVec 9 → Instr) (w : Nat) : Except Bad Instr :=
  accept (fld w 21 1 == 0) (mk ⟨vRegAt w 16, bit w 9⟩ (sRegAt w 10) (BitVec.ofNat 9 w))

/-! V format (Table 6-7). N and M are checked where an instruction has no use for them. -/

def vTy (w : Nat) : ETy := ETy.ofCode (fld w 22 3)
def vN (w : Nat) : Bool := bit w 18
def vM (w : Nat) : Bool := bit w 0

def vVVV (mk : ETy → VReg → VSrc → VSrc → Bool → Instr) (w : Nat) : Except Bad Instr :=
  accept (fld w 18 1 == 0) (mk (vTy w) (vRegAt w 13) (vSrcAt w 8) (vSrcAt w 2) (vM w))

def vVVVn (mk : ETy → Bool → VReg → VSrc → VSrc → Bool → Instr) (w : Nat) : Except Bad Instr :=
  accept true (mk (vTy w) (vN w) (vRegAt w 13) (vSrcAt w 8) (vSrcAt w 2) (vM w))

def vVV (mk : ETy → VReg → VSrc → Bool → Instr) (w : Nat) : Except Bad Instr :=
  accept (fld w 18 1 == 0 && fld w 1 6 == 0) (mk (vTy w) (vRegAt w 13) (vSrcAt w 8) (vM w))

def vCmp (mk : ETy → Bool → MReg → VSrc → VSrc → Bool → Instr) (w : Nat) : Except Bad Instr :=
  accept (fld w 16 2 == 0) (mk (vTy w) (vN w) (mRegAt w 13) (vSrcAt w 8) (vSrcAt w 2) (vM w))

def vMMM (mk : ETy → MReg → MSrc → MSrc → Instr) (w : Nat) : Except Bad Instr :=
  accept (fld w 16 3 == 0 && fld w 11 2 == 0 && fld w 5 2 == 0 && fld w 0 1 == 0)
    (mk (vTy w) (mRegAt w 13) (mSrcAt w 8) (mSrcAt w 2))

def vMM (mk : ETy → MReg → MSrc → Instr) (w : Nat) : Except Bad Instr :=
  accept (fld w 16 3 == 0 && fld w 11 2 == 0 && fld w 0 7 == 0) (mk (vTy w) (mRegAt w 13) (mSrcAt w 8))

def vSM (mk : ETy → VReg → MSrc → Instr) (w : Nat) : Except Bad Instr :=
  accept (fld w 18 1 == 0 && fld w 11 2 == 0 && fld w 0 7 == 0) (mk (vTy w) (vRegAt w 13) (mSrcAt w 8))

def vMS (mk : ETy → MReg → VSrc → Instr) (w : Nat) : Except Bad Instr :=
  accept (fld w 16 3 == 0 && fld w 0 7 == 0) (mk (vTy w) (mRegAt w 13) (vSrcAt w 8))

/-- VRED and VSCAN: the operator in VB[1:0] (R192). -/
def vRedn (mk : ETy → Bool → VReg → VSrc → RedOp → Bool → Instr) (w : Nat) : Except Bad Instr :=
  match RedOp.ofCode (fld w 2 2) with
  | some op => accept (fld w 4 3 == 0 && fld w 1 1 == 0) (mk (vTy w) (vN w) (vRegAt w 13) (vSrcAt w 8) op (vM w))
  | none => .error .reservedValue

/-- The f32 functions of major 0x2B (R195). -/
def vF32 (mk : VReg → VSrc → Bool → Instr) (w : Nat) : Except Bad Instr :=
  if vTy w = .f32 then
    accept (fld w 18 1 == 0 && fld w 1 6 == 0) (mk (vRegAt w 13) (vSrcAt w 8) (vM w))
  else .error .reservedValue

/-! Long forms (Tables 6-8, 6-9, 9-4 and 10-1). w0 and w1 are the two words. -/

def lkOf (w1 : Nat) : Fin 16 := Fin.ofNat 16 (w1 / 268435456)

/-- The address fields A, C and IMM. -/
def gAddr (w0 w1 : Nat) : GAddr := ⟨sSrcAt w0 8, cSrcAt w1 10, BitVec.ofNat 8 w1⟩

/-- A field that must be zero: D, B with LB, A with LA, C with LC, and bits of word 1. -/
def zD (w0 : Nat) : Bool := fld w0 14 6 == 0
def zB (w0 : Nat) : Bool := fld w0 0 7 == 0
def zA (w0 : Nat) : Bool := fld w0 7 7 == 0
def zC (w1 : Nat) : Bool := fld w1 9 7 == 0
def zX (w1 : Nat) : Bool := fld w1 8 1 == 0
def zImm (w1 : Nat) : Bool := fld w1 0 8 == 0
/-- TY, W, OR and SC all zero. -/
def zMods (w1 : Nat) : Bool := fld w1 16 12 == 0
/-- C[5:4] zero (R139). -/
def cOk (w1 : Nat) : Bool := fld w1 14 2 == 0

/-- The order of a form that takes one, TY and W as the reader finds them. -/
def withOrd (w1 : Nat) (k : Ord → Except Bad Instr) : Except Bad Instr :=
  match Ord.ofCode (fld w1 22 2) (fld w1 24 4) with
  | some o => k o
  | none => .error .reservedField

/-- The lattice type and width of word 1. -/
def withTy (w1 : Nat) (k : LTy → Wd → Except Bad Instr) : Except Bad Instr :=
  match LTy.ofCode (fld w1 18 4) with
  | some t => k t (Wd.ofCode (fld w1 16 2))
  | none => .error .reservedField

/-! One decoder per major, its arms the FN values of Table 6-11. -/

def decArith (w : Nat) : Except Bad Instr :=
  match fld w 21 4 with
  | 0 => rSSS .add w
  | 1 => rSSS .sub w
  | 2 => rSSS .mul w
  | 3 => rSSS .mulh w
  | 4 => rSSS .mulhn w
  | 5 => rSSS .div w
  | 6 => rSSS .divn w
  | 7 => rSSS .rem w
  | 8 => rSSS .remn w
  | 9 => rSSS .min w
  | 10 => rSSS .max w
  | 11 => rSSS .minn w
  | 12 => rSSS .maxn w
  | 13 => rSS .abs w
  | _ => .error .unassigned

def decLogic (w : Nat) : Except Bad Instr :=
  match fld w 21 4 with
  | 0 => rSSS .and w
  | 1 => rSSS .or w
  | 2 => rSSS .xor w
  | 3 => rSSS .andn w
  | 4 => rSSS .shl w
  | 5 => rSSS .shr w
  | 6 => rSSS .sra w
  | 7 => rSSS .rol w
  | 8 => rSSS .slt w
  | 9 => rSSS .sltn w
  | 10 => rSSS .seq w
  | 11 => rSSS .sne w
  | 12 => rSSS .csel w
  | _ => .error .unassigned

def decBits (w : Nat) : Except Bad Instr :=
  match fld w 21 4 with
  | 0 => rSS .clz w
  | 1 => rSS .ctz w
  | 2 => rSS .popc w
  | 3 => rSS .brev w
  | 4 => rSS .bswap w
  | 5 => rSSk .exts w
  | 6 => rSSk .extz w
  | _ => .error .unassigned

def decFloat (w : Nat) : Except Bad Instr :=
  match fld w 21 4 with
  | 0 => rSSS .fadd w
  | 1 => rSSS .fsub w
  | 2 => rSSS .fmul w
  | 3 => rSSS .fma w
  | 4 => rSSS .fdiv w
  | 5 => rSSr .fsqrt w
  | 6 => rSSS .fmin w
  | 7 => rSSS .fmax w
  | 8 => rSSS .fcmp w
  | 9 => rSSr .fcvti w
  | 10 => rSSr .icvtf w
  | 11 => rSS .fclass w
  | _ => .error .unassigned

def decCapability (w : Nat) : Except Bad Instr :=
  match fld w 21 4 with
  | 0 => accept (fld w 19 2 == 0 && fld w 13 2 == 0 && fld w 0 8 == 0) (.cmov (cRegAt w 15) (cSrcAt w 9))
  | 1 => rCCS .cinc w
  | 2 => rCCS .cbound w
  | 3 => rCCS .crights w
  | 4 => accept (fld w 13 2 == 0 && fld w 0 2 == 0) (.cget (sRegAt w 15) (cSrcAt w 9) (Fin.ofNat 64 (w / 4)))
  | 5 => accept (fld w 13 2 == 0 && fld w 0 1 == 0) (.ctest (sRegAt w 15) (cSrcAt w 9) (sSrcAt w 2))
  | _ => .error .unassigned

def decSystem (w : Nat) : Except Bad Instr :=
  match fld w 21 4 with
  | 0 => accept (fld w 0 9 == 0) (.mfs (sRegAt w 15) (Fin.ofNat 64 (w / 512)))
  | 1 => accept (fld w 0 8 == 0) (.mts (Fin.ofNat 64 (w / 32768)) (sSrcAt w 9))
  | 2 => rA .trap w
  | 3 => rA .tret w
  | 4 => rSS .sysrd w
  | 5 => rAB .syswr w
  | _ => .error .unassigned

def decCommit (w : Nat) : Except Bad Instr :=
  match fld w 21 4 with
  | 0 => accept (fld w 0 21 == 0) .yield
  | 1 => accept (fld w 0 21 == 0) .endOp
  | _ => .error .unassigned

def decStrided (w : Nat) : Except Bad Instr :=
  match fld w 21 4 with
  | 0 => rVSS .vldss w
  | 1 => rVSS .vstss w
  | 2 => rVSV .vgats w
  | 3 => rVSV .vscts w
  | _ => .error .unassigned

def decPacked (w : Nat) : Except Bad Instr :=
  match fld w 21 4 with
  | 0 => rVSS .vldb w
  | 1 => rVSS .vstb w
  | _ => .error .unassigned

def decBarrier (w : Nat) : Except Bad Instr :=
  match fld w 21 4 with
  | 0 => rAB .binit w
  | 1 => rA .barr w
  | 2 => rAB .bwait w
  | 3 => rSS .bstat w
  | _ => .error .unassigned

def decVArith (w : Nat) : Except Bad Instr :=
  match fld w 19 3 with
  | 0 => vVVV .vadd w
  | 1 => vVVV .vsub w
  | 2 => vVVV .vmul w
  | 3 => vVVVn .vmulh w
  | 4 => vVVVn .vadds w
  | 5 => vVVVn .vsubs w
  | 6 => vVVVn .vmin w
  | 7 => vVVVn .vmax w
  | _ => .error .unassigned

def decVArith2 (w : Nat) : Except Bad Instr :=
  match fld w 19 3 with
  | 0 => vVV .vabs w
  | 1 => vVV .vneg w
  | 2 => vVVVn .vdiv w
  | 3 => vVVV .vfma w
  | 4 => vVVV .vfms w
  | 5 => vVVV .vfnma w
  | _ => .error .unassigned

def decVLogic (w : Nat) : Except Bad Instr :=
  match fld w 19 3 with
  | 0 => vVVV .vand w
  | 1 => vVVV .vor w
  | 2 => vVVV .vxor w
  | 3 => vVV .vnot w
  | 4 => vVVV .vshl w
  | 5 => vVVV .vshr w
  | 6 => vVVV .vsra w
  | _ => .error .unassigned

def decVCompare (w : Nat) : Except Bad Instr :=
  match fld w 19 3 with
  | 0 => vCmp .vcmpeq w
  | 1 => vCmp .vcmpne w
  | 2 => vCmp .vcmplt w
  | 3 => vCmp .vcmple w
  | 4 => vCmp .vcmpgt w
  | 5 => vCmp .vcmpge w
  | _ => .error .unassigned

def decVMask (w : Nat) : Except Bad Instr :=
  match fld w 19 3 with
  | 0 => accept (fld w 18 1 == 0 && fld w 0 1 == 0) (.vsel (vTy w) (vRegAt w 13) (vSrcAt w 8) (vSrcAt w 2))
  | 1 => vMMM .mand w
  | 2 => vMMM .mor w
  | 3 => vMMM .mxor w
  | 4 => vMM .mnot w
  | 5 => vSM .mpop w
  | 6 => vSM .mfirst w
  | 7 => vMS .mset w
  | _ => .error .unassigned

def decVMove (w : Nat) : Except Bad Instr :=
  match fld w 19 3 with
  | 0 => vVV .vmov w
  | 1 => vVV .vsplat w
  | 2 => accept (fld w 0 1 == 0) (.vext (vTy w) (vN w) (vRegAt w 13) (vSrcAt w 8) (vSrcAt w 2))
  | 3 => vVVV .vins w
  | 4 => vVV .vidx w
  | _ => .error .unassigned

def decVPermute (w : Nat) : Except Bad Instr :=
  match fld w 19 3 with
  | 0 => vVVV .vperm w
  | 1 => vVVV .vrot w
  | 2 => vVVV .vslide w
  | 3 => vVVV .vzip w
  | 4 => vVV .vunzip w
  | _ => .error .unassigned

def decVRelative (w : Nat) : Except Bad Instr :=
  match fld w 19 3 with
  | 0 => vVVV .vgetr w
  | 1 => vVVV .vputr w
  | _ => .error .unassigned

def decVConvert (w : Nat) : Except Bad Instr :=
  match fld w 19 3 with
  | 0 => accept (fld w 6 1 == 0 && fld w 1 1 == 0)
      (.vcvt (vTy w) (vN w) (vRegAt w 13) (vSrcAt w 8) (ETy.ofCode (fld w 2 3)) (bit w 5) (vM w))
  | 1 => vVVVn .vwadd w
  | 2 => vVVVn .vwmul w
  | 3 => accept (fld w 1 1 == 0)
      (.vnarrow (vTy w) (vN w) (vRegAt w 13) (vSrcAt w 8) (Fin.ofNat 32 (w / 4)) (vM w))
  | 4 => accept (fld w 22 3 == 7 && fld w 18 1 == 0 && fld w 16 2 == 0 && fld w 0 7 == 0)
      (.vfmt (Fin.ofNat 8 (w / 8192)) (vSrcAt w 8))
  | _ => .error .unassigned

def decVReduce (w : Nat) : Except Bad Instr :=
  match fld w 19 3 with
  | 0 => vRedn .vred w
  | 1 => vVVVn .vdot w
  | 2 => vRedn .vscan w
  | _ => .error .unassigned

def decVSort (w : Nat) : Except Bad Instr :=
  match fld w 19 3 with
  | 0 => accept (fld w 7 6 == 0 && fld w 5 2 == 0 && fld w 0 2 == 0)
      (.vsort (vTy w) (vN w) (vRegAt w 13) (Fin.ofNat 4 (w / 4)) (bit w 4))
  | 1 => accept (fld w 5 2 == 0 && fld w 0 2 == 0)
      (.vsortkv (vTy w) (vN w) (vRegAt w 13) (vSrcAt w 8) (Fin.ofNat 4 (w / 4)) (bit w 4))
  | 2 => accept (fld w 0 1 == 0) (.vmerge (vTy w) (vN w) (vRegAt w 13) (vSrcAt w 8) (vSrcAt w 2))
  | 3 => accept (fld w 0 1 == 0) (.vtopk (vTy w) (vN w) (vRegAt w 13) (vSrcAt w 8) (vSrcAt w 2))
  | _ => .error .unassigned

def decVSpecial (w : Nat) : Except Bad Instr :=
  match fld w 19 3 with
  | 0 => vF32 .vrcp w
  | 1 => vF32 .vrsq w
  | 2 => match RSel.ofCode (fld w 2 3) with
    | some r =>
      accept (fld w 22 3 == 6 && fld w 18 1 == 0 && fld w 5 2 == 0 && fld w 1 1 == 0)
        (.vsqrt (vRegAt w 13) (vSrcAt w 8) r (vM w))
    | none => .error .reservedValue
  | 3 => vF32 .vexp2 w
  | 4 => vF32 .vlog2 w
  | 5 => vF32 .vtanh w
  | _ => .error .unassigned

def decVRandom (w : Nat) : Except Bad Instr :=
  match fld w 19 3 with
  | 0 => accept (fld w 22 3 == 2) (.vrand (vN w) (vRegAt w 13) (vSrcAt w 8) (vSrcAt w 2) (vM w))
  | _ => .error .unassigned

def decVTrit (w : Nat) : Except Bad Instr :=
  match fld w 19 3 with
  | 0 => accept (fld w 18 1 == 0 && fld w 0 7 == 0) (.vpackt (vTy w) (vRegAt w 13) (vSrcAt w 8))
  | 1 => accept (fld w 18 1 == 0 && fld w 0 7 == 0) (.vunpkt (vTy w) (vRegAt w 13) (vSrcAt w 8))
  | 2 => accept (fld w 22 3 == 0 && fld w 18 1 == 0 && fld w 0 7 == 0) (.vtchk (vRegAt w 13) (vSrcAt w 8))
  | _ => .error .unassigned

def decShiftImm (w : Nat) : Except Bad Instr :=
  match fld w 10 2 with
  | 0 => iShift .shli w
  | 1 => iShift .shri w
  | 2 => iShift .srai w
  | _ => .error .unassigned

def decBranch (w : Nat) : Except Bad Instr :=
  match fld w 22 3 with
  | 0 => bA .beqz w
  | 1 => bA .bnez w
  | 2 => bA .bltz w
  | 3 => bA .bgez w
  | 4 => bA .bgtz w
  | 5 => bA .blez w
  | _ => .error .unassigned

def decLds (w : Nat) : Except Bad Instr :=
  match LdTy.ofCode (fld w 22 3) with
  | some t => mSLoad (.lds t) w
  | none => .error .unassigned

def decSts (w : Nat) : Except Bad Instr :=
  if fld w 22 3 < 4 then mSStore (.sts (Wd.ofCode (fld w 22 3))) w else .error .unassigned

def decVScratch (w : Nat) : Except Bad Instr :=
  match fld w 22 3 with
  | 0 => mVLoad .vlds w
  | 1 => mVStore .vsts w
  | _ => .error .unassigned

/-- FN is 2 * window + kind, windows 1 to 3 (Table 6-11). -/
def decWindow (w : Nat) : Except Bad Instr :=
  match fld w 22 3 with
  | 2 => mSStore (.stn 0) w
  | 3 => mVStore (.vstn 0) w
  | 4 => mSStore (.stn 1) w
  | 5 => mVStore (.vstn 1) w
  | 6 => mSStore (.stn 2) w
  | 7 => mVStore (.vstn 2) w
  | _ => .error .unassigned

def decFull (w : Nat) : Except Bad Instr :=
  match fld w 22 3 with
  | 0 => mSLoad .ldf w
  | 1 => mVLoad .vldf w
  | 2 => mSStore .fclr w
  | 3 => mSStore .fset w
  | _ => .error .unassigned

def decWaita (w : Nat) : Except Bad Instr :=
  match fld w 22 3 with
  | 0 => mSLoad .waita w
  | _ => .error .unassigned

/-! Long forms. -/

def decExcl (w0 w1 : Nat) : Except Bad Instr :=
  withOrd w1 fun o =>
  let ty0 := fld w1 18 4 == 0
  let w := Wd.ofCode (fld w1 16 2)
  let w00 := fld w1 16 2 == 0
  let base := ty0 && cOk w1 && zX w1
  match fld w0 20 5 with
  | 0 => accept (base && zB w0) (.ldx (lkOf w1) w o (sRegAt w0 14) (gAddr w0 w1))
  | 1 => accept (base && zD w0) (.stx (lkOf w1) w o (gAddr w0 w1) (sSrcAt w0 1))
  | 2 => accept (base && w00 && zB w0 && fld w0 19 1 == 0) (.vldx (lkOf w1) o (vRegAt w0 14) (gAddr w0 w1))
  | 3 => accept (base && w00 && zD w0 && fld w0 6 1 == 0) (.vstx (lkOf w1) o (gAddr w0 w1) (vSrcAt w0 1))
  | 4 => accept (base && w00 && zB w0 && fld w0 18 2 == 0) (.ldc (lkOf w1) o (cRegAt w0 14) (gAddr w0 w1))
  | 5 => accept (base && w00 && zD w0 && fld w0 5 2 == 0) (.stc (lkOf w1) o (gAddr w0 w1) (cSrcAt w0 1))
  | _ => .error .unassigned

def decJoin (w0 w1 : Nat) : Except Bad Instr :=
  withOrd w1 fun o =>
  withTy w1 fun t w =>
  match fld w0 20 5 with
  | 0 => accept (cOk w1 && zX w1 && zD w0) (.join (lkOf w1) t w o (gAddr w0 w1) (sSrcAt w0 1))
  | 1 => accept (cOk w1 && zX w1 && zD w0 && fld w0 6 1 == 0) (.vjoin (lkOf w1) t w o (gAddr w0 w1) (vSrcAt w0 1))
  | 2 =>
    accept (cOk w1 && zX w1 && fld w0 17 3 == 0 && fld w0 6 1 == 0)
      (.vjoinx (lkOf w1) t w o (gAddr w0 w1) (vSrcAt w0 1) (Fin.ofNat 8 (w0 / 16384)))
  | _ => .error .unassigned

def decThr (w0 w1 : Nat) : Except Bad Instr :=
  withOrd w1 fun o =>
  withTy w1 fun t w =>
  match fld w0 20 5 with
  | 0 => accept (cOk w1 && zX w1) (.thr (lkOf w1) t w o (sRegAt w0 14) (gAddr w0 w1) (sSrcAt w0 1))
  | 1 =>
    accept (cOk w1 && zX w1 && fld w0 19 1 == 0)
      (.thrf (lkOf w1) t w o (vRegAt w0 14) (gAddr w0 w1) (sSrcAt w0 1))
  | _ => .error .unassigned

def decExact (w0 w1 : Nat) : Except Bad Instr :=
  withTy w1 fun t w =>
  match fld w0 20 5 with
  | 0 =>
    withOrd w1 fun o => accept (cOk w1 && zX w1 && zB w0) (.xrd (lkOf w1) t w o (sRegAt w0 14) (gAddr w0 w1))
  | 1 =>
    withOrd w1 fun o =>
    accept (cOk w1 && zB w0 && fld w0 19 1 == 0)
      (.vxrd (lkOf w1) t w o (vRegAt w0 14) (gAddr w0 w1) (bit w1 8))
  | 2 =>
    match Scope.ofCode (fld w1 24 4) with
    | some sc =>
      accept (cOk w1 && zX w1 && zD w0 && fld w1 23 1 == 0)
        (.cap (lkOf w1) t w sc (bit w1 22) (gAddr w0 w1) (sSrcAt w0 1))
    | none => .error .reservedField
  | _ => .error .unassigned

def decFence (w0 w1 : Nat) : Except Bad Instr :=
  match fld w0 20 5 with
  | 0 =>
    match Scope.ofCode (fld w1 24 4) with
    | some sc =>
      accept (fld w0 0 20 == 0 && fld w1 22 2 == 3 && fld w1 16 6 == 0 && fld w1 0 16 == 0) (.fence (lkOf w1) sc)
    | none => .error .reservedField
  | _ => .error .unassigned

def decOfork (w0 w1 : Nat) : Except Bad Instr :=
  match fld w0 20 5 with
  | 0 =>
    accept (fld w0 18 2 == 0 && zA w0 && zMods w1 && cOk w1 && zX w1 && zImm w1)
      (.ofork (lkOf w1) (cRegAt w0 14) (cSrcAt w1 10) (sSrcAt w0 1))
  | _ => .error .unassigned

def decTwe (w0 w1 : Nat) : Except Bad Instr :=
  match fld w0 20 5 with
  | 0 =>
    accept (zMods w1 && fld w0 17 3 == 0 && zB w0 && cOk w1 && zX w1)
      (.twgo (lkOf w1) (Fin.ofNat 8 (w0 / 16384)) (gAddr w0 w1))
  | 1 =>
    accept (zMods w1 && fld w0 17 3 == 0 && zA w0 && zC w1 && zX w1 && zImm w1)
      (.twperm (lkOf w1) (Fin.ofNat 8 (w0 / 16384)) (sSrcAt w0 1))
  | 2 =>
    accept (zMods w1 && zA w0 && zB w0 && zC w1 && zX w1 && fld w1 5 3 == 0)
      (.twstat (lkOf w1) (sRegAt w0 14) (Fin.ofNat 8 w1) (Fin.ofNat 4 (w1 / 8)))
  | 3 =>
    accept (zMods w1 && fld w0 17 3 == 0 && zA w0 && zC w1 && zX w1 && zImm w1)
      (.twwait (lkOf w1) (Fin.ofNat 8 (w0 / 16384)) (sSrcAt w0 1))
  | _ => .error .unassigned

def decTask (w0 w1 : Nat) : Except Bad Instr :=
  match fld w0 20 5 with
  | 0 =>
    accept (zMods w1 && cOk w1 && fld w1 7 1 == 0)
      (.spawn (lkOf w1) (sRegAt w0 14) (sSrcAt w0 8) (sSrcAt w0 1) (cSrcAt w1 10) (Fin.ofNat 16 w1)
        (Fin.ofNat 8 (w1 / 16)) (bit w1 8))
  | 1 =>
    accept (zMods w1 && cOk w1 && fld w1 7 1 == 0)
      (.spawnat (lkOf w1) (sRegAt w0 14) (sSrcAt w0 8) (sSrcAt w0 1) (cSrcAt w1 10) (Fin.ofNat 16 w1)
        (Fin.ofNat 8 (w1 / 16)) (bit w1 8))
  | 2 =>
    accept (zMods w1 && cOk w1 && zX w1 && fld w0 0 1 == 0)
      (.tgnew (lkOf w1) (sRegAt w0 14) (gAddr w0 w1) (Fin.ofNat 64 (w0 / 2)))
  | 3 =>
    accept (zMods w1 && zD w0 && zB w0 && cOk w1 && zX w1 && zImm w1) (.tgclose (lkOf w1) (sSrcAt w0 8) (cSrcAt w1 10))
  | 4 => accept (zMods w1 && zD w0 && zB w0 && zC w1 && zX w1 && zImm w1) (.cancel (lkOf w1) (sSrcAt w0 8))
  | 5 => accept (zMods w1 && zD w0 && zC w1 && zX w1 && zImm w1) (.setdl (lkOf w1) (sSrcAt w0 8) (sSrcAt w0 1))
  | 6 => accept (zMods w1 && zD w0 && zC w1 && zX w1 && zImm w1) (.setbg (lkOf w1) (sSrcAt w0 8) (sSrcAt w0 1))
  | _ => .error .unassigned

def decMessage (w0 w1 : Nat) : Except Bad Instr :=
  match fld w0 20 5 with
  | 0 =>
    accept (zMods w1 && zD w0 && zC w1 && zX w1 && fld w1 6 2 == 0)
      (.msg (lkOf w1) (sSrcAt w0 8) (sSrcAt w0 1) (Fin.ofNat 64 w1))
  | 1 =>
    accept (zMods w1 && zD w0 && cOk w1 && zX w1 && fld w1 6 2 == 0)
      (.hreg (lkOf w1) (sSrcAt w0 8) (sSrcAt w0 1) (cSrcAt w1 10) (Fin.ofNat 64 w1))
  | 2 =>
    accept (zMods w1 && fld w0 0 20 == 0 && zC w1 && zX w1 && fld w1 6 2 == 0) (.hdrop (lkOf w1) (Fin.ofNat 64 w1))
  | _ => .error .unassigned

/-- TDRAIN's use of TY, W and X (R235). -/
def decTdrain (w0 w1 : Nat) : Except Bad Instr :=
  accept (fld w1 22 6 == 0 && fld w1 20 2 == 0 && fld w1 17 1 == 0 && zC w1)
    (.tdrain (lkOf w1) (bit w1 18) (bit w1 19) (sRegAt w0 14) (sSrcAt w0 8) (sSrcAt w0 1) (BitVec.ofNat 8 w1)
      (bit w1 16) (bit w1 8))

def decArray (w0 w1 : Nat) : Except Bad Instr :=
  match fld w0 20 5 with
  | 0 => accept (zMods w1 && fld w0 0 20 == 0 && zC w1 && zX w1 && zImm w1) (.tlease (lkOf w1))
  | 1 => accept (zMods w1 && fld w0 0 20 == 0 && zC w1 && zX w1 && zImm w1) (.trel (lkOf w1))
  | 2 =>
    accept (zMods w1 && fld w0 0 20 == 0 && zC w1 && zX w1 && fld w1 5 3 == 0)
      (.tfmt (lkOf w1) (Fin.ofNat 4 (w1 / 8)) (Fin.ofNat 8 w1))
  | 3 => accept (zMods w1 && zD w0 && zB w0 && cOk w1) (.tldw (lkOf w1) (gAddr w0 w1) (bit w1 8))
  | 4 =>
    accept (zMods w1 && zC w1)
      (.tmma (lkOf w1) (sRegAt w0 14) (sSrcAt w0 8) (sSrcAt w0 1) (BitVec.ofNat 8 w1) (bit w1 8))
  | 5 => decTdrain w0 w1
  | 6 => accept (zMods w1 && zA w0 && zC w1 && zX w1 && zImm w1) (.tzero (lkOf w1) (sRegAt w0 14) (sSrcAt w0 1))
  | 7 =>
    accept (zMods w1 && zA w0 && zB w0 && zC w1 && zX w1 && fld w1 2 6 == 0)
      (.tstat (lkOf w1) (sRegAt w0 14) (Fin.ofNat 4 w1))
  | _ => .error .unassigned

/-- The long forms by major (Table 6-11); majors 0x7A to 0x7F are refused on word 0. -/
def decLong (maj w0 w1 : Nat) : Except Bad Instr :=
  match maj with
  | 0x70 => decExcl w0 w1
  | 0x71 => decJoin w0 w1
  | 0x72 => decThr w0 w1
  | 0x73 => decExact w0 w1
  | 0x74 => decFence w0 w1
  | 0x75 => decOfork w0 w1
  | 0x76 => decTwe w0 w1
  | 0x77 => decTask w0 w1
  | 0x78 => decMessage w0 w1
  | 0x79 => decArray w0 w1
  | _ => .error .unassigned

/-- The one-word majors 0x00 to 0x1F. -/
def decLow (maj w : Nat) : Except Bad Instr :=
  match maj with
  | 0x01 => decArith w
  | 0x02 => decLogic w
  | 0x03 => decBits w
  | 0x04 => decFloat w
  | 0x05 => decCapability w
  | 0x06 => decSystem w
  | 0x08 => iSSI .addi w
  | 0x09 => iSSI .andi w
  | 0x0A => iSSI .ori w
  | 0x0B => iSSI .xori w
  | 0x0C => decShiftImm w
  | 0x0D => iSSI .slti w
  | 0x0E => uS .movhi w
  | 0x0F => uS .addpc w
  | 0x10 => accept (fld w 23 2 == 0 && fld w 17 2 == 0) (.cinci (cRegAt w 19) (cSrcAt w 13) (BitVec.ofNat 12 w))
  | 0x16 => decBranch w
  | 0x17 => accept true (.j (BitVec.ofNat 25 w))
  | 0x18 => accept true (.jal (BitVec.ofNat 25 w))
  | 0x19 => iSSI .jalr w
  | 0x1A => accept (fld w 22 3 == 0 && fld w 15 1 == 0) (.loop (sRegAt w 16) (BitVec.ofNat 15 w))
  | 0x1B => accept (fld w 20 5 == 0) (.sig (BitVec.ofNat 20 w))
  | 0x1C => accept (fld w 0 25 == 0) .nop
  | 0x1D => decCommit w
  | _ => .error .unassigned

/-- The one-word majors 0x20 to 0x6F. -/
def decHigh (maj w : Nat) : Except Bad Instr :=
  match maj with
  | 0x20 => decVArith w
  | 0x21 => decVArith2 w
  | 0x22 => decVLogic w
  | 0x23 => decVCompare w
  | 0x24 => decVMask w
  | 0x25 => decVMove w
  | 0x26 => decVPermute w
  | 0x27 => decVRelative w
  | 0x28 => decVConvert w
  | 0x29 => decVReduce w
  | 0x2A => decVSort w
  | 0x2B => decVSpecial w
  | 0x2C => decVRandom w
  | 0x2D => decVTrit w
  | 0x40 => decLds w
  | 0x41 => decSts w
  | 0x42 => decVScratch w
  | 0x43 => decStrided w
  | 0x44 => decPacked w
  | 0x45 => decWindow w
  | 0x46 => decFull w
  | 0x47 => decWaita w
  | 0x58 => decBarrier w
  | _ => .error .unassigned

/-- The major opcode w[31:25] (R136). -/
def majorOf (w0 : Nat) : Nat := fld w0 25 7

/-- Majors 0x70 to 0x7F are long forms (R136). -/
def isLong (w0 : Nat) : Bool := 0x70 ≤ majorOf w0

/-- The instruction that word 0, and for a long form word 1, encode (R136, R146, R147). -/
def decodeWords (w0 : Nat) (w1 : Option Nat) : Except Bad Instr :=
  if majorOf w0 < 0x20 then decLow (majorOf w0) w0
  else if majorOf w0 < 0x70 then decHigh (majorOf w0) w0
  else if 0x7A ≤ majorOf w0 then .error .unassigned
  else
    match w1 with
    | some w1 => decLong (majorOf w0) w0 w1
    | none => .error .missingWord

/-- A 32-bit word from four bytes, least significant first (R3, R136). -/
def wordOfBytes (b0 b1 b2 b3 : Byte) : Nat :=
  b0.toNat + 256 * (b1.toNat + 256 * (b2.toNat + 256 * b3.toNat))

/-- Decoding bytes as memory holds them: the instruction and its length in bytes. -/
def decode (bs : List Byte) : Except Bad (Instr × Nat) :=
  match bs with
  | b0 :: b1 :: b2 :: b3 :: rest =>
    let w0 := wordOfBytes b0 b1 b2 b3
    let w1 := match rest with
      | c0 :: c1 :: c2 :: c3 :: _ => some (wordOfBytes c0 c1 c2 c3)
      | _ => none
    match decodeWords w0 w1 with
    | .ok i => .ok (i, if isLong w0 then 8 else 4)
    | .error e => .error e
  | _ => .error .missingWord

/-- The 32-bit words of a number whose first word is its low half, as bytes in memory order. -/
def bytesOfNat (n : Nat) : Nat → List Byte
  | 0 => []
  | k + 1 => BitVec.ofNat 8 n :: bytesOfNat (n / 256) k

/-- The host's question: the instruction read from bits numbered from the first word on, upper bits zero. -/
def decodeTableWord (_nbits w : Nat) : Option Instr :=
  match decode (bytesOfNat w 8) with
  | .ok (i, _) => some i
  | .error _ => none

/-! ## The encoder -/

def bN (b : Bool) : Nat := if b then 1 else 0

/-- A source in its place: the register at lo, its last-use bit just below. -/
def SSrc.at (s : SSrc) (lo : Nat) : Nat := s.r.val * 2 ^ lo + bN s.last * 2 ^ (lo - 1)
def VSrc.at (s : VSrc) (lo : Nat) : Nat := s.r.val * 2 ^ lo + bN s.last * 2 ^ (lo - 1)
def MSrc.at (s : MSrc) (lo : Nat) : Nat := s.r.val * 2 ^ lo + bN s.last * 2 ^ (lo - 1)
def CSrc.at (s : CSrc) (lo : Nat) : Nat := s.r.val * 2 ^ lo + bN s.last * 2 ^ (lo - 1)

/-- R format: MAJ, FN and D (R153). -/
def eR (maj fn d : Nat) : Nat := maj * 33554432 + fn * 2097152 + d * 32768

/-- I format: MAJ and D (R156). -/
def eI (maj d : Nat) : Nat := maj * 33554432 + d * 524288

/-- B format: MAJ and C (R162). -/
def eB (maj c : Nat) : Nat := maj * 33554432 + c * 4194304

/-- M format: MAJ, FN and the register numbers in D and A (R201). -/
def eM (maj fn d a : Nat) : Nat := maj * 33554432 + fn * 4194304 + d * 65536 + a * 1024

/-- V format: MAJ, TY, FN, N, VD and M (R177). -/
def eV (maj fn : Nat) (t : ETy) (n : Bool) (d : Nat) (m : Bool) : Nat :=
  maj * 33554432 + t.code * 4194304 + fn * 524288 + bN n * 262144 + d * 8192 + bN m

/-- Long form, word 0: MAJ, FN and D (R209). -/
def eL (maj fn d : Nat) : Nat := maj * 33554432 + fn * 1048576 + d * 16384

/-- Long form, word 1: LK, the order bits, TY, W and X (R209). -/
def eW (lk : Fin 16) (mods ty w : Nat) (x : Bool) : Nat :=
  lk.val * 268435456 + mods + ty * 262144 + w * 65536 + bN x * 256

/-- C and IMM of an address, for word 1. -/
def GAddr.w1 (g : GAddr) : Nat := g.c.at 10 + g.imm.toNat

/-- The words of an instruction, the second for long forms only; an event has no words. -/
def encode : Instr → Option (Nat × Option Nat)
  | .add d a b => some (eR 0x01 0 d.val + a.at 9 + b.at 2, none)
  | .sub d a b => some (eR 0x01 1 d.val + a.at 9 + b.at 2, none)
  | .mul d a b => some (eR 0x01 2 d.val + a.at 9 + b.at 2, none)
  | .mulh d a b => some (eR 0x01 3 d.val + a.at 9 + b.at 2, none)
  | .mulhn d a b => some (eR 0x01 4 d.val + a.at 9 + b.at 2, none)
  | .div d a b => some (eR 0x01 5 d.val + a.at 9 + b.at 2, none)
  | .divn d a b => some (eR 0x01 6 d.val + a.at 9 + b.at 2, none)
  | .rem d a b => some (eR 0x01 7 d.val + a.at 9 + b.at 2, none)
  | .remn d a b => some (eR 0x01 8 d.val + a.at 9 + b.at 2, none)
  | .min d a b => some (eR 0x01 9 d.val + a.at 9 + b.at 2, none)
  | .max d a b => some (eR 0x01 10 d.val + a.at 9 + b.at 2, none)
  | .minn d a b => some (eR 0x01 11 d.val + a.at 9 + b.at 2, none)
  | .maxn d a b => some (eR 0x01 12 d.val + a.at 9 + b.at 2, none)
  | .abs d a => some (eR 0x01 13 d.val + a.at 9, none)
  | .and d a b => some (eR 0x02 0 d.val + a.at 9 + b.at 2, none)
  | .or d a b => some (eR 0x02 1 d.val + a.at 9 + b.at 2, none)
  | .xor d a b => some (eR 0x02 2 d.val + a.at 9 + b.at 2, none)
  | .andn d a b => some (eR 0x02 3 d.val + a.at 9 + b.at 2, none)
  | .shl d a b => some (eR 0x02 4 d.val + a.at 9 + b.at 2, none)
  | .shr d a b => some (eR 0x02 5 d.val + a.at 9 + b.at 2, none)
  | .sra d a b => some (eR 0x02 6 d.val + a.at 9 + b.at 2, none)
  | .rol d a b => some (eR 0x02 7 d.val + a.at 9 + b.at 2, none)
  | .slt d a b => some (eR 0x02 8 d.val + a.at 9 + b.at 2, none)
  | .sltn d a b => some (eR 0x02 9 d.val + a.at 9 + b.at 2, none)
  | .seq d a b => some (eR 0x02 10 d.val + a.at 9 + b.at 2, none)
  | .sne d a b => some (eR 0x02 11 d.val + a.at 9 + b.at 2, none)
  | .csel d a b => some (eR 0x02 12 d.val + a.at 9 + b.at 2, none)
  | .clz d a => some (eR 0x03 0 d.val + a.at 9, none)
  | .ctz d a => some (eR 0x03 1 d.val + a.at 9, none)
  | .popc d a => some (eR 0x03 2 d.val + a.at 9, none)
  | .brev d a => some (eR 0x03 3 d.val + a.at 9, none)
  | .bswap d a => some (eR 0x03 4 d.val + a.at 9, none)
  | .exts d a k => some (eR 0x03 5 d.val + a.at 9 + k.val * 4, none)
  | .extz d a k => some (eR 0x03 6 d.val + a.at 9 + k.val * 4, none)
  | .fadd d a b => some (eR 0x04 0 d.val + a.at 9 + b.at 2, none)
  | .fsub d a b => some (eR 0x04 1 d.val + a.at 9 + b.at 2, none)
  | .fmul d a b => some (eR 0x04 2 d.val + a.at 9 + b.at 2, none)
  | .fma d a b => some (eR 0x04 3 d.val + a.at 9 + b.at 2, none)
  | .fdiv d a b => some (eR 0x04 4 d.val + a.at 9 + b.at 2, none)
  | .fsqrt d a r => some (eR 0x04 5 d.val + a.at 9 + r.code * 4, none)
  | .fmin d a b => some (eR 0x04 6 d.val + a.at 9 + b.at 2, none)
  | .fmax d a b => some (eR 0x04 7 d.val + a.at 9 + b.at 2, none)
  | .fcmp d a b => some (eR 0x04 8 d.val + a.at 9 + b.at 2, none)
  | .fcvti d a r => some (eR 0x04 9 d.val + a.at 9 + r.code * 4, none)
  | .icvtf d a r => some (eR 0x04 10 d.val + a.at 9 + r.code * 4, none)
  | .fclass d a => some (eR 0x04 11 d.val + a.at 9, none)
  | .vldss d a b => some (eR 0x43 0 d.val + a.at 9 + b.at 2, none)
  | .vstss d a b => some (eR 0x43 1 d.val + a.at 9 + b.at 2, none)
  | .vgats d a b => some (eR 0x43 2 d.val + a.at 9 + b.at 2, none)
  | .vscts d a b => some (eR 0x43 3 d.val + a.at 9 + b.at 2, none)
  | .vldb d a b => some (eR 0x44 0 d.val + a.at 9 + b.at 2, none)
  | .vstb d a b => some (eR 0x44 1 d.val + a.at 9 + b.at 2, none)
  | .binit a b => some (eR 0x58 0 0 + a.at 9 + b.at 2, none)
  | .barr a => some (eR 0x58 1 0 + a.at 9, none)
  | .bwait a b => some (eR 0x58 2 0 + a.at 9 + b.at 2, none)
  | .bstat d a => some (eR 0x58 3 d.val + a.at 9, none)
  | .cmov d a => some (eR 0x05 0 d.val + a.at 9, none)
  | .cinc d a b => some (eR 0x05 1 d.val + a.at 9 + b.at 2, none)
  | .cbound d a b => some (eR 0x05 2 d.val + a.at 9 + b.at 2, none)
  | .crights d a b => some (eR 0x05 3 d.val + a.at 9 + b.at 2, none)
  | .cget d a k => some (eR 0x05 4 d.val + a.at 9 + k.val * 4, none)
  | .ctest d a b => some (eR 0x05 5 d.val + a.at 9 + b.at 2, none)
  | .cinci d a imm => some (eI 0x10 d.val + a.at 13 + imm.toNat, none)
  | .mfs d n => some (eR 0x06 0 d.val + n.val * 512, none)
  | .mts n a => some (eR 0x06 1 n.val + a.at 9, none)
  | .trap a => some (eR 0x06 2 0 + a.at 9, none)
  | .tret a => some (eR 0x06 3 0 + a.at 9, none)
  | .sysrd d a => some (eR 0x06 4 d.val + a.at 9, none)
  | .syswr a b => some (eR 0x06 5 0 + a.at 9 + b.at 2, none)
  | .addi d a imm => some (eI 0x08 d.val + a.at 13 + imm.toNat, none)
  | .andi d a imm => some (eI 0x09 d.val + a.at 13 + imm.toNat, none)
  | .ori d a imm => some (eI 0x0A d.val + a.at 13 + imm.toNat, none)
  | .xori d a imm => some (eI 0x0B d.val + a.at 13 + imm.toNat, none)
  | .slti d a imm => some (eI 0x0D d.val + a.at 13 + imm.toNat, none)
  | .jalr d a imm => some (eI 0x19 d.val + a.at 13 + imm.toNat, none)
  | .shli d a n => some (eI 0x0C d.val + a.at 13 + 0 * 1024 + n.val, none)
  | .shri d a n => some (eI 0x0C d.val + a.at 13 + 1 * 1024 + n.val, none)
  | .srai d a n => some (eI 0x0C d.val + a.at 13 + 2 * 1024 + n.val, none)
  | .movhi d imm => some (eI 0x0E d.val + imm.toNat, none)
  | .addpc d imm => some (eI 0x0F d.val + imm.toNat, none)
  | .beqz a off => some (eB 0x16 0 + a.at 16 + off.toNat, none)
  | .bnez a off => some (eB 0x16 1 + a.at 16 + off.toNat, none)
  | .bltz a off => some (eB 0x16 2 + a.at 16 + off.toNat, none)
  | .bgez a off => some (eB 0x16 3 + a.at 16 + off.toNat, none)
  | .bgtz a off => some (eB 0x16 4 + a.at 16 + off.toNat, none)
  | .blez a off => some (eB 0x16 5 + a.at 16 + off.toNat, none)
  | .j off => some (0x17 * 33554432 + off.toNat, none)
  | .jal off => some (0x18 * 33554432 + off.toNat, none)
  | .loop a off => some (eB 0x1A 0 + a.val * 65536 + off.toNat, none)
  | .sig v => some (0x1B * 33554432 + v.toNat, none)
  | .nop => some (0x1C * 33554432, none)
  | .yield => some (eR 0x1D 0 0, none)
  | .endOp => some (eR 0x1D 1 0, none)
  | .vadd t d a b m => some (eV 0x20 0 t false d.val m + a.at 8 + b.at 2, none)
  | .vsub t d a b m => some (eV 0x20 1 t false d.val m + a.at 8 + b.at 2, none)
  | .vmul t d a b m => some (eV 0x20 2 t false d.val m + a.at 8 + b.at 2, none)
  | .vmulh t n d a b m => some (eV 0x20 3 t n d.val m + a.at 8 + b.at 2, none)
  | .vadds t n d a b m => some (eV 0x20 4 t n d.val m + a.at 8 + b.at 2, none)
  | .vsubs t n d a b m => some (eV 0x20 5 t n d.val m + a.at 8 + b.at 2, none)
  | .vmin t n d a b m => some (eV 0x20 6 t n d.val m + a.at 8 + b.at 2, none)
  | .vmax t n d a b m => some (eV 0x20 7 t n d.val m + a.at 8 + b.at 2, none)
  | .vabs t d a m => some (eV 0x21 0 t false d.val m + a.at 8, none)
  | .vneg t d a m => some (eV 0x21 1 t false d.val m + a.at 8, none)
  | .vdiv t n d a b m => some (eV 0x21 2 t n d.val m + a.at 8 + b.at 2, none)
  | .vfma t d a b m => some (eV 0x21 3 t false d.val m + a.at 8 + b.at 2, none)
  | .vfms t d a b m => some (eV 0x21 4 t false d.val m + a.at 8 + b.at 2, none)
  | .vfnma t d a b m => some (eV 0x21 5 t false d.val m + a.at 8 + b.at 2, none)
  | .vand t d a b m => some (eV 0x22 0 t false d.val m + a.at 8 + b.at 2, none)
  | .vor t d a b m => some (eV 0x22 1 t false d.val m + a.at 8 + b.at 2, none)
  | .vxor t d a b m => some (eV 0x22 2 t false d.val m + a.at 8 + b.at 2, none)
  | .vnot t d a m => some (eV 0x22 3 t false d.val m + a.at 8, none)
  | .vshl t d a b m => some (eV 0x22 4 t false d.val m + a.at 8 + b.at 2, none)
  | .vshr t d a b m => some (eV 0x22 5 t false d.val m + a.at 8 + b.at 2, none)
  | .vsra t d a b m => some (eV 0x22 6 t false d.val m + a.at 8 + b.at 2, none)
  | .vcmpeq t n d a b m => some (eV 0x23 0 t n d.val m + a.at 8 + b.at 2, none)
  | .vcmpne t n d a b m => some (eV 0x23 1 t n d.val m + a.at 8 + b.at 2, none)
  | .vcmplt t n d a b m => some (eV 0x23 2 t n d.val m + a.at 8 + b.at 2, none)
  | .vcmple t n d a b m => some (eV 0x23 3 t n d.val m + a.at 8 + b.at 2, none)
  | .vcmpgt t n d a b m => some (eV 0x23 4 t n d.val m + a.at 8 + b.at 2, none)
  | .vcmpge t n d a b m => some (eV 0x23 5 t n d.val m + a.at 8 + b.at 2, none)
  | .mand t d a b => some (eV 0x24 1 t false d.val false + a.at 8 + b.at 2, none)
  | .mor t d a b => some (eV 0x24 2 t false d.val false + a.at 8 + b.at 2, none)
  | .mxor t d a b => some (eV 0x24 3 t false d.val false + a.at 8 + b.at 2, none)
  | .mnot t d a => some (eV 0x24 4 t false d.val false + a.at 8, none)
  | .mpop t d a => some (eV 0x24 5 t false d.val false + a.at 8, none)
  | .mfirst t d a => some (eV 0x24 6 t false d.val false + a.at 8, none)
  | .mset t d a => some (eV 0x24 7 t false d.val false + a.at 8, none)
  | .vmov t d a m => some (eV 0x25 0 t false d.val m + a.at 8, none)
  | .vsplat t d a m => some (eV 0x25 1 t false d.val m + a.at 8, none)
  | .vins t d a b m => some (eV 0x25 3 t false d.val m + a.at 8 + b.at 2, none)
  | .vidx t d a m => some (eV 0x25 4 t false d.val m + a.at 8, none)
  | .vperm t d a b m => some (eV 0x26 0 t false d.val m + a.at 8 + b.at 2, none)
  | .vrot t d a b m => some (eV 0x26 1 t false d.val m + a.at 8 + b.at 2, none)
  | .vslide t d a b m => some (eV 0x26 2 t false d.val m + a.at 8 + b.at 2, none)
  | .vzip t d a b m => some (eV 0x26 3 t false d.val m + a.at 8 + b.at 2, none)
  | .vunzip t d a m => some (eV 0x26 4 t false d.val m + a.at 8, none)
  | .vgetr t d a b m => some (eV 0x27 0 t false d.val m + a.at 8 + b.at 2, none)
  | .vputr t d a b m => some (eV 0x27 1 t false d.val m + a.at 8 + b.at 2, none)
  | .vwadd t n d a b m => some (eV 0x28 1 t n d.val m + a.at 8 + b.at 2, none)
  | .vwmul t n d a b m => some (eV 0x28 2 t n d.val m + a.at 8 + b.at 2, none)
  | .vred t n d a op m => some (eV 0x29 0 t n d.val m + a.at 8 + op.code * 4, none)
  | .vdot t n d a b m => some (eV 0x29 1 t n d.val m + a.at 8 + b.at 2, none)
  | .vscan t n d a op m => some (eV 0x29 2 t n d.val m + a.at 8 + op.code * 4, none)
  | .vrcp d a m => some (eV 0x2B 0 .f32 false d.val m + a.at 8, none)
  | .vrsq d a m => some (eV 0x2B 1 .f32 false d.val m + a.at 8, none)
  | .vexp2 d a m => some (eV 0x2B 3 .f32 false d.val m + a.at 8, none)
  | .vlog2 d a m => some (eV 0x2B 4 .f32 false d.val m + a.at 8, none)
  | .vtanh d a m => some (eV 0x2B 5 .f32 false d.val m + a.at 8, none)
  | .vsel t d a b => some (eV 0x24 0 t false d.val false + a.at 8 + b.at 2, none)
  | .vext t n d a b => some (eV 0x25 2 t n d.val false + a.at 8 + b.at 2, none)
  | .vcvt t n d a st sn m => some (eV 0x28 0 t n d.val m + a.at 8 + st.code * 4 + bN sn * 32, none)
  | .vnarrow t n d a sh m => some (eV 0x28 3 t n d.val m + a.at 8 + sh.val * 4, none)
  | .vfmt k a => some (eV 0x28 4 .x8 false k.val false + a.at 8, none)
  | .vsort t n d logk desc => some (eV 0x2A 0 t n d.val false + logk.val * 4 + bN desc * 16, none)
  | .vsortkv t n d a logk desc => some (eV 0x2A 1 t n d.val false + a.at 8 + logk.val * 4 + bN desc * 16, none)
  | .vmerge t n d a b => some (eV 0x2A 2 t n d.val false + a.at 8 + b.at 2, none)
  | .vtopk t n d a b => some (eV 0x2A 3 t n d.val false + a.at 8 + b.at 2, none)
  | .vsqrt d a r m => some (eV 0x2B 2 .f32 false d.val m + a.at 8 + r.code * 4, none)
  | .vrand n d a b m => some (eV 0x2C 0 .i32 n d.val m + a.at 8 + b.at 2, none)
  | .vpackt t d a => some (eV 0x2D 0 t false d.val false + a.at 8, none)
  | .vunpkt t d a => some (eV 0x2D 1 t false d.val false + a.at 8, none)
  | .vtchk d a => some (eV 0x2D 2 .i8 false d.val false + a.at 8, none)
  | .lds t d a imm => some (eM 0x40 t.code d.val 0 + a.at 10 + imm.toNat, none)
  | .sts w d a imm => some (eM 0x41 w.code d.r.val a.val + bN d.last * 512 + imm.toNat, none)
  | .vlds d a imm => some (eM 0x42 0 d.val 0 + a.at 10 + imm.toNat, none)
  | .vsts d a imm => some (eM 0x42 1 d.r.val a.val + bN d.last * 512 + imm.toNat, none)
  | .stn w d a imm => some (eM 0x45 (2 * w.val + 2) d.r.val a.val + bN d.last * 512 + imm.toNat, none)
  | .vstn w d a imm => some (eM 0x45 (2 * w.val + 3) d.r.val a.val + bN d.last * 512 + imm.toNat, none)
  | .ldf d a imm => some (eM 0x46 0 d.val 0 + a.at 10 + imm.toNat, none)
  | .vldf d a imm => some (eM 0x46 1 d.val 0 + a.at 10 + imm.toNat, none)
  | .fclr d a imm => some (eM 0x46 2 d.r.val a.val + bN d.last * 512 + imm.toNat, none)
  | .fset d a imm => some (eM 0x46 3 d.r.val a.val + bN d.last * 512 + imm.toNat, none)
  | .waita d a imm => some (eM 0x47 0 d.val 0 + a.at 10 + imm.toNat, none)
  | .ldx lk w o d g => some (eL 0x70 0 d.val + g.a.at 8, some (eW lk o.bits 0 w.code false + g.w1))
  | .stx lk w o g b => some (eL 0x70 1 0 + g.a.at 8 + b.at 1, some (eW lk o.bits 0 w.code false + g.w1))
  | .vldx lk o d g => some (eL 0x70 2 d.val + g.a.at 8, some (eW lk o.bits 0 0 false + g.w1))
  | .vstx lk o g b => some (eL 0x70 3 0 + g.a.at 8 + b.at 1, some (eW lk o.bits 0 0 false + g.w1))
  | .ldc lk o d g => some (eL 0x70 4 d.val + g.a.at 8, some (eW lk o.bits 0 0 false + g.w1))
  | .stc lk o g b => some (eL 0x70 5 0 + g.a.at 8 + b.at 1, some (eW lk o.bits 0 0 false + g.w1))
  | .join lk t w o g b => some (eL 0x71 0 0 + g.a.at 8 + b.at 1, some (eW lk o.bits t.toCode w.code false + g.w1))
  | .vjoin lk t w o g b => some (eL 0x71 1 0 + g.a.at 8 + b.at 1, some (eW lk o.bits t.toCode w.code false + g.w1))
  | .vjoinx lk t w o g b p => some (eL 0x71 2 p.val + g.a.at 8 + b.at 1, some (eW lk o.bits t.toCode w.code false + g.w1))
  | .thr lk t w o d g b => some (eL 0x72 0 d.val + g.a.at 8 + b.at 1, some (eW lk o.bits t.toCode w.code false + g.w1))
  | .thrf lk t w o d g b => some (eL 0x72 1 d.val + g.a.at 8 + b.at 1, some (eW lk o.bits t.toCode w.code false + g.w1))
  | .xrd lk t w o d g => some (eL 0x73 0 d.val + g.a.at 8, some (eW lk o.bits t.toCode w.code false + g.w1))
  | .vxrd lk t w o d g one => some (eL 0x73 1 d.val + g.a.at 8, some (eW lk o.bits t.toCode w.code one + g.w1))
  | .cap lk t w sc q g b => some (eL 0x73 2 0 + g.a.at 8 + b.at 1, some (eW lk (sc.code * 16777216 + bN q * 4194304) t.toCode w.code false + g.w1))
  | .fence lk sc => some (eL 0x74 0 0, some (eW lk (sc.code * 16777216 + 12582912) 0 0 false))
  | .ofork lk d c b => some (eL 0x75 0 d.val + b.at 1, some (eW lk 0 0 0 false + c.at 10))
  | .twgo lk ch g => some (eL 0x76 0 ch.val + g.a.at 8, some (eW lk 0 0 0 false + g.w1))
  | .twperm lk ch b => some (eL 0x76 1 ch.val + b.at 1, some (eW lk 0 0 0 false))
  | .twstat lk d ch k => some (eL 0x76 2 d.val, some (eW lk 0 0 0 false + k.val * 8 + ch.val))
  | .twwait lk ch b => some (eL 0x76 3 ch.val + b.at 1, some (eW lk 0 0 0 false))
  | .spawn lk d a b c cls al pin => some (eL 0x77 0 d.val + a.at 8 + b.at 1, some (eW lk 0 0 0 pin + c.at 10 + al.val * 16 + cls.val))
  | .spawnat lk d a b c cls al pin => some (eL 0x77 1 d.val + a.at 8 + b.at 1, some (eW lk 0 0 0 pin + c.at 10 + al.val * 16 + cls.val))
  | .tgnew lk d g ov => some (eL 0x77 2 d.val + g.a.at 8 + ov.val * 2, some (eW lk 0 0 0 false + g.w1))
  | .tgclose lk a c => some (eL 0x77 3 0 + a.at 8, some (eW lk 0 0 0 false + c.at 10))
  | .cancel lk a => some (eL 0x77 4 0 + a.at 8, some (eW lk 0 0 0 false))
  | .setdl lk a b => some (eL 0x77 5 0 + a.at 8 + b.at 1, some (eW lk 0 0 0 false))
  | .setbg lk a b => some (eL 0x77 6 0 + a.at 8 + b.at 1, some (eW lk 0 0 0 false))
  | .msg lk a b cls => some (eL 0x78 0 0 + a.at 8 + b.at 1, some (eW lk 0 0 0 false + cls.val))
  | .hreg lk a b c cls => some (eL 0x78 1 0 + a.at 8 + b.at 1, some (eW lk 0 0 0 false + c.at 10 + cls.val))
  | .hdrop lk cls => some (eL 0x78 2 0, some (eW lk 0 0 0 false + cls.val))
  | .tlease lk => some (eL 0x79 0 0, some (eW lk 0 0 0 false))
  | .trel lk => some (eL 0x79 1 0, some (eW lk 0 0 0 false))
  | .tfmt lk kind k => some (eL 0x79 2 0, some (eW lk 0 0 0 false + kind.val * 8 + k.val))
  | .tldw lk g buf => some (eL 0x79 3 0 + g.a.at 8, some (eW lk 0 0 0 buf + g.w1))
  | .tmma lk d a b imm buf => some (eL 0x79 4 d.val + a.at 8 + b.at 1, some (eW lk 0 0 0 buf + imm.toNat))
  | .tdrain lk bf acc d a b imm vs buf => some (eL 0x79 5 d.val + a.at 8 + b.at 1, some (eW lk 0 (bN bf + bN acc * 2) (bN vs) buf + imm.toNat))
  | .tzero lk d b => some (eL 0x79 6 d.val + b.at 1, some (eW lk 0 0 0 false))
  | .tstat lk d k => some (eL 0x79 7 d.val, some (eW lk 0 0 0 false + k.val))
  | _ => none

/-- The bytes of an instruction as memory holds them. -/
def encodeBytes (i : Instr) : List Byte :=
  match encode i with
  | some (w0, some w1) => bytesOfNat w0 4 ++ bytesOfNat w1 4
  | some (w0, none) => bytesOfNat w0 4
  | none => []

end Sys2Proof
end

