-- ==== Sys2Proof/Machine/Tab.lean ====
section
/-!
DEFINITION. Tables and sets as plain data: sorted lists of (key, value) pairs and sorted lists of keys. One key has
at most one entry, so equal tables are equal lists.
-/

namespace Sys2Proof.Machine

/-- A table with keys in Nat, kept sorted by rising key. -/
abbrev Tab (α : Type) := List (Nat × α)

/-- The entry of key k, if there is one. -/
def tget? {α : Type} : Tab α → Nat → Option α
  | [], _ => none
  | (j, x) :: t, k => if j = k then some x else tget? t k

/-- The entry of key k, or the value d where none is listed. -/
def tget {α : Type} (t : Tab α) (k : Nat) (d : α) : α := (tget? t k).getD d

/-- The table with x at key k. -/
def tset {α : Type} : Tab α → Nat → α → Tab α
  | [], k, x => [(k, x)]
  | (j, y) :: t, k, x =>
    if k < j then (k, x) :: (j, y) :: t
    else if k = j then (k, x) :: t
    else (j, y) :: tset t k x

/-- The table without key k. -/
def terase {α : Type} (t : Tab α) (k : Nat) : Tab α := t.filter (fun e => e.1 != k)

/-- The table with the entry of key k, if there is one, changed by f. -/
def tmap {α : Type} (t : Tab α) (k : Nat) (f : α → α) : Tab α :=
  t.map (fun e => if e.1 = k then (e.1, f e.2) else e)

/-- Is key k listed? -/
def thas {α : Type} (t : Tab α) (k : Nat) : Bool := (tget? t k).isSome

/-- Adds k to a sorted list of keys. -/
def nadd : List Nat → Nat → List Nat
  | [], k => [k]
  | j :: t, k => if k < j then k :: j :: t else if k = j then j :: t else j :: nadd t k

/-- Removes k from a list of keys. -/
def ndel (l : List Nat) (k : Nat) : List Nat := l.filter (· != k)

/-- Replaces element i of a list. -/
def lset {α : Type} : List α → Nat → α → List α
  | [], _, _ => []
  | _ :: t, 0, x => x :: t
  | y :: t, n + 1, x => y :: lset t n x

/-- Element i of a list, or d. -/
def lget {α : Type} (l : List α) (i : Nat) (d : α) : α := (l[i]?).getD d

/-- The list without element i. -/
def ldrop {α : Type} (l : List α) (i : Nat) : List α := l.take i ++ l.drop (i + 1)

/-- The list without its first element that has a property. -/
def dropFirst {α : Type} (p : α → Bool) : List α → List α
  | [] => []
  | x :: t => if p x then t else x :: dropFirst p t

/-- Splits a list into k parts of n. -/
def chunks {α : Type} (n : Nat) : Nat → List α → List (List α)
  | 0, _ => []
  | k + 1, l => l.take n :: chunks n k (l.drop n)

end Sys2Proof.Machine
end

