-- ==== Sys2Proof/Machine/Memory.lean ====
section
/-!
DEFINITION. Memory: one list of cells in a canonical form over all byte addresses of the machine. A physical byte PA
of package p lies at p * 2^40 + PA (R281), a scratchpad byte of a context at scratchAddr (R19). What an unlisted
address reads as is background: the bottom that last filled its frame (R293), else zero (DESIGN CHOICE, log entry 12).
-/

namespace Sys2Proof.Machine

/-- The byte patterns that a frame of some lattice type is filled with (Table 2-3): zeros, all ones, or FP32 words
of 0x7FFF_FFFF for minf. -/
inductive Pattern where
  | zeros | ones | nan
  deriving DecidableEq, Repr

/-- The byte of a pattern at address a. -/
def Pattern.byte : Pattern → Nat → Byte
  | .zeros, _ => 0
  | .ones, _ => 255
  | .nan, a => if a % 4 = 3 then 127 else 255

/-- A range of addresses that a filling set to a pattern. -/
structure Fill where
  lo : Nat
  len : Nat
  pat : Pattern
  deriving DecidableEq, Repr

/-- State of a fill line: an unlisted line is empty (R42). -/
inductive LineState where
  | full | top
  deriving DecidableEq, Repr

/-- The memory of the whole machine. -/
structure Memory where
  /-- Bytes that differ from the background, by rising address. -/
  cells : List Host.Cell
  /-- Fillings, the newest first. -/
  fills : List Fill
  /-- Cap bits that are set, by address / 4096 (R48, R281). -/
  capped : List Nat
  /-- Fill lines that are not empty, by address / 64 (R42). -/
  lines : Tab LineState
  /-- Granules whose capability tag is set, by address / 16 (R215). -/
  tags : List Nat
  /-- Poisoned home lines, by address / 64 (R327). -/
  poison : List Nat
  deriving DecidableEq, Repr

/-- Scratchpad byte off of logical core l in the context with key c (R19). -/
def scratchAddr (c l off : Nat) : Nat := 2 ^ 58 + c * 2 ^ 50 + l * 2 ^ 20 + off

/-- Physical byte PA of package p (R281). -/
def physAddr (p pa : Nat) : Nat := p * 2 ^ 40 + pa

/-- What the fillings leave at an address. -/
def fillByte : List Fill → Nat → Byte
  | [], _ => 0
  | f :: t, a => if f.lo ≤ a ∧ a < f.lo + f.len then f.pat.byte a else fillByte t a

/-- What an unlisted address reads as. -/
def Memory.background (m : Memory) (a : Nat) : Byte := fillByte m.fills a

/-- The byte of a cell list at an address. -/
def cellAt : List Host.Cell → Nat → Option Byte
  | [], _ => none
  | (b, x) :: t, a => if b = a then some x else cellAt t a

/-- A cell list with byte x at address a. -/
def cellPut : List Host.Cell → Nat → Byte → List Host.Cell
  | [], a, x => [(a, x)]
  | (b, z) :: t, a, x =>
    if a < b then (a, x) :: (b, z) :: t else if a = b then (a, x) :: t else (b, z) :: cellPut t a x

/-- A cell list without a cell at address a. -/
def cellDrop (l : List Host.Cell) (a : Nat) : List Host.Cell := l.filter (fun c => c.1 != a)

/-- Reads one byte. -/
def Memory.read (m : Memory) (a : Nat) : Byte := (cellAt m.cells a).getD (m.background a)

/-- Writes one byte and keeps the canonical form. -/
def Memory.write (m : Memory) (a : Nat) (x : Byte) : Memory :=
  { m with cells := if x = m.background a then cellDrop m.cells a else cellPut m.cells a x }

/-- Reads n bytes from a upwards. -/
def Memory.readN (m : Memory) (a : Nat) : Nat → List Byte
  | 0 => []
  | n + 1 => m.read a :: m.readN (a + 1) n

/-- Writes bytes from a upwards. -/
def Memory.writeL (m : Memory) (a : Nat) : List Byte → Memory
  | [] => m
  | x :: t => (m.write a x).writeL (a + 1) t

/-- Addresses rise strictly from a bound. -/
def risingFrom : Nat → List Host.Cell → Bool
  | _, [] => true
  | n, (a, _) :: t => n ≤ a && risingFrom (a + 1) t

/-- The canonical form: rising addresses, and no cell equal to the background. -/
def Memory.wf (m : Memory) : Bool :=
  risingFrom 0 m.cells && m.cells.all (fun c => c.2 != m.background c.1)

/-- Fills a range with a pattern: its cells go, and its metadata is clear (R281, R293). -/
def Memory.fill (m : Memory) (lo len : Nat) (p : Pattern) : Memory :=
  let out (a : Nat) : Bool := a < lo || lo + len ≤ a
  { cells := m.cells.filter (fun c => out c.1)
    fills := ⟨lo, len, p⟩ :: m.fills
    capped := m.capped.filter (fun b => out (b * 4096))
    lines := m.lines.filter (fun e => out (e.1 * 64))
    tags := m.tags.filter (fun g => out (g * 16))
    poison := m.poison.filter (fun l => out (l * 64)) }

/-- The number that bytes hold, least significant first (R3). -/
def ofBytes : List Byte → Nat
  | [] => 0
  | x :: t => x.toNat + 256 * ofBytes t

/-- The n low bytes of a number, least significant first (R3). -/
def toBytes : Nat → Nat → List Byte
  | _, 0 => []
  | w, n + 1 => BitVec.ofNat 8 w :: toBytes (w / 256) n

/-- The empty memory: nothing listed. -/
def Memory.empty : Memory := ⟨[], [], [], [], [], []⟩

end Sys2Proof.Machine
end

