-- ==== Sys2Proof/Machine/State.lean ====
section
/-!
DEFINITION. The state of the machine as plain data: lanes, cores, combs, contexts with their records, groups,
effects and objects, packages, memory, and the turns to come. Each field cites the rule that names it. INVENTORY.md
lists the reset values, and a field without a rule is the model's own.
-/

namespace Sys2Proof.Machine

/-- Why the machine stops. No rule of the manual stops the machine, so there is one case only. -/
inductive Fault where
  /-- Raised by step when the lane in focus is told to issue although it does not exist. Safe: no part has it. -/
  | noLane
  deriving DecidableEq, Repr

/-- Why an instruction has no meaning. -/
inductive Refusal where
  /-- Raised by an arm of exec that has no meaning yet. Safe: nothing is claimed of it. -/
  | notModelled (mnemonic : String)
  deriving DecidableEq, Repr

/-- A trap or a reported fault: code of Table 7-8, PC and VA of its record, RPT (R173, R175). -/
structure TrapInfo where
  code : Nat
  pc : Word
  va : Word
  rpt : Bool
  deriving DecidableEq, Repr

/-- A record of Table 7-7 as the fault log holds it. -/
structure FaultRec where
  info : TrapInfo
  task : Nat
  actn : Nat
  deriving DecidableEq, Repr

/-- The states of a lane (Table 4-4). ABORT is passed through within one step (spec/95). -/
inductive LaneState where
  | off | idle | load | run | finish | verify | drain | save
  deriving DecidableEq, Repr

/-- What comes before an access, as far as its reads can show it: by line of lattice memory (VA / 64), the number of changes of
the line that it has to reflect (R61). -/
abbrev Know := Tab Nat

/-- What a watch waits for and where its result goes (R51, R54, R217, R219). acq is the scope and the core of a read that acquires
(R61), run which run of its record registers it (R99). -/
structure Watch where
  thrf : Bool
  t : LTy
  w : Wd
  va : Nat
  trigs : List Nat
  d : Nat
  pc : Word
  acq : Option (Scope × Nat)
  run : Nat
  deriving DecidableEq, Repr

/-- A 64-byte continuation record of Table 4-1, less its state. -/
structure RecFields where
  pc : Word
  pin : Bool
  hnd : Bool
  pre : Bool
  tpd : Bool
  gid : Nat
  deadline : Word
  cbud : Nat
  cls : Nat
  alloc : Nat
  pcore : Nat
  frame : Cap
  vlive : BitVec 32
  mlive : BitVec 8
  actn : Nat
  slive : Word
  deriving DecidableEq, Repr

/-- A handler binding (R114, R256): entry, relative deadline, group, class, allocation, pool, CBUD, and the live
handler records by frame number. -/
structure Binding where
  entry : Word
  rel : Word
  gid : Nat
  cls : Nat
  alloc : Nat
  pool : Cap
  cbud : Nat
  live : Tab Nat
  deriving DecidableEq, Repr

/-- A message: source core, target core, class, four doublewords; an overrun notice also names the held record and
the PC at which BUDG reached zero (R112, R115). know is what its handler comes after (R61 edge 4). -/
structure Msg where
  src : Nat
  dst : Nat
  cls : Nat
  body : List Word
  ovr : Option (Nat × Word)
  know : Know
  deriving DecidableEq, Repr

/-- An entry of the object table (Table 16-3). prov marks an OFORK result whose activation has not committed (R224),
handed one that TGCLOSE hands up (R251), kept one that it has handed up to its owner (R313); pkg is the logical package that made
it, none when the loader did (R291). -/
structure Obj where
  base : Nat
  len : Nat
  ty : LTy
  wc : Wd
  ps : Nat
  owner : Nat
  aliases : Nat
  src : Nat
  pfx : Nat
  ret : Bool
  prov : Bool
  handed : Bool
  kept : Bool
  pkg : Option Nat
  deriving DecidableEq, Repr

/-- Where TWE payload or a completion word goes (R242): words of a core's scratchpad, with the words' full bits or
without, the rest of a delivery under way, or bytes of global memory. -/
inductive PayTo where
  | scratch (lcore : Nat) (ws : List (Nat × List Byte)) (full rest : Bool)
  | mem (va : Nat) (d : List Byte)
  deriving DecidableEq, Repr

/-- An effect: what an outbox entry does when it is applied (R60, R227). words is a window store on its way, as 4-byte
words; rest says that some of them are written (R206). -/
inductive Eff where
  | join (t : LTy) (w : Wd) (va : Nat) (data : List Byte)
  | store (va : Nat) (data : List Byte) (byOwner : Bool)
  | storeCap (va : Nat) (c : Cap) (byOwner : Bool)
  | cap (t : LTy) (sc : Scope) (va len : Nat)
  | window (lcore off : Nat) (data : List Byte)
  | words (lcore : Nat) (ws : List (Nat × List Byte)) (rest : Bool)
  | payload (comb ch : Nat) (dst : PayTo)
  | twgo (comb ch va : Nat)
  | twperm (comb ch n : Nat)
  | spawn (task : Nat) (r : RecFields) (lcore : Option Nat) (release : Option Word)
  | msg (m : Msg)
  | hreg (lcore cls : Nat) (b : Binding)
  | hdrop (lcore cls : Nat)
  | binit (lcore b : Nat) (sc : Scope) (e : Nat)
  | barr (lcore b : Nat) (sc : Scope) (e : Nat)
  | tgnew (gid parent compl fault ov : Nat)
  | tgclose (gid oid : Nat)
  | cancel (gid : Nat)
  | setdl (task : Nat) (v : Word)
  | setbg (task : Nat) (v : Nat)
  | syswr (reg : Nat) (v : Word)
  | tret (task : Nat) (pc : Word)
  | ofork (oid : Nat)
  | watch (w : Watch)
  | bwait (lcore b q : Nat)
  | twwait (comb ch id : Nat)
  deriving DecidableEq, Repr

/-- An outbox entry: the effect, its order, the PC of its instruction, its sequence within the activation, its
count-tag sequence where it has one (R44, R99, R326), and what the reads before it have shown (R61 edge 1). -/
structure Entry where
  eff : Eff
  ord : Ord
  pc : Word
  seq : Nat
  cseq : Nat
  know : Know
  deriving DecidableEq, Repr

/-- An effect on its way, with the identity fields of R326, the state of its acknowledgement (R344) and, for a flit
formed by merging, its constituents (R343). done says that it is applied, logged or dropped, stop that a neighbour's
router dropped it when its comb was fenced (R335). Effects of its task numbered below after come before a read that comes before
it (R61 edge 1). -/
structure Flit where
  id : Nat
  e : Entry
  task : Nat
  actn : Nat
  gid : Nat
  lcore : Nat
  done : Bool
  lost : Bool
  resends : Nat
  t0 : Nat
  parts : List Nat
  merged : Bool
  stop : Bool
  after : Nat
  deriving DecidableEq, Repr

/-- What a lane reads from global memory and where the data goes (R210). -/
inductive ReadKind where
  | ldx (w : Wd) | vldx | ldc | xrd (t : LTy) (w : Wd) | vxrd (t : LTy) (one : Bool)
  deriving DecidableEq, Repr

/-- The answer of a home, with what a read that acquires comes after (R61 edges 2 and 3). -/
inductive Answer where
  | data (bytes : List Byte) (tag : Bool) (know : Know)
  | trap (t : TrapInfo)
  deriving DecidableEq, Repr

/-- An outstanding global read of a lane (R150, R210), when it was sent, and how often again (R345). -/
structure ReadReq where
  kind : ReadKind
  va : Nat
  len : Nat
  d : Nat
  pc : Word
  acq : Option Scope
  t0 : Nat
  resends : Nat
  ans : Option Answer
  deriving DecidableEq, Repr

/-- Registers and spaces that a long form of an open window reads and writes (R150, R151). -/
structure Window where
  left : Nat
  i : Instr
  deriving DecidableEq, Repr

/-- The instruction of R97 that has retired and waits for its SIG, and what the record does after the commit. -/
inductive Susp where
  | park (e : Eff)
  | yield
  | finish
  | fence (sc : Scope)
  deriving DecidableEq, Repr

/-- A lane (Table 1-4, Table 1-5, Table 4-4). -/
structure Lane where
  /-- s0 to s63 (R31). -/
  s : Vector Word 64
  /-- v0 to v31 (R31). -/
  v : Vector Vec 32
  /-- m0 to m7 (R31). -/
  m : Vector Mask 8
  /-- c0 to c15 (R31, R36). -/
  c : Vector Cap 16
  /-- Live masks (R31, R104). -/
  liveS : BitVec 64
  liveV : BitVec 32
  liveM : BitVec 8
  liveC : BitVec 16
  /-- Address of the next instruction (R92). -/
  pc : Word
  /-- FPC, FLAGS, NF, fmt0 to fmt7 (R32, R33). -/
  fpc : Word
  flags : Word
  nf : Word
  fmt : Vector (BitVec 32) 8
  /-- TRAPC, TRAPPC, TRAPVA (R33). -/
  trapc : Word
  trappc : Word
  trapva : Word
  /-- BUDG, and the PC at which it reached zero (R112). -/
  budg : Word
  budgPc : Option Word
  /-- State (Table 4-4), and the task that the lane runs. -/
  st : LaneState
  task : Nat
  /-- Outbox in program order, and its length at the last retired SIG (R98, R102). -/
  box : List Entry
  boxSig : Nat
  /-- Instructions of the block so far (R97). -/
  blk : Nat
  /-- The checker's S, a mismatch it found, with the PC of its SIG, and the PC of the last SIG that retired (R323, R325). -/
  sig : BitVec 20
  mism : Option Word
  lastSig : Option Word
  /-- Parking or yielding instruction whose SIG is due, or that the commit carries out (R97). -/
  susp : Option Susp
  /-- The final trap that the commit carries out (R102). -/
  fin : Option TrapInfo
  /-- Count-join instructions of the activation (R44), and effects of the activation (R99). -/
  cnt : Nat
  seqn : Nat
  /-- The outstanding read (R210). -/
  rd : Option ReadReq
  /-- Open lookahead windows (R150). -/
  wins : List Window
  /-- Task ids, group ids and objects reserved by the activation (R247, R250, R224). -/
  rTask : List Nat
  rGid : List Nat
  rObj : List Nat
  /-- The PC of the instruction that produced pc, or pc itself at the start (R137). -/
  from_ : Word
  /-- Time of a pre-emption request that is not yet met (R100, R103). -/
  preq : Option Nat
  /-- Did the last THR or THRF return NEVER (R108)? -/
  never : Bool
  /-- TRET issued in this activation (R171); budget exhausted in this activation (R112). -/
  tret : Bool
  tpd : Bool
  /-- The commit has carried out a CANCEL of the record's own subtree (R252). -/
  selfCancel : Bool
  /-- The lane's TMMA, or TDRAIN that takes its scales from a tile, is accepted and outstanding (R233, R234). -/
  acc : Bool
  /-- What the next instruction comes after, but for the record's own effects (R61). -/
  know : Know
  /-- Places of the activation's reads among its effects: the sequence of the effect that follows (R61 edge 1). -/
  reads : List Nat
  /-- The fault that its save waits for (R292). -/
  pg : Option Nat
  /-- Lines of the scratchpad, and accumulator rows as 2^14 + row, that the activation has written (R336). -/
  wrote : List Nat
  deriving DecidableEq, Repr

/-- Why a record is parked (R105, R211). A page is named by the index of its fault; pc and va are those of the read that
met it. -/
inductive Cause where
  | watch | barrier | twe | page (n : Nat) (pc va : Word)
  deriving DecidableEq, Repr

/-- The states of a record (Table 4-3). reserved is a record whose SPAWN has issued and not committed, counted as
READY (R247); fenced is the wait of R63, ACTIVE in that table. -/
inductive RecState where
  | reserved | timed (t : Word) | ready | loc (lcore : Nat) | active (l : Nat) | parked (c : Cause) | fenced (sc : Scope)
  | held | ended
  deriving DecidableEq, Repr

/-- The place of a TIMED record in its bank's timer wheel (R315): a level from 0 to 3 with a slot, the overflow list
(level 4), or a time already past (level 5), and the tick at which it was placed. -/
structure WheelPos where
  level : Nat
  slot : Nat
  at' : Nat
  deriving DecidableEq, Repr

/-- A record with what the Forager keeps beside it. -/
structure Rec where
  f : RecFields
  st : RecState
  /-- Package that holds it, and its bank, a member of the die set (R300). -/
  pkg : Nat
  die : Nat
  /-- Awaiting its confirming run (R102); mismatches since the last completed commit (R325). -/
  confirm : Bool
  mism : Nat
  /-- The trap that a handler activation sees, and the record that it handles (R33, R112, R171). -/
  trap : Option TrapInfo
  handles : Option Nat
  /-- PC at which BUDG reached zero, and the core that ran it, for the overrun notice (R112). -/
  overPc : Word
  core : Nat
  /-- A class that its next commit gives it (R113, R306). -/
  newCls : Option Nat
  /-- Did the last THR or THRF return NEVER (R108)? -/
  never : Bool
  /-- Not before this time (R328). -/
  notBefore : Nat
  /-- Values of SETDL and SETBG that its next commit writes (R253). -/
  newDl : Option Word
  newBg : Option Nat
  /-- Registers that it starts with, written to save area 0 before its first dispatch (R94). -/
  first : Option (List (Nat × Word) × List (Nat × Cap))
  /-- When it became READY, and the time up to which it last found an eligible idle lane (R308). -/
  since : Nat
  lack : Nat
  /-- Its place in the timer wheel while it is TIMED (R315). -/
  wheel : WheelPos
  /-- From when all of R93 but its 100 us has held, and whether it was posted under R307. -/
  doneAt : Option Nat
  posted : Bool
  /-- How often it has been dispatched: names the run that a watch, a wait or a wake belongs to (R99, R106). -/
  run : Nat
  /-- Did the last THR or THRF of the activation that met a page return NEVER (R108)? -/
  pnever : Bool
  /-- Its effects numbered below come before a read of it, or a .sc effect or a fence stands between them and what follows (R61
  edge 1). -/
  mark : Nat
  /-- What its next activation comes after, but for its own joins, and those that are applied: number, ACTN, line and the changes of
  the line by then (R61). -/
  know : Know
  own : List (Nat × Nat × Nat × Nat)
  deriving DecidableEq, Repr

/-- A task group (R107, R108). -/
structure Group where
  parent : Option Nat
  compl : Nat
  fault : Nat
  ov : Nat
  closed : Bool
  faulted : Bool
  /-- The status that its completion line holds, 0 while empty (R108, R109). -/
  status : Nat
  ended : Nat
  trapped : Nat
  nevers : Nat
  ovr : Option Nat
  cancelling : Bool
  /-- Records that have joined the group, but for handlers: the pool gets them back when the group is freed (R305,
  Table 4-3). -/
  used : Nat
  /-- Packages whose Forager the mark of R312 has reached. -/
  marks : List Nat
  /-- What the effects that its records have committed come after, themselves among it (R120). -/
  know : Know
  deriving DecidableEq, Repr

/-- A registered watch (R55), or a refused one. -/
structure Waiter where
  task : Nat
  w : Watch
  deriving DecidableEq, Repr

/-- What a wake brings (R106). -/
inductive WakeRes where
  | none | scalar (d : Nat) (v : Word) | vector (d : Nat) (v : Vec) | trap (t : TrapInfo)
  deriving DecidableEq, Repr

/-- A wake on its way to the Forager (R106): the run that it wakes, what that then comes after (R61), the package that sends it, when,
and how often again (R345); pg is the fault that the write of its result waits for (R292). -/
structure Wake where
  task : Nat
  run : Nat
  know : Know
  res : WakeRes
  never : Bool
  src : Nat
  t0 : Nat
  resends : Nat
  pg : Option Nat
  deriving DecidableEq, Repr

/-- Why a page is not mapped: no leaf, a leaf with NZ = 1, or a table error (R292). -/
inductive FaultCause where
  | missing | nz | table
  deriving DecidableEq, Repr

/-- What a translation misses: object, home, page index, local offset and cause (R292). -/
structure Missed where
  oid : Nat
  pkg : Nat
  die : Nat
  pg : Nat
  lo : Nat
  cause : FaultCause
  deriving DecidableEq, Repr

/-- A page being served (R292 to R294): what was missed, whether the Skep was asked, when it was posted, and whether it has been
mapped or found unserviceable. -/
structure Fault292 where
  page : Missed
  skep : Bool
  t0 : Nat
  done : Bool
  failed : Bool
  deriving DecidableEq, Repr

/-- A side-log entry: the effect that waits, in arrival order (R295). n is the index of the page's fault. -/
structure Logged where
  n : Nat
  f : Flit
  deriving DecidableEq, Repr

/-- A page-root entry (R286), with the frames that the object holds on the die, each with its free list. -/
structure Root where
  oid : Nat
  pkg : Nat
  die : Nat
  lv : Nat
  top : Nat
  frames : List (Nat × Nat)
  deriving DecidableEq, Repr

/-- The modes of an ownership entry (Table 16-2). -/
inductive OwnMode where
  | sector (pkg die sec : Nat) | package (pkg : Nat) | spread
  deriving DecidableEq, Repr

/-- An ownership entry: first block, number of blocks, mode (R282). -/
structure Own where
  start : Nat
  len : Nat
  mode : OwnMode
  deriving DecidableEq, Repr

/-- Room of a range in which OFORK places objects with the homes of a mode: the next block and the end (R223, R282). -/
structure Room where
  mode : OwnMode
  next : Nat
  stop : Nat
  deriving DecidableEq, Repr

/-- A package's pool of free OIDs (R291): those not used yet, and those returned. -/
structure OidPool where
  next : Nat
  stop : Nat
  freed : List Nat
  deriving DecidableEq, Repr

/-- An accumulator row: 128 values and its recorded weight (R86, R87). -/
structure Row where
  vals : List (BitVec 64)
  weight : Option Int
  deriving DecidableEq, Repr

/-- The format context of a core (R231): a format register's value, i8 or i4. -/
inductive ArrFmt where
  | unset | narrow (f : BitVec 32) | i8 | i4
  deriving DecidableEq, Repr

/-- A barrier of a core (R258 to R261), with what a BWAIT on each phase comes after (R61 edge 7). -/
structure Barrier where
  sc : Scope
  e : Nat
  p : BitVec 16
  mm : Bool
  know : Tab Know
  deriving DecidableEq, Repr

/-- A barrier waiter: record, run, barrier, phase (R260). -/
structure BWaiter where
  task : Nat
  run : Nat
  lcore : Nat
  b : Nat
  q : Nat
  deriving DecidableEq, Repr

/-- A node of a scope instance (R259): arrivals of the phase, its E, and what the arrivals come after (R61 edge 7). -/
structure Node where
  count : Nat
  e : Nat
  know : Know
  deriving DecidableEq, Repr

/-- A core's part of its comb's save region (R336): the scratchpad bytes that are not zero, by offset, the full bits and the
accumulator rows, as of the last writeback. -/
structure Saved where
  bytes : List Host.Cell
  full : Nat
  acc : Tab Row
  deriving DecidableEq, Repr

/-- A WAITA that stalls: lane, offset, value, and, once a write has brought the value, what that write comes after (R61 edge 6,
R208). -/
structure Stall where
  lane : Nat
  off : Nat
  v : Nat
  hit : Option Know
  deriving DecidableEq, Repr

/-- A logical core (Table 1-1). -/
structure CoreSt where
  /-- Full bit of word j as bit j (R58). -/
  full : Nat
  /-- Accumulator rows (R20). -/
  acc : Tab Row
  fmt : ArrFmt
  /-- Bound barriers (R258). -/
  bars : Tab Barrier
  /-- Handler bindings by class, pending buffers by class, and the spill queue, whose marked messages the Skep delivers again
  (R114, R115, R298, R310). -/
  binds : Tab Binding
  pend : Tab (List Msg)
  spill : List (Bool × Msg)
  /-- Live handler records by message class (R114). -/
  hands : Tab (List Nat)
  /-- Local queue (R301), a pre-emption whose message is on its way, and one in progress (R309); the other two say that it is an
  urgency pre-emption (R308). -/
  localq : List Nat
  asked : Bool
  urgAsked : Bool
  pre : Bool
  urgent : Bool
  /-- Poisoned words and rows (R327). -/
  badW : List Nat
  badR : List Nat
  saved : Saved
  /-- Lines and rows, as Lane.wrote names them, that activations running at a fence had written (R336). -/
  dirty : List Nat
  /-- WAITAs that stall (R208). -/
  waits : List Stall
  /-- By word, what an LDF that its full bit lets go comes after, and a WAITA that returns on the completion word in it (R61 edges 5
  and 6). -/
  fullKnow : Tab Know
  waitKnow : Tab Know
  deriving DecidableEq, Repr

/-- A tile buffer's condition (R232, R233); bad holds the trap that a command meets in it. -/
inductive BufState where
  | invalid | loading (va : Nat) | loaded | bad (code va : Nat) | faulted (va : Nat)
  deriving DecidableEq, Repr

/-- A tile buffer of 128 slots of 64 bytes. -/
structure Buf where
  st : BufState
  data : List Byte
  deriving DecidableEq, Repr

/-- What a compute command still has to do, with the operands captured at its issue (R233, R239): core, first row, rows, offset
and format of the rows that a TMMA has not read; for a TDRAIN its form, the offset of its scales, none where the tile gives
them, and the 4-byte words that it has not written, by number. -/
inductive Job where
  | mma (lcore row m off : Nat) (f : ArrFmt)
  | drain (lcore row off : Nat) (bf acc : Bool) (vec : Option Nat) (left : List Nat)
  | fmt (lcore : Nat) (f : ArrFmt)
  | zero (lcore row m : Nat)
  deriving DecidableEq, Repr

/-- An array command that has been accepted and has not ended (R239). -/
structure ArrCmd where
  load : Bool
  /-- The lane whose activation issued it, none once that activation has been abandoned (R238). -/
  lane : Option Nat
  task : Nat
  core : Nat
  /-- The PC of its instruction, for a trap that it meets as it runs (R173). -/
  pc : Word
  /-- The buffer it uses, as 0 or 1 (R232). -/
  buf : Option Bool
  /-- What it still has to do. -/
  job : Option Job
  /-- Outbox entries of the lane that a TLDW reads over memory. -/
  sees : Nat
  /-- The VA of a TLDW that waits for the compute commands before it that use its buffer (R232). -/
  pend : Option Nat
  deriving DecidableEq, Repr

/-- A lease (R228): core position, commands left, and the tasks that issued under it (R312). -/
structure Lease where
  core : Nat
  left : Nat
  /-- TREL has been issued: how many of the commands accepted before it have not completed (R229). -/
  ending : Option Nat
  tasks : List Nat
  deriving DecidableEq, Repr

/-- State of a TWE channel (R240). -/
inductive ChanState where
  | idle | walking | waiting | halted
  deriving DecidableEq, Repr

/-- A TWE channel (R240): PC, TASK and ACTN are those of the TWGO that last started it; row is the next row of the record
in progress, none between records, and line that record; gate says that it holds the record and waits for a permit, since is the
cycle from which it waits, and pg the fault that it waits for (R292). perms are the permits, as the TWPERMs posted them, know what
the transfer in progress comes after, and done the same by id of the completed ones (R121, R245). -/
structure Chan where
  head : Nat
  doneId : Nat
  perms : List (Nat × Know)
  st : ChanState
  err : Nat
  owner : Nat
  pc : Word
  task : Nat
  actn : Nat
  lcore : Nat
  row : Option Nat
  line : Line
  gate : Bool
  since : Nat
  pg : Option Nat
  know : Know
  done : List (Nat × Know)
  deriving DecidableEq, Repr

/-- A TWE waiter (R245). -/
structure TWaiter where
  task : Nat
  run : Nat
  ch : Nat
  id : Nat
  deriving DecidableEq, Repr

/-- A logical comb. -/
structure CombSt where
  /-- Slot, array cycles used of it before the cycle since which the comb runs, none out of its slice (R24), and the
  round-robin pointer (R228). -/
  slot : Nat
  used : Nat
  since : Option Nat
  rr : Nat
  lease : Option Lease
  /-- Lanes whose TLEASE is stalled (R229). -/
  asking : List Nat
  buf0 : Buf
  buf1 : Buf
  queue : List ArrCmd
  chans : Tab Chan
  twait : List TWaiter
  deriving DecidableEq, Repr

/-- The running launch (R32, R322). -/
structure Launch where
  npkg : Nat
  pkgmap : List Nat
  part : BitVec 32
  valloc : Nat
  mode : BitVec 8
  seed : List Word
  codeOid : Nat
  codeBase : Nat
  codeLen : Nat
  shape : Option Nat
  root : Nat
  rootTask : Nat
  cmd : Nat
  tt : Option Nat
  /-- Cycle at which it started. -/
  cyc0 : Nat
  /-- OIDs of the mmio objects that the Skep has created (R296, R351). -/
  blocks : List Nat
  deriving DecidableEq, Repr

/-- A launch in the queue (R318): descriptor, package map, command id, time-triggered entry, and where the loader places it. -/
structure LaunchReq where
  desc : BitVec 2048
  pkgmap : List (BitVec 32)
  cmd : Nat
  tt : Option Nat
  place : List (Nat × Nat)
  deriving DecidableEq, Repr

/-- A loaded image (R348). -/
structure Loaded where
  handle : Nat
  img : Image
  deriving DecidableEq, Repr

/-- The registers of a context block (Table 19-5) and its queues. -/
structure HostSt where
  sqBase : Word
  sqSize : Nat
  sqTail : Nat
  sqHead : Nat
  cqBase : Word
  cqSize : Nat
  cqHead : Nat
  cqTail : Nat
  cqTailWb : Word
  irq : Word
  imgBusy : Option Line
  imgResult : Nat
  imgHandle : Nat
  bellErr : Bool
  flogMir : Word
  /-- Commands read and not yet handled, launches waiting, completions waiting and posted (R318 to R320). -/
  cmds : List Line
  launches : List LaunchReq
  waiting : List (BitVec 256)
  posted : List (BitVec 256)
  deriving DecidableEq, Repr

/-- An earlier content of a line of lattice memory (R57). -/
structure Old where
  line : Option LineState
  bytes : List Byte
  deriving DecidableEq, Repr

/-- An applied effect that releases: the bytes that contain it, or the block that it caps; its scope; the core that issued it, none
for the device; the changes of the line by then; and what it comes after, itself among it (R61 edges 2 and 3, R120). -/
structure Rel where
  va : Nat
  len : Nat
  cap : Bool
  sc : Scope
  lcore : Option Nat
  ver : Nat
  know : Know
  deriving DecidableEq, Repr

/-- A context (R276). -/
structure Ctx where
  num : Nat
  pkgs : List Nat
  d0 : Nat
  logn : Nat
  service : Bool
  /-- A kill is under way, with the completion entry that its end posts (R280, R347). -/
  killing : Option (Option (BitVec 256))
  /-- Objects of an ended launch wait for its completion entry: how many entries are to be posted up to it (R322). -/
  endAt : Nat
  /-- Records of the pool that the Skep reserves (R92, Table 16-1). -/
  pool : Nat
  /-- Messages that a die's spill region holds (R310, Table 16-1). -/
  spillMax : Nat
  launch : Option Launch
  /-- Records by task id, groups by group id, next unused ids (R92, R107, R111). -/
  recs : Tab Rec
  groups : Tab Group
  nextTask : Nat
  nextGid : Nat
  lanes : Tab Lane
  cores : Tab CoreSt
  combs : Tab CombSt
  /-- Effects on their way, and the next effect number (R326, R344). -/
  flits : List Flit
  nextFlit : Nat
  /-- Applied count tags by tag * 2^60 + address, accepted tags by tag number, with their times (R44, R99). -/
  seen : Tab Nat
  accepted : Tab Nat
  /-- The record or group that a SPAWN or TGNEW tag names, and since when (R247, R250). -/
  bound : Tab (Nat × Nat)
  /-- Records of hold sets, by task, with their ACTN (R328). -/
  holds : Tab Nat
  watches : List Waiter
  /-- Refused watches with the cycle of their next try (R55). -/
  refused : List (Nat × Waiter)
  bwaits : List BWaiter
  nodes : Tab Node
  wakes : List Wake
  faults : List Fault292
  sideLog : List Logged
  objs : Tab Obj
  roots : List Root
  owns : List Own
  rooms : List Room
  /-- The loader's next OID, and the pools of OFORK by logical package (R291). -/
  nextOid : Nat
  pools : Tab OidPool
  nextVa : Nat
  /-- Earlier contents of lattice lines, oldest first, which a die's cache may still hold, by VA / 64 (R57). -/
  copies : Tab (List Old)
  /-- Applied effects that release, and the fences so far with scope, core and what they come after (R61 edges 2, 3 and 8). -/
  rels : List Rel
  fenceKnow : List (Scope × Nat × Know)
  /-- Privileged registers (Tables 16-7, 17-1, 18-3). -/
  fnmode : BitVec 12
  slottab : Word
  /-- The table in force, and the period in which a table not yet in force was written. -/
  slotNow : Word
  slotPend : Option Nat
  otver : Word
  rmver : Word
  stver : Word
  fltcnt : Tab Nat
  flog : Tab FaultRec
  flogHead : Word
  flogLost : Word
  flogCons : Word
  rsvlo : Word
  rsvhi : Word
  precls : Word
  grpcls : Word
  dlmiss : Word
  ovq : Word
  bksel : Word
  lnksel : Word
  tttab : Tab Word
  /-- Firings of each entry so far, or the ones that a write found past (R318). -/
  ttNext : Tab Nat
  attNonce : List Word
  /-- The message being signed (R339). -/
  attBusy : Option Nat
  attDone : Bool
  attFinal : Bool
  attSig : BitVec 768
  manifest : BitVec 2048
  launchSeq : Nat
  rfcount : Nat
  fences : Nat
  host : HostSt
  images : List Loaded
  nextHandle : Nat
  deriving DecidableEq, Repr

/-- A fault counter with its mark flag and the time of its last leak (R329). -/
structure Counter where
  val : Nat
  mark : Bool
  last : Nat
  deriving DecidableEq, Repr

/-- The Waggle states (Table 18-5). -/
inductive WagState where
  | active | fenced | selftest | appeal | readmitted
  deriving DecidableEq, Repr

/-- What Waggle knows of a physical comb (R332 to R334): which neighbour knows of which accuser (knower * 512 +
accuser), with the times from which and until which the accusation holds; its heartbeat number and the time of the last
one, yes votes, appeal times, time of its present state, and whether it waits for an hour (appeals refused) or for reset
(test failed). -/
structure Wag where
  st : WagState
  accusers : Tab (Nat × Nat)
  seq : BitVec 16
  beat : Nat
  votes : List Nat
  appeals : List Nat
  since : Nat
  refused : Bool
  failed : Bool
  /-- FNMODE.FR of the die's context when the comb was fenced (R298). -/
  fr : Nat
  /-- How often the notice and the hold set of its fence were sent again (R345). -/
  resends : Nat
  deriving DecidableEq, Repr

/-- What a neighbour has seen of a comb's heartbeats: last number and time, times of malformed ones, consecutive good
ones, and the arrivals of the last period. -/
structure Beat where
  seq : BitVec 16
  last : Nat
  badAt : List Nat
  good : Nat
  arrived : List Nat
  deriving DecidableEq, Repr

/-- A Krytay port (R340 to R342): 0 down, 1 training, 2 degraded, 3 up. lseq is the last sequence sent, lack the last one
accepted, replay holds the flits sent and not acknowledged with their times, nak says that the far side met a CRC error, downAt
is when the port last went down. lanes are those that work and are enabled, good those that have been trained and have not
failed, and enables is what the Links block holds (R351). -/
structure Port where
  st : Nat
  lanes : BitVec 8
  peer : BitVec 18
  lseq : BitVec 32
  lack : BitVec 32
  replay : List (BitVec 1024 × Nat)
  nak : Bool
  downAt : Nat
  good : BitVec 8
  enables : BitVec 8
  deriving DecidableEq, Repr

/-- Events posted to the Skep and the host (R308, R318, R329, R334): predictive failure, FENCE, TESTFAIL, APPEAL,
APPEALREF, READMIT, and the postings of the Skep-assisted modes. -/
inductive Posted where
  | mark (u : FaultUnit) | fence (s : Site) | testfail (s : Site) | appeal (s : Site) | appealRef (s : Site)
  | readmit (s : Site) | overrun (task : Nat) | firing (entry : Nat)
  deriving DecidableEq, Repr

/-- A package's own hardware. -/
structure Pkg where
  /-- The machine's cycle count at the package's reset, from which its cores count CYC (R32). -/
  cyc0 : Nat
  /-- STATE: 0 reset, 1 booting, 2 ready, 3 failed, with its boot step and failure code (R346). -/
  state : Nat
  step : Nat
  failure : BitVec 16
  pkgid : Nat
  mbox : Word
  mboxReq : Option MboxReq
  mboxRes : BitVec 8
  /-- Fault counters by unit number (R329) and their configuration (R330). -/
  counters : Tab Counter
  bkcfgb : Word
  bkcfgl : Word
  bkcfgc : Word
  wgrate : Word
  /-- Waggle by physical comb, die * 64 + comb; beats by (from, at) (R331 to R334). -/
  wag : Tab Wag
  beats : Tab Beat
  /-- When Waggle started (Table 19-6). -/
  wagFrom : Nat
  /-- Physical comb of a logical comb where it is not its own, by logical die * 64 + comb (R23). -/
  remap : Tab Nat
  ports : Tab Port
  /-- PTP (R352, R353). -/
  locked : Bool
  holdover : Bool
  domain : BitVec 8
  offset : BitVec 32
  goodSync : Nat
  lastSync : Nat
  /-- The last Sync interval; device TIME less the machine's count of ns; what a slew still has to add or take away
  (R316, R353). -/
  syncGap : Nat
  ahead : Int
  slew : Int
  /-- Has PTP relocked after a holdover, so that TIME is only slewed (R353)? -/
  relock : Bool
  pwrcap : Word
  clock : Nat
  /-- Values stored to the registers of the mmio blocks, by block * 2^16 + offset (R351). -/
  mmio : Tab Word
  /-- Frames taken from each list, and frames returned to it (R293). -/
  used : Tab Nat
  freed : List (Nat × Nat)
  /-- Frames with K = 1 until reset, as address, length, and whether a context or the Skep uses them (R279, R289). -/
  kframes : List (Nat × Nat × Bool)
  posted : List Posted
  sigs : Nat
  deriving DecidableEq, Repr

/-- What comes next: a lane issues, or one of the part's other steps comes about (spec/95). ctx is the key of the
context it concerns, cycles and ns what passes before it (DESIGN CHOICE, log entry 4). -/
inductive Act where
  | issue (ctx l : Nat)
  | event (ctx : Nat) (i : Instr)
  deriving DecidableEq, Repr

structure Turn where
  cycles : Nat
  ns : Nat
  act : Act
  deriving DecidableEq, Repr

/-- The whole machine. -/
structure State where
  /-- Turns to come; when there is none, autoChoice chooses (DESIGN CHOICE, log entry 3). -/
  sched : List Turn
  /-- Counter that makes free values fresh (DESIGN CHOICE, log entry 6). -/
  tick : Nat
  /-- First word of the instruction in issue, for the signature (R323). -/
  ir : BitVec 32
  /-- Key of the lane in focus, logical core * 8 + lane, and that lane. -/
  cur : Nat
  ln : Lane
  /-- Key of the context in focus, that context, and the others. -/
  kid : Nat
  k : Ctx
  others : Tab Ctx
  mem : Memory
  hw : Tab Pkg
  /-- CYC and device TIME in ns (R32, R316). -/
  cyc : Nat
  time : Nat
  deriving DecidableEq, Repr

/-- The first values of a lane (R31, R33; DESIGN CHOICE, log entry 11). -/
def Lane.init : Lane :=
  { s := Vector.replicate 64 0, v := Vector.replicate 32 0, m := Vector.replicate 8 0, c := Vector.replicate 16 0
    liveS := 1, liveV := 0, liveM := 0, liveC := 0x8001
    pc := 0, fpc := 0, flags := 0, nf := 0, fmt := Vector.replicate 8 0, trapc := 0, trappc := 0, trapva := 0
    budg := 0, budgPc := none, st := .idle, task := 0, box := [], boxSig := 0, blk := 0, sig := 0, mism := none, lastSig := none
    susp := none, fin := none, cnt := 0, seqn := 0, rd := none, wins := [], rTask := [], rGid := [], rObj := []
    from_ := 0, preq := none, never := false, tret := false, tpd := false, selfCancel := false, acc := false, know := []
    reads := [], pg := none, wrote := [] }

/-- A core as a launch finds it (R87, R228, R258). -/
def CoreSt.init : CoreSt :=
  { full := 0, acc := [], fmt := .unset, bars := [], binds := [], pend := [], spill := [], hands := [], localq := []
    asked := false, urgAsked := false, pre := false, urgent := false, badW := [], badR := [], saved := ⟨[], 0, []⟩, dirty := []
    waits := [], fullKnow := [], waitKnow := [] }

/-- An empty accumulator row. -/
def Row.init : Row := ⟨List.replicate 128 0, none⟩

def Buf.init : Buf := ⟨.invalid, []⟩

/-- A channel at launch start (R240). -/
def Chan.init : Chan :=
  { head := 0, doneId := 0, perms := [], st := .idle, err := 0, owner := 0, pc := 0, task := 0, actn := 0, lcore := 0, row := none
    line := 0, gate := false, since := 0, pg := none, know := [], done := [] }

/-- A comb at launch start (R228, R297). -/
def CombSt.init : CombSt :=
  { slot := 0, used := 0, since := some 0, rr := 0, lease := none, asking := [], buf0 := Buf.init
    buf1 := Buf.init, queue := [], chans := [], twait := [] }

def HostSt.init : HostSt :=
  { sqBase := 0, sqSize := 0, sqTail := 0, sqHead := 0, cqBase := 0, cqSize := 0, cqHead := 0, cqTail := 0
    cqTailWb := 0, irq := 0, imgBusy := none, imgResult := 0, imgHandle := 0, bellErr := false, flogMir := 0
    cmds := [], launches := [], waiting := [], posted := [] }

/-- A context with no packages, as creation finds it (R297 to R299, R349). -/
def Ctx.init : Ctx :=
  { num := 0, pkgs := [], d0 := 0, logn := 0, service := false, killing := none, endAt := 0, pool := 0, spillMax := 0, launch := none, recs := []
    groups := [], nextTask := 1, nextGid := 1, lanes := [], cores := [], combs := [], flits := [], nextFlit := 0
    seen := [], accepted := [], bound := [], holds := [], watches := [], refused := [], bwaits := [], nodes := [], wakes := []
    faults := [], sideLog := [], objs := [], roots := [], owns := [], rooms := [], nextOid := 1, pools := [], nextVa := 0, copies := [], rels := [], fenceKnow := [], fnmode := 0
    slottab := 0x0000924924924924, slotNow := 0x0000924924924924, slotPend := none, otver := 0, rmver := 0, stver := 0, fltcnt := [], flog := []
    flogHead := 0, flogLost := 0, flogCons := 0, rsvlo := 0, rsvhi := 0, precls := 0, grpcls := 0, dlmiss := 0
    ovq := 0, bksel := 0, lnksel := 0, tttab := [], ttNext := [], attNonce := [0, 0, 0, 0], attBusy := none
    attDone := false, attFinal := false, attSig := 0, manifest := 0, launchSeq := 0, rfcount := 0, fences := 0
    host := HostSt.init, images := [], nextHandle := 1 }

def Wag.init : Wag := ⟨.active, [], 0, 0, [], [], 0, false, false, 0, 0⟩

def Beat.init : Beat := ⟨0, 0, [], 0, []⟩

def Port.init : Port := ⟨0, 0, 0, 0, 0, [], false, 0, 0, 0xFF⟩

/-- A package at reset (R329, R330, R346, R349). -/
def Pkg.init : Pkg :=
  { cyc0 := 0, state := 0, step := 0, failure := 0, pkgid := 0, mbox := 0, mboxReq := none, mboxRes := 0, counters := []
    bkcfgb := 0x0000010003E84001, bkcfgl := 0x0000010003E84001, bkcfgc := 0x0000010003E84001, wgrate := 0x4000
    wag := [], beats := [], wagFrom := 0, remap := [], ports := [], locked := false, holdover := false, domain := 0
    offset := 0, goodSync := 0, lastSync := 0, syncGap := 0, ahead := 0, slew := 0, relock := false, pwrcap := 0, clock := 1100, mmio := [], used := [], freed := [], kframes := []
    posted := [], sigs := 0 }

/-- The machine right after reset (R349): one package in STATE 0, no context, nothing in memory. How many packages a machine
has, R22 leaves open: 1 at reset (DESIGN CHOICE, log entry 89). -/
def State.reset : State :=
  { sched := [], tick := 0, ir := 0, cur := 0, ln := Lane.init, kid := 0, k := Ctx.init, others := []
    mem := Memory.empty, hw := [(0, Pkg.init)], cyc := 0, time := 0 }

end Sys2Proof.Machine
end

