-- ==== Sys2Proof/Machine/Env.lean ====
section
/-!
DEFINITION. Where things stand in the state: the lane, core, comb, package and record that an operation concerns, and
the values that the running launch fixes.
-/

namespace Sys2Proof.Machine

/-- Changes the lane in focus. -/
def State.onLn (s : State) (f : Lane → Lane) : State := { s with ln := f s.ln }

/-- Changes the context in focus. -/
def State.onK (s : State) (f : Ctx → Ctx) : State := { s with k := f s.k }

/-- Logical core of the lane in focus (R22). -/
def State.lcore (s : State) : Nat := s.cur / 8

/-- Its lane number within the core (R32 LANE). -/
def State.laneNo (s : State) : Nat := s.cur % 8

/-- Logical comb of a logical core (R22). -/
def combOf (lcore : Nat) : Nat := lcore / 4

/-- A lane as its launch finds it: OFF when it is numbered above LANESM1 (R96). -/
def State.lane0 (s : State) (l : Nat) : Lane :=
  match s.k.launch with
  | some x => if x.part.toNat / 2 ^ 18 % 8 < l % 8 then { Lane.init with st := .off } else Lane.init
  | none => Lane.init

/-- A lane of the context in focus. -/
def State.lane (s : State) (l : Nat) : Lane := if l = s.cur then s.ln else tget s.k.lanes l (s.lane0 l)

/-- Changes a lane of the context in focus. -/
def State.onLane (s : State) (l : Nat) (f : Lane → Lane) : State :=
  if l = s.cur then s.onLn f else s.onK (fun k => { k with lanes := tset k.lanes l (f (tget k.lanes l (s.lane0 l))) })

/-- A core and a comb of the context in focus. -/
def State.core (s : State) (c : Nat) : CoreSt := tget s.k.cores c CoreSt.init
def State.onCore (s : State) (c : Nat) (f : CoreSt → CoreSt) : State :=
  s.onK (fun k => { k with cores := tset k.cores c (f (tget k.cores c CoreSt.init)) })
/-- A comb as its launch finds it: of the logical dies that one physical die carries, the first is in its slice (R24,
R278). -/
def State.comb0 (s : State) (c : Nat) : CombSt :=
  match s.k.launch with
  | some l => { CombSt.init with since := if c / 64 % 8 < 2 ^ s.k.logn then some l.cyc0 else none }
  | none => CombSt.init

def State.comb (s : State) (c : Nat) : CombSt := tget s.k.combs c (s.comb0 c)

def State.onComb (s : State) (c : Nat) (f : CombSt → CombSt) : State :=
  s.onK (fun k => { k with combs := tset k.combs c (f (s.comb c)) })

/-- A package's hardware. -/
def State.pkg (s : State) (p : Nat) : Pkg := tget s.hw p Pkg.init
def State.onPkg (s : State) (p : Nat) (f : Pkg → Pkg) : State :=
  { s with hw := tset s.hw p (f (tget s.hw p Pkg.init)) }

/-- Sets the power cap: a value from 1 to 799 is raised to 800 (R355). -/
def Pkg.setCap (p : Pkg) (v : Word) : Pkg := { p with pwrcap := if 1 ≤ v.toNat ∧ v.toNat < 800 then 800 else v }

/-- A record with no fields set. -/
def RecFields.init : RecFields :=
  { pc := 0, pin := false, hnd := false, pre := false, tpd := false, gid := 0, deadline := BitVec.allOnes 64, cbud := 0
    cls := 0, alloc := 8, pcore := 0, frame := 0, vlive := 0, mlive := 0, actn := 0, slive := 1 }

def Rec.init : Rec :=
  { f := RecFields.init, st := .ended, pkg := 0, die := 0, confirm := false, mism := 0, trap := none, handles := none
    overPc := 0, core := 0, newCls := none, never := false, notBefore := 0, newDl := none, newBg := none, first := none, since := 0, lack := 0, wheel := ⟨0, 0, 0⟩
    doneAt := none, posted := false, run := 0, pnever := false, mark := 0, know := [], own := [] }

def Group.init : Group :=
  { parent := none, compl := 0, fault := 0, ov := 0, closed := false, faulted := false, status := 0, ended := 0
    trapped := 0, nevers := 0, ovr := none, cancelling := false, used := 0, marks := [], know := [] }

/-- A record of the context, and a change of it. -/
def State.record (s : State) (t : Nat) : Rec := tget s.k.recs t Rec.init
def State.onRec (s : State) (t : Nat) (f : Rec → Rec) : State := s.onK (fun k => { k with recs := tmap k.recs t f })
def State.group (s : State) (g : Nat) : Group := tget s.k.groups g Group.init
def State.onGroup (s : State) (g : Nat) (f : Group → Group) : State :=
  s.onK (fun k => { k with groups := tmap k.groups g f })

/-- The record that the lane in focus runs, its group and its allocation. -/
def State.rec_ (s : State) : Rec := s.record s.ln.task
def State.gid (s : State) : Nat := s.rec_.f.gid
def State.alloc (s : State) : Nat := s.rec_.f.alloc

/-- Fields of the partition word (R16). -/
def partField (p : BitVec 32) (lo n : Nat) : Nat := p.toNat / 2 ^ lo % 2 ^ n

def State.part (s : State) : BitVec 32 := match s.k.launch with
  | some l => l.part
  | none => 0
def State.npkg (s : State) : Nat := match s.k.launch with
  | some l => l.npkg
  | none => 0
def State.pkgmap (s : State) : List Nat := match s.k.launch with
  | some l => l.pkgmap
  | none => s.k.pkgs
def State.seed (s : State) : List Word := match s.k.launch with
  | some l => l.seed
  | none => [0, 0, 0, 0]
def State.modeBits (s : State) : BitVec 8 := match s.k.launch with
  | some l => l.mode
  | none => 0
def State.valloc (s : State) : Nat := match s.k.launch with
  | some l => l.valloc
  | none => 0

/-- LCOUNT (R22). -/
def State.lcount (s : State) : Nat := 2048 * s.npkg

/-- Scratchpad bytes, neighbour-window bytes, accumulator rows, enabled lanes (R16, R19, R20). -/
def State.scratchSize (s : State) : Nat := partField s.part 6 6 * 16384
def State.windowSize (s : State) : Nat := min (s.scratchSize) 65536
def State.accRows (s : State) : Nat := partField s.part 12 6 * 16
def State.lanesOn (s : State) : Nat := partField s.part 18 3 + 1

/-- NDOK and SIGON (R32). -/
def State.ndok (s : State) : Bool := s.modeBits.getLsbD 0
def State.sigon (s : State) : Bool := s.modeBits.getLsbD 1

/-- Physical package of a logical core (R22, R276). -/
def State.pkgOf (s : State) (lcore : Nat) : Nat := lget s.pkgmap (lcore / 2048) 0

/-- Number of dies of the context (R276). -/
def State.ndies (s : State) : Nat := 2 ^ s.k.logn

/-- Physical die of logical die d (R278). -/
def State.dieOf (s : State) (d : Nat) : Nat := s.k.d0 + d % s.ndies

/-- Key of a logical comb in Pkg.remap, which all contexts of the package share. -/
def State.remapKey (s : State) (comb : Nat) : Nat := s.k.num * 512 + comb % 512

/-- Physical package and physical comb (die * 64 + comb) of a logical comb (R23, R278). -/
def State.placeOf (s : State) (comb : Nat) : Nat × Nat :=
  let p := lget s.pkgmap (comb / 512) 0
  (p, tget (s.pkg p).remap (s.remapKey comb) (s.dieOf (comb / 64 % 8) * 64 + comb % 64))

/-- Does a logical comb share its host: because a die carries several logical dies (R278), or by a remap (R23)? -/
def State.sharedComb (s : State) (c : Nat) : Bool :=
  let x := s.placeOf c
  decide (s.ndies < 8) || (s.pkg x.1).remap.any (fun e => e.1 / 512 == s.k.num && e.2 == x.2)

/-- Array cycles since the start of the slot that CombSt.slot names. -/
def State.slotUsed (s : State) (c : CombSt) : Nat :=
  c.used + match c.since with
    | some n => s.cyc - n
    | none => 0

/-- Is a logical comb in its slice, which ends with a slot where it shares its host (R24)? -/
def State.inSlice (s : State) (c : Nat) : Bool :=
  (s.comb c).since.isSome && !(s.sharedComb c && decide (2048 ≤ s.slotUsed (s.comb c)))

/-- Does the context's host side work: has none of its packages failed (R349, R354; DESIGN CHOICE, log entry 58)? -/
def State.hostUp (s : State) : Bool := s.k.pkgs.all (fun p => (s.pkg p).state != 3)

/-- Device TIME of a package (R32, R316). -/
def State.timeOn (s : State) (p : Nat) : Nat := ((s.time : Int) + (s.pkg p).ahead).toNat

/-- TIME of a logical core's package. -/
def State.timeAt (s : State) (lcore : Nat) : Nat := s.timeOn (s.pkgOf lcore)

/-- The bank of a logical core: the member of the die set that carries its logical die (R278, R300). -/
def State.bankOf (s : State) (lcore : Nat) : Nat := lcore / 256 % 8 % s.ndies

/-- Is the group live: known, and neither completed nor cancelled? A reserved group is live (R250). -/
def State.liveGroup (s : State) (g : Nat) : Bool :=
  match tget? s.k.groups g with
  | some x => x.status == 0
  | none => false

/-- Is a group g or a descendant of it? n bounds the depth. -/
def State.below (s : State) : Nat → Nat → Nat → Bool
  | 0, _, _ => false
  | n + 1, g, x => x == g || match (s.group x).parent with
    | some p => s.below n g p
    | none => false

/-- Descendant-or-self over the whole tree. -/
def State.within (s : State) (g x : Nat) : Bool := s.below (s.k.groups.length + 1) g x

/-! What comes before what (R61). -/

/-- An access comes after a number of changes of a line. -/
def Know.see (k : Know) (line n : Nat) : Know := tset k line (max n (tget k line 0))

/-- What comes before either of two accesses. -/
def Know.join (a b : Know) : Know := b.foldl (fun k e => Know.see k e.1 e.2) a

/-- The lane's next instruction comes after more. -/
def State.gain (s : State) (k : Know) : State := s.onLn (fun l => { l with know := Know.join l.know k })

/-- What the effects of a group and its descendants come after (R120). -/
def State.groupKnow (s : State) (g : Nat) : Know :=
  (s.k.groups.filter (fun e => s.within g e.1)).foldl (fun k e => Know.join k e.2.know) []

/-- A channel of a comb, and a change of it. -/
def State.chan (s : State) (comb ch : Nat) : Chan := tget (s.comb comb).chans ch Chan.init
def State.onChan (s : State) (comb ch : Nat) (f : Chan → Chan) : State :=
  s.onComb comb (fun c => { c with chans := tset c.chans ch (f (tget c.chans ch Chan.init)) })

/-- PERMITS of a channel (R240). -/
def Chan.permits (c : Chan) : Nat := (c.perms.map (fun p => p.1)).sum

/-- What a TWWAIT for the transfers below an id comes after (R245). -/
def Chan.doneKnow (c : Chan) (id : Nat) : Know := (c.done.filter (fun d => decide (d.1 < id))).foldl (fun k d => Know.join k d.2) []

/-- Bytes of one save area: A of R94. -/
def areaBytes (alloc : Nat) : Nat := 2048 + 512 * alloc

/-- Membership of scopes (Table 1-3): do cores l and m lie in one instance? -/
def sameScope (sc : Scope) (l m : Nat) : Bool :=
  match sc with
  | .lane => false
  | .core => l == m
  | .comb => l / 4 == m / 4
  | .sector => l / 64 == m / 64
  | .die => l / 256 == m / 256
  | .pkg => l / 2048 == m / 2048
  | .node => l / 2048 / 4 == m / 2048 / 4
  | .rack => l / 2048 / 64 == m / 2048 / 64
  | .pod => l / 2048 / 4096 == m / 2048 / 4096
  | .sys => true

/-- The number of a core's instance of a scope (Table 1-3). -/
def scopeInst (sc : Scope) (l : Nat) : Nat :=
  match sc with
  | .lane | .core => l
  | .comb => l / 4
  | .sector => l / 64
  | .die => l / 256
  | .pkg => l / 2048
  | .node => l / 8192
  | .rack => l / 131072
  | .pod => l / 8388608
  | .sys => 0

/-- Number of a scope (Table 1-3). -/
def scopeNum : Scope → Nat
  | .lane => 0 | .core => 1 | .comb => 2 | .sector => 3 | .die => 4 | .pkg => 5 | .node => 6 | .rack => 7
  | .pod => 8 | .sys => 9

def scopeOfNum (n : Nat) : Scope :=
  match n with
  | 0 => .lane | 1 => .core | 2 => .comb | 3 => .sector | 4 => .die | 5 => .pkg | 6 => .node | 7 => .rack
  | 8 => .pod | _ => .sys

/-- Fields of a capability (Table 2-2). -/
def capCursor (c : Cap) : Nat := (c.extractLsb' 0 60).toNat
def capOid (c : Cap) : Nat := (c.extractLsb' 64 20).toNat
def capRights (c : Cap) : Nat := (c.extractLsb' 84 8).toNat
def capWoff (c : Cap) : Nat := (c.extractLsb' 92 20).toNat
def capWlen (c : Cap) : Nat := (c.extractLsb' 112 16).toNat

/-- A capability from its fields. -/
def mkCap (cursor oid rights woff wlen : Nat) : Cap :=
  BitVec.ofNat 128 (cursor % 2 ^ 60 + 2 ^ 64 * (oid % 2 ^ 20) + 2 ^ 84 * (rights % 2 ^ 8) + 2 ^ 92 * (woff % 2 ^ 20)
    + 2 ^ 112 * (wlen % 2 ^ 16))

def capHas (c : Cap) (bit : Nat) : Bool := (capRights c).testBit bit

/-- Rights of Table 2-2 by their place. -/
def rR : Nat := 0
def rJ : Nat := 1
def rW : Nat := 2
def rX : Nat := 3
def rC : Nat := 4
def rF : Nat := 5
def rD : Nat := 6
def rG : Nat := 7

/-- The object of an OID when it is present (R285). A provisional object is present to the package that made it (R291). -/
def State.obj? (s : State) (o : Nat) : Option Obj :=
  if o = 0 then none else match tget? s.k.objs o with
    | some x => if x.ret || (x.prov && x.pkg != some (s.lcore / 2048)) then none else some x
    | none => none

/-- Trap codes (Table 7-8). -/
def tILLEGAL : Nat := 0x01
def tDEADREG : Nat := 0x02
def tREGBOUND : Nat := 0x03
def tCAPBOUND : Nat := 0x04
def tCAPRIGHT : Nat := 0x05
def tTYPEMIS : Nat := 0x06
def tCAPVIOL : Nat := 0x07
def tFILLCONF : Nat := 0x08
def tNOTCAPPED : Nat := 0x09
def tNONEXCL : Nat := 0x0A
def tLAPOVER : Nat := 0x0B
def tEXCLOWN : Nat := 0x0C
def tALIGN : Nat := 0x0D
def tTRITBYTE : Nat := 0x0E
def tFORMAT : Nat := 0x0F
def tLEASE : Nat := 0x10
def tBUDGET : Nat := 0x11
def tORDER : Nat := 0x13
def tPRIV : Nat := 0x14
def tPAGEFAULT : Nat := 0x15
def tKRES : Nat := 0x16
def tLINKLOST : Nat := 0x17
def tSIGFAIL : Nat := 0x18
def tUNCORR : Nat := 0x19
def tCANCELLED : Nat := 0x1A
def tSWTRAP : Nat := 0x1B
def tNDMODE : Nat := 0x1C

/-- Codes whose record has RPT = 1 when they are met at issue (R175, R327). -/
def rptOf (code : Nat) : Bool :=
  code == tFILLCONF || code == tLAPOVER || code == tUNCORR || code == tCAPVIOL || code == tSIGFAIL || code == tLINKLOST

/-- The bottom pattern of a lattice type (Table 2-3). -/
def ltyPattern : LTy → Pattern
  | .minn | .mini => .ones
  | .minf => .nan
  | _ => .zeros

/-- Element width of a width code in bits (R144). -/
def wdBits : Wd → Nat
  | .w8 => 8 | .w16 => 16 | .w32 => 32 | .w64 => 64

/-- Number of an LTy (Table 2-3). -/
def ltyNum : LTy → Nat
  | .excl => 0 | .maxn => 1 | .maxi => 2 | .minn => 3 | .mini => 4 | .maxf => 5 | .minf => 6 | .union => 7
  | .count => 8 | .fill => 9 | .lap => 10 | .arr => 11 | .code => 12 | .mmio => 13

end Sys2Proof.Machine
end

