-- ==== Sys2Proof/Machine/Bits.lean ====
section
/-!
DEFINITION. Bit-level helpers: signed values of w-bit patterns, clamping, counting, elements of registers (R70, R82,
R83, R154).
-/

namespace Sys2Proof.Machine

/-- The low w bits of a number. -/
def low (w x : Nat) : Nat := x % 2 ^ w

/-- SGN: the two's complement value of a w-bit pattern. -/
def sgn (w x : Nat) : Int := if x % 2 ^ w < 2 ^ (w - 1) then (x % 2 ^ w : Nat) else (x % 2 ^ w : Nat) - (2 ^ w : Nat)

/-- The w-bit pattern of an integer, its low w bits. -/
def ofInt (w : Nat) (i : Int) : Nat := (i % (2 ^ w : Nat)).toNat

/-- The value of a pattern, unsigned when n holds. -/
def valOf (n : Bool) (w x : Nat) : Int := if n then (x % 2 ^ w : Nat) else sgn w x

/-- The least and greatest value of a w-bit type. -/
def tMin (n : Bool) (w : Nat) : Int := if n then 0 else -(2 ^ (w - 1) : Nat)
def tMax (n : Bool) (w : Nat) : Int := if n then (2 ^ w : Nat) - 1 else (2 ^ (w - 1) : Nat) - 1

/-- An integer clamped to the range of a type. -/
def clampInt (n : Bool) (w : Nat) (i : Int) : Int := max (tMin n w) (min i (tMax n w))

/-- Division of R70 on w-bit patterns, unsigned when n holds. -/
def divInt (n : Bool) (w a b : Nat) : Nat :=
  if low w b = 0 then 2 ^ w - 1 else ofInt w ((valOf n w a).tdiv (valOf n w b))

/-- High half of the product (R154, R180). -/
def mulHigh (n : Bool) (w a b : Nat) : Nat := ofInt w ((valOf n w a * valOf n w b) / (2 ^ w : Nat))

/-- Number of set bits among bits 0 to n - 1. -/
def popCount : Nat → Nat → Nat
  | 0, _ => 0
  | n + 1, x => (if x.testBit n then 1 else 0) + popCount n x

/-- Lowest set bit among bits i to i + n - 1, or i + n. -/
def firstSet : Nat → Nat → Nat → Nat
  | 0, i, _ => i
  | n + 1, i, x => if x.testBit i then i else firstSet n (i + 1) x

/-- Leading zeros of the low n bits. -/
def leadZeros : Nat → Nat → Nat
  | 0, _ => 0
  | n + 1, x => if x.testBit n then 0 else 1 + leadZeros n x

/-- Bit i moved to bit n - 1 - i. -/
def revBits : Nat → Nat → Nat
  | 0, _ => 0
  | n + 1, x => (if x.testBit 0 then 2 ^ n else 0) + revBits n (x / 2)

/-- Byte i moved to byte n - 1 - i. -/
def revBytes : Nat → Nat → Nat
  | 0, _ => 0
  | n + 1, x => (x % 256) * 256 ^ n + revBytes n (x / 256)

/-- Elements of width w of a register's bits, position 0 first (R82). -/
def elems (w : Nat) : Nat → Nat → List Nat
  | 0, _ => []
  | n + 1, x => x % 2 ^ w :: elems w n (x / 2 ^ w)

/-- The register's bits from its elements. -/
def packE (w : Nat) : List Nat → Nat
  | [] => 0
  | x :: t => x % 2 ^ w + 2 ^ w * packE w t

/-- Elements per register (Table 3-7). -/
def elemCount (w : Nat) : Nat := 4096 / w

/-- Maps a function of position and value over a list, from position i on. -/
def mapFrom {α β : Type} (f : Nat → α → β) : Nat → List α → List β
  | _, [] => []
  | i, x :: t => f i x :: mapFrom f (i + 1) t

/-- The unsigned key of a float of width w in totalOrder (R41, R76, R193). -/
def floatKey (w x : Nat) : Nat :=
  if low w x < 2 ^ (w - 1) then low w x + 2 ^ (w - 1) else 2 ^ w - 1 - low w x

/-- Rotation of a 20-bit value (R8). -/
def rotl20 (x : BitVec 20) (k : Nat) : BitVec 20 := x.rotateLeft k

/-- The mask of words j to j + n - 1. -/
def maskRange (j n : Nat) : Nat := (2 ^ n - 1) * 2 ^ j

/-- Sets, clears and tests ranges of full bits (R58). -/
def setRange (x j n : Nat) : Nat := x ||| maskRange j n
def clearRange (x j n : Nat) : Nat := x ^^^ (x &&& maskRange j n)
def hasRange (x j n : Nat) : Bool := x &&& maskRange j n == maskRange j n

/-- Sign extension of a field to 64 bits. -/
def sext {n : Nat} (x : BitVec n) : Word := x.signExtend 64

/-- Truth as a number. -/
def b2n (b : Bool) : Nat := if b then 1 else 0

end Sys2Proof.Machine
end

