-- ==== Sys2Proof/Machine/Fp.lean ====
section
/-!
DEFINITION. Floating point (R71 to R75, R158, R159) and narrow formats (R77 to R81, R86): values are exact, and one
function rounds. Numbers are bit patterns as Nat, flags a 5-bit number in the order NV, DZ, OF, UF, NX of Table 3-2.
-/

namespace Sys2Proof.Machine

/-- A binary format of Table 3-1: fraction bits, exponent bits. -/
structure FFmt where
  mb : Nat
  eb : Nat
  deriving DecidableEq, Repr

def fmtF32 : FFmt := ⟨23, 8⟩
def fmtBF16 : FFmt := ⟨7, 8⟩
def fmtF16 : FFmt := ⟨10, 5⟩

def FFmt.width (f : FFmt) : Nat := f.mb + f.eb + 1
def FFmt.bias (f : FFmt) : Nat := 2 ^ (f.eb - 1) - 1
/-- Exponent of the unit of a subnormal. -/
def FFmt.qmin (f : FFmt) : Int := 1 - (f.bias : Int) - f.mb
def FFmt.signBit (f : FFmt) : Nat := 2 ^ (f.mb + f.eb)
def FFmt.infBits (f : FFmt) : Nat := (2 ^ f.eb - 1) * 2 ^ f.mb
def FFmt.nanBits (f : FFmt) : Nat := f.infBits + 2 ^ (f.mb - 1)
def FFmt.maxBits (f : FFmt) : Nat := f.infBits - 1

/-- The format of a floating element type. -/
def fmtOf : ETy → FFmt
  | .bf16 => fmtBF16
  | .f16 => fmtF16
  | _ => fmtF32

/-- An exact value: NaN (signalling or not), an infinity, or (-1)^neg * m * 2^e. -/
inductive FVal where
  | nan (signalling : Bool)
  | inf (neg : Bool)
  | fin (neg : Bool) (m : Nat) (e : Int)
  deriving DecidableEq, Repr

/-- Flags of Table 3-2. -/
def fNV : Nat := 1
def fDZ : Nat := 2
def fOF : Nat := 4
def fUF : Nat := 8
def fNX : Nat := 16

/-- A result with its flags. -/
abbrev FRes := Nat × Nat

/-- The rounding modes of Table 3-3. -/
inductive RMode where
  | rne | rtz | rdn | rup
  deriving DecidableEq, Repr

def RMode.ofCode (n : Nat) : RMode :=
  match n with
  | 0 => .rne | 1 => .rtz | 2 => .rdn | _ => .rup

/-- The value of a pattern (R71). -/
def unpackF (f : FFmt) (x : Nat) : FVal :=
  let neg := x / f.signBit % 2 == 1
  let e := x / 2 ^ f.mb % 2 ^ f.eb
  let m := x % 2 ^ f.mb
  if e = 2 ^ f.eb - 1 then
    if m = 0 then .inf neg else .nan (m < 2 ^ (f.mb - 1))
  else if e = 0 then .fin neg m f.qmin
  else .fin neg (2 ^ f.mb + m) (f.qmin + e - 1)

/-- 2^i for an integer i as a pair of naturals num / den. -/
def scaleQ (i : Int) : Nat × Nat := if i < 0 then (1, 2 ^ (-i).toNat) else (2 ^ i.toNat, 1)

/-- Is num / den below 2^i? -/
def ltPow (num den : Nat) (i : Int) : Bool :=
  let (p, q) := scaleQ i
  num * q < den * p

/-- floor(log2(num / den)) for a positive rational. -/
def ilog2Q (num den : Nat) : Int :=
  let e : Int := (Nat.log2 num : Int) - Nat.log2 den
  if ltPow num den e then e - 1 else e

/-- num / (den * 2^q) rounded to an integer in a mode, with whether it was exact. -/
def roundInt (rm : RMode) (neg : Bool) (num den : Nat) (q : Int) : Nat × Bool :=
  let (p, r) := scaleQ q
  let n := num * r
  let d := den * p
  let fl := n / d
  let rest := n % d
  let up := match rm with
    | .rne => decide (d < 2 * rest) || (2 * rest == d && fl % 2 == 1)
    | .rtz => false
    | .rdn => neg && rest != 0
    | .rup => !neg && rest != 0
  (if up then fl + 1 else fl, rest == 0)

/-- The overflow result of Table 3-3. -/
def overflowBits (f : FFmt) (rm : RMode) (neg : Bool) : Nat :=
  (if neg then f.signBit else 0) +
    match rm with
    | .rne => f.infBits
    | .rtz => f.maxBits
    | .rdn => if neg then f.infBits else f.maxBits
    | .rup => if neg then f.maxBits else f.infBits

/-- ROUND: the exact value (-1)^neg * num / den rounded once into a format, with OF, UF and NX (R72, R74). -/
def roundQ (f : FFmt) (rm : RMode) (neg : Bool) (num den : Nat) : FRes :=
  let sb := if neg then f.signBit else 0
  if num = 0 then (sb, 0) else
  let e := ilog2Q num den
  let q := max (e - f.mb) f.qmin
  let (n, exact) := roundInt rm neg num den q
  let bits := (q - f.qmin).toNat * 2 ^ f.mb + n
  if f.infBits ≤ bits then (overflowBits f rm neg, fOF + fNX) else
  -- tiny after rounding: the result with an unbounded exponent lies below the least normal number
  let (nu, _) := roundInt rm neg num den (e - f.mb)
  let tiny := e + 1 < f.qmin + f.mb || (e + 1 = f.qmin + f.mb && nu < 2 ^ (f.mb + 1))
  (sb + bits, if exact then 0 else if tiny then fUF + fNX else fNX)

/-- An exact finite value rounded. -/
def roundE (f : FFmt) (rm : RMode) (neg : Bool) (m : Nat) (e : Int) : FRes :=
  let (p, q) := scaleQ e
  roundQ f rm neg (m * p) q

/-- The canonical NaN, with NV when v holds. -/
def nanRes (f : FFmt) (v : Bool) : FRes := (f.nanBits, if v then fNV else 0)

def infRes (f : FFmt) (neg : Bool) : FRes := ((if neg then f.signBit else 0) + f.infBits, 0)

/-- The sign of an exact zero sum of operands of opposite sign (R74). -/
def zeroSign (rm : RMode) : Bool := rm == .rdn

def FVal.neg? : FVal → Bool
  | .nan _ => false
  | .inf s => s
  | .fin s _ _ => s

def FVal.negate : FVal → FVal
  | .nan s => .nan s
  | .inf s => .inf (!s)
  | .fin s m e => .fin (!s) m e

def FVal.isSnan : FVal → Bool
  | .nan s => s
  | _ => false

def FVal.isNan : FVal → Bool
  | .nan _ => true
  | _ => false

/-- The signed sum of two finite values, exactly, as an integer and an exponent. -/
def sumExact (s : Bool) (m : Nat) (e : Int) (t : Bool) (n : Nat) (d : Int) : Int × Int :=
  let b := min e d
  let x : Int := (m * 2 ^ (e - b).toNat : Nat)
  let y : Int := (n * 2 ^ (d - b).toNat : Nat)
  ((if s then -x else x) + (if t then -y else y), b)

/-- a + b. -/
def addV (f : FFmt) (rm : RMode) (a b : FVal) : FRes :=
  match a, b with
  | .nan s, .nan t => nanRes f (s || t)
  | .nan s, _ => nanRes f s
  | _, .nan t => nanRes f t
  | .inf s, .inf t => if s = t then infRes f s else nanRes f true
  | .inf s, _ => infRes f s
  | _, .inf t => infRes f t
  | .fin s m e, .fin t n d =>
    let r := sumExact s m e t n d
    if r.1 = 0 then
      let z := if s = t then s else zeroSign rm
      (if z then f.signBit else 0, 0)
    else roundE f rm (r.1 < 0) r.1.natAbs r.2

/-- The exact product, or NaN for 0 times infinity, with whether that is invalid. -/
def mulV (a b : FVal) : FVal × Bool :=
  match a, b with
  | .nan s, .nan t => (.nan false, s || t)
  | .nan s, _ => (.nan false, s)
  | _, .nan t => (.nan false, t)
  | .inf s, .inf t => (.inf (s != t), false)
  | .inf s, .fin t n _ => if n = 0 then (.nan false, true) else (.inf (s != t), false)
  | .fin s m _, .inf t => if m = 0 then (.nan false, true) else (.inf (s != t), false)
  | .fin s m e, .fin t n d => (.fin (s != t) (m * n) (e + d), false)

/-- A value rounded into a format. -/
def roundV (f : FFmt) (rm : RMode) : FVal → FRes
  | .nan s => nanRes f s
  | .inf s => infRes f s
  | .fin s m e => roundE f rm s m e

/-- a * b. -/
def mulF (f : FFmt) (rm : RMode) (a b : FVal) : FRes :=
  let (p, v) := mulV a b
  let r := roundV f rm p
  (r.1, r.2 ||| if v then fNV else 0)

/-- a * b + c with one rounding (R159). -/
def fmaF (f : FFmt) (rm : RMode) (a b c : FVal) : FRes :=
  let (p, v) := mulV a b
  let r := addV f rm p c
  (r.1, r.2 ||| if v then fNV else 0)

/-- a / b. -/
def divF (f : FFmt) (rm : RMode) (a b : FVal) : FRes :=
  match a, b with
  | .nan s, .nan t => nanRes f (s || t)
  | .nan s, _ => nanRes f s
  | _, .nan t => nanRes f t
  | .inf _, .inf _ => nanRes f true
  | .inf s, .fin t _ _ => infRes f (s != t)
  | .fin s _ _, .inf t => (if s != t then f.signBit else 0, 0)
  | .fin s m e, .fin t n d =>
    if n = 0 then
      if m = 0 then nanRes f true
      else ((infRes f (s != t)).1, fDZ)
    else
      let (p, q) := scaleQ (e - d)
      roundQ f rm (s != t) (m * p) (n * q)

/-- Integer square root by Newton steps on fuel. -/
def isqrtStep (x : Nat) : Nat → Nat → Nat
  | 0, r => r
  | n + 1, r =>
    let r' := (r + x / r) / 2
    if r' < r then isqrtStep x n r' else r

/-- floor(sqrt x). -/
def isqrt (x : Nat) : Nat := if x = 0 then 0 else isqrtStep x (x.log2 + 8) (2 ^ (x.log2 / 2 + 1))

/-- A rational that rounds as sqrt(num / den) does: its floor to far more places than any format holds, and half a
unit more when it is not exact. -/
def sqrtQ (num den : Nat) : Nat × Nat :=
  let k := 2 ^ 200 * (den + 1)
  let x := num * k * k / den
  let s := isqrt x
  if s * s = x ∧ num * k * k % den = 0 then (s, k) else (2 * s + 1, 2 * k)

/-- Square root (R159). -/
def sqrtF (f : FFmt) (rm : RMode) : FVal → FRes
  | .nan s => nanRes f s
  | .inf true => nanRes f true
  | .inf false => infRes f false
  | .fin s m e =>
    if m = 0 then (if s then f.signBit else 0, 0)
    else if s then nanRes f true
    else
      let (p, q) := scaleQ e
      let (a, b) := sqrtQ (m * p) q
      roundQ f rm false a b

/-- Compares two values that are not NaN: less, equal, greater. -/
def cmpV (a b : FVal) : Ordering :=
  match a, b with
  | .inf s, .inf t => if s = t then .eq else if s then .lt else .gt
  | .inf s, _ => if s then .lt else .gt
  | _, .inf t => if t then .gt else .lt
  | .fin s m e, .fin t n d => compare (sumExact s m e (!t) n d).1 0
  | _, _ => .eq

/-- minimumNumber and maximumNumber (R159): the result is an operand bit for bit. mx selects the maximum. -/
def minmaxF (f : FFmt) (mx : Bool) (x y : Nat) : FRes :=
  let a := unpackF f x
  let b := unpackF f y
  let fl := if a.isSnan || b.isSnan then fNV else 0
  if a.isNan && b.isNan then (f.nanBits, fl)
  else if a.isNan then (low f.width y, fl)
  else if b.isNan then (low f.width x, fl)
  else
    let aLow := match cmpV a b with
      | .lt => true
      | .gt => false
      | .eq => a.neg? || !b.neg?
    (low f.width (if aLow != mx then x else y), fl)

/-- FCMP: 1 less, 2 equal, 4 greater, 8 unordered (R159). -/
def relF (f : FFmt) (x y : Nat) : FRes :=
  let a := unpackF f x
  let b := unpackF f y
  let fl := if a.isSnan || b.isSnan then fNV else 0
  if a.isNan || b.isNan then (8, fl)
  else match cmpV a b with
    | .lt => (1, fl)
    | .eq => (2, fl)
    | .gt => (4, fl)

/-- FCLASS (R159). -/
def classF (f : FFmt) (x : Nat) : Nat :=
  match unpackF f x with
  | .nan s => if s then 2 ^ 8 else 2 ^ 9
  | .inf s => if s then 1 else 2 ^ 7
  | .fin s m _ =>
    if m = 0 then (if s then 2 ^ 3 else 2 ^ 4)
    else if m < 2 ^ f.mb then (if s then 2 ^ 2 else 2 ^ 5)
    else (if s then 2 else 2 ^ 6)

/-- Conversion to a w-bit integer (R75). -/
def toIntF (rm : RMode) (n : Bool) (w : Nat) : FVal → FRes
  | .nan _ => (0, fNV)
  | .inf s => (ofInt w (if s then tMin n w else tMax n w), fNV)
  | .fin s m e =>
    let (p, q) := scaleQ e
    let (r, exact) := roundInt rm s (m * p) q 0
    let i : Int := if s then -(r : Int) else r
    if i < tMin n w ∨ tMax n w < i then (ofInt w (clampInt n w i), fNV)
    else (ofInt w i, if exact then 0 else fNX)

/-- An integer as a value. -/
def intV (i : Int) : FVal := .fin (i < 0) i.natAbs 0

/-! Narrow formats. -/

/-- Fields of a format register (Table 3-4). -/
def nfW (r : BitVec 32) : Nat := r.toNat % 16
def nfS (r : BitVec 32) : Nat := r.toNat / 16 % 2
def nfE (r : BitVec 32) : Nat := r.toNat / 32 % 8
def nfBias (r : BitVec 32) : Int := sgn 8 (r.toNat / 256)
def nfPol (r : BitVec 32) : Nat := r.toNat / 65536 % 4
def nfM (r : BitVec 32) : Nat := nfW r - nfS r - nfE r

/-- R78. -/
def nfValid (r : BitVec 32) : Bool :=
  let w := nfW r
  let s := nfS r
  let e := nfE r
  1 ≤ w && w ≤ 8 && s + e ≤ w && nfPol r != 3 && !(nfPol r == 1 && (e == 0 || nfM r == 0)) &&
    !(nfPol r == 2 && w - s == 0) && r.toNat / 2 ^ 18 == 0

/-- DECODE (R80). It gives a bare NaN; a narrow NaN is quiet (R81) whatever its fraction (DESIGN CHOICE, log entry 82). -/
def nfDecode (r : BitVec 32) (code : Nat) : FVal :=
  let w := nfW r
  let e := if nfE r = 0 then 0 else code / 2 ^ nfM r % 2 ^ nfE r
  let m := code % 2 ^ nfM r
  let s := nfS r == 1 && code.testBit (w - 1)
  let q : Int := 1 - nfBias r - nfM r
  if nfPol r = 1 ∧ e = 2 ^ nfE r - 1 then (if m = 0 then .inf s else .nan false)
  else if nfPol r = 2 ∧ code % 2 ^ (w - nfS r) = 2 ^ (w - nfS r) - 1 then .nan false
  else if e = 0 then .fin s m q
  else .fin s (2 ^ nfM r + m) (q + e - 1)

/-- The greatest finite magnitude of a format as (code, m, e): MAXF (R80). The codes rise with their values. -/
def nfMaxFrom (r : BitVec 32) : Nat → Nat
  | 0 => 0
  | c + 1 => match nfDecode r (c + 1) with
    | .fin false _ _ => c + 1
    | _ => nfMaxFrom r c

/-- The code of MAXF. -/
def nfMaxCode (r : BitVec 32) : Nat := nfMaxFrom r (2 ^ (nfW r - nfS r) - 1)

def nfSign (r : BitVec 32) (neg : Bool) : Nat := if neg && nfS r == 1 then 2 ^ (nfW r - 1) else 0

/-- Conversion of a value into a narrow format (R81, Table 3-5). A code without its sign is (q - 2^(1-BIAS-M)) * 2^M
+ n for the grid point n * 2^q, as in roundQ; ties go to even n (DEDUCED, log entry 15). -/
def nfEncode (r : BitVec 32) : FVal → FRes
  | .nan v =>
    match nfPol r with
    | 0 => (0, fNV)
    | 1 => ((2 ^ nfE r - 1) * 2 ^ nfM r + 2 ^ (nfM r - 1), if v then fNV else 0)
    | _ => (2 ^ (nfW r - nfS r) - 1, if v then fNV else 0)
  | .inf s =>
    if s && nfS r == 0 then (0, fNV)
    else if nfPol r = 1 then (nfSign r s + (2 ^ nfE r - 1) * 2 ^ nfM r, 0)
    else (nfSign r s + nfMaxCode r, fOF + fNX)
  | .fin s m e =>
    if nfS r = 0 ∧ s then (0, if m = 0 then 0 else fNV)
    else if m = 0 then (nfSign r s, 0)
    else
      let (num, den) := scaleQ e
      let x := m * num
      let q0 : Int := 1 - nfBias r - nfM r
      let q := if nfE r = 0 then q0 else max (ilog2Q x den - nfM r) q0
      let (n, exact) := roundInt .rne s x den q
      let code := (q - q0).toNat * 2 ^ nfM r + n
      if nfMaxCode r < code then
        (nfSign r s + (if nfPol r = 1 then (2 ^ nfE r - 1) * 2 ^ nfM r else nfMaxCode r), fOF + fNX)
      else
        let small := nfE r != 0 && code < 2 ^ nfM r
        (nfSign r s + code, if exact then 0 else if small then fUF + fNX else fNX)

/-- LSBEXP of a narrow format (R86). -/
def nfLsb (r : BitVec 32) : Int := 1 - nfBias r - nfM r

/-- UNITS of a finite code (R86), none for an infinity or a NaN. -/
def nfUnits (r : BitVec 32) (code : Nat) : Option Int :=
  match nfDecode r code with
  | .fin s m e =>
    let u : Int := (m * 2 ^ (e - nfLsb r).toNat : Nat)
    some (if s then -u else u)
  | _ => none

end Sys2Proof.Machine
end

