-- ==== Sys2Proof/Machine/Flags.lean ====
section
/-!
DEFINITION. Every flag computation: FPC (R73, R74), FLAGS (R169) and the masks of MTS (R7, R79, R168).
-/

namespace Sys2Proof.Machine

/-- The rounding mode of FPC.RM (Table 3-2). -/
def State.fpcMode (s : State) : RMode := RMode.ofCode (s.ln.fpc.toNat % 4)

/-- The mode of an instruction with a rounding selector (R74, R145). -/
def State.rmode (s : State) : RSel → RMode
  | .fpc => s.fpcMode
  | .rne => .rne
  | .rtz => .rtz
  | .rdn => .rdn
  | .rup => .rup

/-- Sets sticky FPC flags: bits 8 to 12 (Table 3-2). -/
def State.raiseFpc (s : State) (fl : Nat) : State :=
  s.onLn (fun l => { l with fpc := l.fpc ||| BitVec.ofNat 64 (fl % 32 * 256) })

/-- Sets ACCOVF (R88). -/
def Lane.accOvf (l : Lane) : Lane := { l with flags := l.flags ||| 1 }

/-- Adds one to LKCNT, which stops at 0xFFFF (R169). -/
def Lane.countDep (l : Lane) : Lane :=
  if l.flags.toNat / 65536 % 65536 = 65535 then l else { l with flags := l.flags + 0x10000 }

/-- The bits of FPC, FLAGS and NF that MTS writes; the reserved ones are ignored and read as zero (R7, R168). -/
def fpcMask : Word := 0x1F03
def flagsMask : Word := 0xFFFF0001
def nfMask : Word := 7

end Sys2Proof.Machine
end

