-- ==== Sys2Proof/Machine/Foot.lean ====
section
/-!
DEFINITION. What each instruction's fields name: the registers it reads, marks and writes, its address space, array
and TWE use (R104, R140, R148, R151). One table serves REGBOUND, DEADREG, last uses and lookahead windows.
-/

namespace Sys2Proof.Machine

/-- The spaces of Table 2-1 that R151 compares; none for an instruction outside that table's list. -/
inductive Space where
  | none | scratch | window | excl | lattice
  deriving DecidableEq, Repr

/-- ss, vs, ms, cs are the source fields with their last-use bits; r.. are further registers read, w.. registers
written; rx and wx are special registers that a long form reads or writes. -/
structure Foot where
  ss : List SSrc := []
  vs : List VSrc := []
  ms : List MSrc := []
  cs : List CSrc := []
  rs : List Nat := []
  rv : List Nat := []
  rm : List Nat := []
  ws : List Nat := []
  wv : List Nat := []
  wm : List Nat := []
  wc : List Nat := []
  rx : List Nat := []
  wx : List Nat := []
  sp : Space := .none
  stores : Bool := false
  arr : Bool := false
  ch : Option Nat := none
  deriving DecidableEq, Repr

/-- A V-format field that names a scalar register s0 to s31 (R139). -/
def vsc (a : VSrc) : SSrc := ⟨⟨a.r.val, by omega⟩, a.last⟩

/-- The registers that a masked form also reads (R177). -/
def mk (m : Bool) (l : List Nat) : List Nat := if m then l else []

/-- The run of 2^k registers from r on (R194). -/
def runOf (r k : Nat) : List Nat := List.range' r (2 ^ k)

/-- Source and destination registers of VCVT (R186). -/
def cvtSrcs (t st : ETy) (a : Nat) : List Nat :=
  if t.width < st.width then List.range' a (st.width / t.width) else [a]
def cvtDsts (t st : ETy) (d : Nat) : List Nat :=
  if st.width < t.width then List.range' d (t.width / st.width) else [d]

/-- The footprint of an instruction. Registers that only a value fixes are not in it (Lane.footOf adds them). -/
def foot : Instr → Foot
  | .add d a b => { ss := [a, b], ws := [d.val] }
  | .sub d a b => { ss := [a, b], ws := [d.val] }
  | .mul d a b => { ss := [a, b], ws := [d.val] }
  | .mulh d a b => { ss := [a, b], ws := [d.val] }
  | .mulhn d a b => { ss := [a, b], ws := [d.val] }
  | .div d a b => { ss := [a, b], ws := [d.val] }
  | .divn d a b => { ss := [a, b], ws := [d.val] }
  | .rem d a b => { ss := [a, b], ws := [d.val] }
  | .remn d a b => { ss := [a, b], ws := [d.val] }
  | .min d a b => { ss := [a, b], ws := [d.val] }
  | .max d a b => { ss := [a, b], ws := [d.val] }
  | .minn d a b => { ss := [a, b], ws := [d.val] }
  | .maxn d a b => { ss := [a, b], ws := [d.val] }
  | .abs d a => { ss := [a], ws := [d.val] }
  | .and d a b => { ss := [a, b], ws := [d.val] }
  | .or d a b => { ss := [a, b], ws := [d.val] }
  | .xor d a b => { ss := [a, b], ws := [d.val] }
  | .andn d a b => { ss := [a, b], ws := [d.val] }
  | .shl d a b => { ss := [a, b], ws := [d.val] }
  | .shr d a b => { ss := [a, b], ws := [d.val] }
  | .sra d a b => { ss := [a, b], ws := [d.val] }
  | .rol d a b => { ss := [a, b], ws := [d.val] }
  | .slt d a b => { ss := [a, b], ws := [d.val] }
  | .sltn d a b => { ss := [a, b], ws := [d.val] }
  | .seq d a b => { ss := [a, b], ws := [d.val] }
  | .sne d a b => { ss := [a, b], ws := [d.val] }
  | .csel d a b => { ss := [a, b], rs := [d.val], ws := [d.val] }
  | .clz d a => { ss := [a], ws := [d.val] }
  | .ctz d a => { ss := [a], ws := [d.val] }
  | .popc d a => { ss := [a], ws := [d.val] }
  | .brev d a => { ss := [a], ws := [d.val] }
  | .bswap d a => { ss := [a], ws := [d.val] }
  | .exts d a _ => { ss := [a], ws := [d.val] }
  | .extz d a _ => { ss := [a], ws := [d.val] }
  | .fadd d a b => { ss := [a, b], ws := [d.val] }
  | .fsub d a b => { ss := [a, b], ws := [d.val] }
  | .fmul d a b => { ss := [a, b], ws := [d.val] }
  | .fma d a b => { ss := [a, b], rs := [d.val], ws := [d.val] }
  | .fdiv d a b => { ss := [a, b], ws := [d.val] }
  | .fsqrt d a _ => { ss := [a], ws := [d.val] }
  | .fmin d a b => { ss := [a, b], ws := [d.val] }
  | .fmax d a b => { ss := [a, b], ws := [d.val] }
  | .fcmp d a b => { ss := [a, b], ws := [d.val] }
  | .fcvti d a _ => { ss := [a], ws := [d.val] }
  | .icvtf d a _ => { ss := [a], ws := [d.val] }
  | .fclass d a => { ss := [a], ws := [d.val] }
  | .cmov d a => { cs := [a], wc := [d.val] }
  | .cinc d a b => { ss := [b], cs := [a], wc := [d.val] }
  | .cbound d a b => { ss := [b], cs := [a], wc := [d.val] }
  | .crights d a b => { ss := [b], cs := [a], wc := [d.val] }
  | .cget d a _ => { cs := [a], ws := [d.val] }
  | .ctest d a b => { ss := [b], cs := [a], ws := [d.val] }
  | .cinci d a _ => { cs := [a], wc := [d.val] }
  | .mfs d n => { ws := [d.val], rx := [n.val] }
  | .mts n a => { ss := [a], wx := [n.val] }
  | .trap a => { ss := [a] }
  | .tret a => { ss := [a] }
  | .sysrd d a => { ss := [a], ws := [d.val] }
  | .syswr a b => { ss := [a, b] }
  | .addi d a _ => { ss := [a], ws := [d.val] }
  | .andi d a _ => { ss := [a], ws := [d.val] }
  | .ori d a _ => { ss := [a], ws := [d.val] }
  | .xori d a _ => { ss := [a], ws := [d.val] }
  | .shli d a _ => { ss := [a], ws := [d.val] }
  | .shri d a _ => { ss := [a], ws := [d.val] }
  | .srai d a _ => { ss := [a], ws := [d.val] }
  | .slti d a _ => { ss := [a], ws := [d.val] }
  | .movhi d _ => { ws := [d.val] }
  | .addpc d _ => { ws := [d.val] }
  | .beqz a _ => { ss := [a] }
  | .bnez a _ => { ss := [a] }
  | .bltz a _ => { ss := [a] }
  | .bgez a _ => { ss := [a] }
  | .bgtz a _ => { ss := [a] }
  | .blez a _ => { ss := [a] }
  | .j _ => {}
  | .jal _ => { ws := [63] }
  | .jalr d a _ => { ss := [a], ws := [d.val] }
  | .loop a _ => { rs := [a.val], ws := [a.val] }
  | .sig _ => {}
  | .nop => {}
  | .yield => {}
  | .endOp => {}
  | .vadd _ d a b m => { vs := [a, b], rv := mk m [d.val], rm := mk m [0], wv := [d.val] }
  | .vsub _ d a b m => { vs := [a, b], rv := mk m [d.val], rm := mk m [0], wv := [d.val] }
  | .vmul _ d a b m => { vs := [a, b], rv := mk m [d.val], rm := mk m [0], wv := [d.val] }
  | .vmulh _ _ d a b m => { vs := [a, b], rv := mk m [d.val], rm := mk m [0], wv := [d.val] }
  | .vadds _ _ d a b m => { vs := [a, b], rv := mk m [d.val], rm := mk m [0], wv := [d.val] }
  | .vsubs _ _ d a b m => { vs := [a, b], rv := mk m [d.val], rm := mk m [0], wv := [d.val] }
  | .vmin _ _ d a b m => { vs := [a, b], rv := mk m [d.val], rm := mk m [0], wv := [d.val] }
  | .vmax _ _ d a b m => { vs := [a, b], rv := mk m [d.val], rm := mk m [0], wv := [d.val] }
  | .vabs _ d a m => { vs := [a], rv := mk m [d.val], rm := mk m [0], wv := [d.val] }
  | .vneg _ d a m => { vs := [a], rv := mk m [d.val], rm := mk m [0], wv := [d.val] }
  | .vdiv _ _ d a b m => { vs := [a, b], rv := mk m [d.val], rm := mk m [0], wv := [d.val] }
  | .vfma _ d a b m => { vs := [a, b], rv := [d.val], rm := mk m [0], wv := [d.val] }
  | .vfms _ d a b m => { vs := [a, b], rv := [d.val], rm := mk m [0], wv := [d.val] }
  | .vfnma _ d a b m => { vs := [a, b], rv := [d.val], rm := mk m [0], wv := [d.val] }
  | .vand _ d a b m => { vs := [a, b], rv := mk m [d.val], rm := mk m [0], wv := [d.val] }
  | .vor _ d a b m => { vs := [a, b], rv := mk m [d.val], rm := mk m [0], wv := [d.val] }
  | .vxor _ d a b m => { vs := [a, b], rv := mk m [d.val], rm := mk m [0], wv := [d.val] }
  | .vnot _ d a m => { vs := [a], rv := mk m [d.val], rm := mk m [0], wv := [d.val] }
  | .vshl _ d a b m => { vs := [a, b], rv := mk m [d.val], rm := mk m [0], wv := [d.val] }
  | .vshr _ d a b m => { vs := [a, b], rv := mk m [d.val], rm := mk m [0], wv := [d.val] }
  | .vsra _ d a b m => { vs := [a, b], rv := mk m [d.val], rm := mk m [0], wv := [d.val] }
  | .vcmpeq _ _ d a b m => { vs := [a, b], rm := mk m [d.val, 0], wm := [d.val] }
  | .vcmpne _ _ d a b m => { vs := [a, b], rm := mk m [d.val, 0], wm := [d.val] }
  | .vcmplt _ _ d a b m => { vs := [a, b], rm := mk m [d.val, 0], wm := [d.val] }
  | .vcmple _ _ d a b m => { vs := [a, b], rm := mk m [d.val, 0], wm := [d.val] }
  | .vcmpgt _ _ d a b m => { vs := [a, b], rm := mk m [d.val, 0], wm := [d.val] }
  | .vcmpge _ _ d a b m => { vs := [a, b], rm := mk m [d.val, 0], wm := [d.val] }
  | .vsel _ d a b => { vs := [a, b], rm := [0], wv := [d.val] }
  | .mand _ d a b => { ms := [a, b], wm := [d.val] }
  | .mor _ d a b => { ms := [a, b], wm := [d.val] }
  | .mxor _ d a b => { ms := [a, b], wm := [d.val] }
  | .mnot _ d a => { ms := [a], wm := [d.val] }
  | .mpop _ d a => { ms := [a], ws := [d.val] }
  | .mfirst _ d a => { ms := [a], ws := [d.val] }
  | .mset _ d a => { ss := [vsc a], wm := [d.val] }
  | .vmov _ d a m => { vs := [a], rv := mk m [d.val], rm := mk m [0], wv := [d.val] }
  | .vsplat _ d a m => { ss := [vsc a], rv := mk m [d.val], rm := mk m [0], wv := [d.val] }
  | .vext _ _ d a b => { ss := [vsc b], vs := [a], ws := [d.val] }
  | .vins _ d a b m => { ss := [vsc a, vsc b], rv := [d.val], rm := mk m [0], wv := [d.val] }
  | .vidx _ d a m => { ss := [vsc a], rv := mk m [d.val], rm := mk m [0], wv := [d.val] }
  | .vperm _ d a b m => { vs := [a, b], rv := mk m [d.val], rm := mk m [0], wv := [d.val] }
  | .vrot _ d a b m => { ss := [vsc b], vs := [a], rv := mk m [d.val], rm := mk m [0], wv := [d.val] }
  | .vslide _ d a b m => { ss := [vsc b], vs := [a], rv := mk m [d.val], rm := mk m [0], wv := [d.val] }
  | .vzip _ d a b m => { vs := [a, b], rv := mk m [d.val, d.val + 1], rm := mk m [0], wv := [d.val, d.val + 1] }
  | .vunzip _ d a m => { vs := [a], rv := mk m [d.val, d.val + 1] ++ [a.r.val + 1], rm := mk m [0], wv := [d.val, d.val + 1] }
  | .vgetr _ d _ b m => { ss := [vsc b], rv := mk m [d.val], rm := mk m [0], wv := [d.val] }
  | .vputr _ _ a b m => { ss := [vsc b], vs := [a], rm := mk m [0] }
  | .vcvt t _ d a st _ m => { vs := [a], rv := cvtSrcs t st a.r.val ++ mk m (cvtDsts t st d.val), wv := cvtDsts t st d.val, rm := mk m [0] }
  | .vwadd _ _ d a b m => { vs := [a, b], rv := mk m [d.val, d.val + 1], rm := mk m [0], wv := [d.val, d.val + 1] }
  | .vwmul _ _ d a b m => { vs := [a, b], rv := mk m [d.val, d.val + 1], rm := mk m [0], wv := [d.val, d.val + 1] }
  | .vnarrow _ _ d a _ m => { vs := [a], rv := mk m [d.val] ++ [a.r.val + 1], rm := mk m [0], wv := [d.val] }
  | .vfmt k a => { ss := [vsc a], wx := [16 + k.val] }
  | .vred _ _ d a _ m => { vs := [a], rm := mk m [0], wv := [d.val] }
  | .vdot _ _ d a b m => { vs := [a, b], rm := mk m [0], wv := [d.val] }
  | .vscan _ _ d a _ m => { vs := [a], rm := mk m [0], wv := [d.val] }
  | .vsort _ _ d logk _ => { rv := runOf d.val logk.val, wv := runOf d.val logk.val }
  | .vsortkv _ _ d a logk _ => { rv := runOf d.val logk.val ++ runOf a.r.val logk.val, wv := runOf d.val logk.val ++ runOf a.r.val logk.val }
  | .vmerge _ _ d a b => { vs := [a, b], wv := [d.val, d.val + 1] }
  | .vtopk _ _ d a b => { ss := [vsc b], vs := [a], wv := [d.val, d.val + 1] }
  | .vrcp d a m => { vs := [a], rv := mk m [d.val], rm := mk m [0], wv := [d.val] }
  | .vrsq d a m => { vs := [a], rv := mk m [d.val], rm := mk m [0], wv := [d.val] }
  | .vsqrt d a _ m => { vs := [a], rv := mk m [d.val], rm := mk m [0], wv := [d.val] }
  | .vexp2 d a m => { vs := [a], rv := mk m [d.val], rm := mk m [0], wv := [d.val] }
  | .vlog2 d a m => { vs := [a], rv := mk m [d.val], rm := mk m [0], wv := [d.val] }
  | .vtanh d a m => { vs := [a], rv := mk m [d.val], rm := mk m [0], wv := [d.val] }
  | .vrand _ d a b m => { ss := [vsc a, vsc b], rv := mk m [d.val], rm := mk m [0], wv := [d.val] }
  | .vpackt _ d a => { vs := [a], wv := [d.val] }
  | .vunpkt _ d a => { vs := [a], wv := [d.val] }
  | .vtchk d a => { vs := [a], ws := [d.val] }
  | .lds _ d a _ => { ss := [a], ws := [d.val], sp := .scratch }
  | .sts _ d a _ => { ss := [d], rs := [a.val], sp := .scratch, stores := true }
  | .vlds d a _ => { ss := [a], wv := [d.val], sp := .scratch }
  | .vsts d a _ => { vs := [d], rs := [a.val], sp := .scratch, stores := true }
  | .vldss d a b => { ss := [a, b], wv := [d.val], sp := .scratch }
  | .vstss d a b => { ss := [a, b], rv := [d.val], sp := .scratch, stores := true }
  | .vgats d a b => { ss := [a], vs := [b], wv := [d.val], sp := .scratch }
  | .vscts d a b => { ss := [a], vs := [b], rv := [d.val], sp := .scratch, stores := true }
  | .vldb d a b => { ss := [a, b], wv := [d.val], sp := .scratch }
  | .vstb d a b => { ss := [a, b], rv := [d.val], sp := .scratch, stores := true }
  | .stn _ d a _ => { ss := [d], rs := [a.val], sp := .window, stores := true }
  | .vstn _ d a _ => { vs := [d], rs := [a.val], sp := .window, stores := true }
  | .ldf d a _ => { ss := [a], ws := [d.val], sp := .scratch }
  | .vldf d a _ => { ss := [a], wv := [d.val], sp := .scratch }
  | .fclr d a _ => { ss := [d], rs := [a.val], sp := .scratch, stores := true }
  | .fset d a _ => { ss := [d], rs := [a.val], sp := .scratch, stores := true }
  | .waita d a _ => { ss := [a], rs := [d.val], sp := .scratch }
  | .binit a b => { ss := [a, b] }
  | .barr a => { ss := [a] }
  | .bwait a b => { ss := [a, b] }
  | .bstat d a => { ss := [a], ws := [d.val] }
  | .ldx _ _ _ d g => { ss := [g.a], cs := [g.c], ws := [d.val], sp := .excl }
  | .stx _ _ _ g b => { ss := [g.a, b], cs := [g.c], sp := .excl, stores := true }
  | .vldx _ _ d g => { ss := [g.a], cs := [g.c], wv := [d.val], sp := .excl }
  | .vstx _ _ g b => { ss := [g.a], vs := [b], cs := [g.c], sp := .excl, stores := true }
  | .ldc _ _ d g => { ss := [g.a], cs := [g.c], wc := [d.val], sp := .excl }
  | .stc _ _ g b => { ss := [g.a], cs := [g.c, b], sp := .excl, stores := true }
  | .join _ _ _ _ g b => { ss := [g.a, b], cs := [g.c], sp := .lattice, stores := true }
  | .vjoin _ _ _ _ g b => { ss := [g.a], vs := [b], cs := [g.c], sp := .lattice, stores := true }
  | .vjoinx _ _ _ _ g b _ => { ss := [g.a], vs := [b], cs := [g.c], sp := .lattice, stores := true }
  | .thr _ t _ _ d g b => { ss := [g.a, b], cs := [g.c], rs := List.range' b.r.val (thrCount t g.imm), ws := [d.val], sp := .lattice }
  | .thrf _ _ _ _ d g b => { ss := [g.a, b], cs := [g.c], wv := [d.val], sp := .lattice }
  | .xrd _ _ _ _ d g => { ss := [g.a], cs := [g.c], ws := [d.val], sp := .lattice }
  | .vxrd _ _ _ _ d g _ => { ss := [g.a], cs := [g.c], wv := [d.val], sp := .lattice }
  | .cap _ _ _ _ _ g b => { ss := [g.a, b], cs := [g.c], sp := .lattice, stores := true }
  | .fence _ _ => {}
  | .ofork _ d c b => { ss := [b], cs := [c], wc := [d.val], sp := .lattice }
  | .twgo _ ch g => { ss := [g.a], cs := [g.c], ch := some ch.val }
  | .twperm _ ch b => { ss := [b], ch := some ch.val }
  | .twstat _ d ch _ => { ws := [d.val], ch := some ch.val }
  | .twwait _ ch b => { ss := [b], ch := some ch.val }
  | .spawn _ d a b c _ _ _ => { ss := [a, b], cs := [c], ws := [d.val] }
  | .spawnat _ d a b c _ _ _ => { ss := [a, b], cs := [c], rs := [a.r.val + 1], ws := [d.val] }
  | .tgnew _ d g _ => { ss := [g.a], cs := [g.c], ws := [d.val] }
  | .tgclose _ a c => { ss := [a], cs := [c] }
  | .cancel _ a => { ss := [a] }
  | .setdl _ a b => { ss := [a, b] }
  | .setbg _ a b => { ss := [a, b] }
  | .msg _ a b _ => { ss := [a, b], rs := [b.r.val + 1, b.r.val + 2, b.r.val + 3] }
  | .hreg _ a b c _ => { ss := [a, b], cs := [c], rs := [a.r.val + 1] }
  | .hdrop _ _ => {}
  | .tlease _ => {}
  | .trel _ => {}
  | .tfmt _ kind k => { rx := if kind.val = 0 then [16 + k.val] else [], arr := true }
  | .tldw _ g _ => { ss := [g.a], cs := [g.c], arr := true }
  | .tmma _ d a b _ _ => { ss := [a, b], rs := [d.val], wx := [12], arr := true }
  | .tdrain _ _ _ d a b _ vecScale _ => { ss := [a, b], rs := d.val :: if vecScale then [b.r.val + 1] else [], arr := true }
  | .tzero _ d b => { ss := [b], rs := [d.val], arr := true }
  | .tstat _ d _ => { ws := [d.val] }
  | .dispatch .. | .registersLoaded .. | .frameLoadFault .. | .localQueueFill .. | .budgetExhausted ..
  | .blockVerify .. | .commitDrain .. | .commitSave .. | .recordWrite .. | .abandonTimeout ..
  | .preemptionMessage .. | .coreResume .. | .urgencyPreempt .. | .cancelMark .. | .cancelRequest ..
  | .cancelFinish .. | .reclaim .. | .wake .. | .fenceRelease .. | .groupComplete .. | .taskIdFree ..
  | .spawnAccept .. | .messageDeliver .. | .wheelTick .. | .watchRegister .. | .watchRetry .. | .joinApply ..
  | .tagExpiry .. | .exclStoreApply .. | .capApply .. | .readRequest .. | .readResponse .. | .readTimeout ..
  | .joinAck .. | .joinResend .. | .linklost .. | .splitResponse .. | .flitReceive .. | .linkReplay ..
  | .controlResend .. | .portLaneFailure .. | .packageUnreachable .. | .pageFaultService ..
  | .skepFaultResume .. | .faultServiceTimeout .. | .sideLogReplay .. | .windowStoreApply ..
  | .barrierArrival .. | .tweStart .. | .twePermit .. | .tweRecordRead .. | .twePoll .. | .tweTransferDone ..
  | .twePayloadWrite .. | .leaseGrant .. | .slotEnd .. | .slottabApply | .tldwLoadEnd .. | .arrayCommandEnd ..
  | .timeSliceSwitch .. | .holdSet .. | .holdSetRedispatch .. | .heartbeat .. | .heartbeatReceive ..
  | .heartbeatSilence .. | .accusation .. | .accusationExpiry .. | .fenceNotice .. | .selftestDone ..
  | .appealVote .. | .appealTimeout .. | .appealHoldExpiry .. | .fenceRemap .. | .faultCounterLeak ..
  | .correctedError .. | .uncorrectableError .. | .scrub .. | .ttFire .. | .launchStart | .completionPost
  | .launch .. | .hostCancel | .setclass | .release | .kill | .ttwrite .. | .preempt | .sqtail .. | .cqhead ..
  | .ringConfigWrite .. | .mbox .. | .imgload .. | .imageLoaded .. | .flogcons .. | .flogmir .. | .fnmode ..
  | .slottab .. | .rsvlo .. | .rsvhi .. | .grpcls .. | .tttab .. | .attctl .. | .attestDone .. | .pwrcap ..
  | .registerWrite .. | .ptpSync .. | .ptpHoldover .. | .clockThrottle .. | .thermalShutdown .. | .reset ..
  | .bootStepDone .. | .functionLevelReset .. | .hotReset .. | .unassignedEncoding | .fetchFault
  | .mboxRequestDone .. | .portTrainingDone .. => {}

/-- All scalar, vector, mask and capability registers read. -/
def Foot.readS (f : Foot) : List Nat := f.ss.map (fun a => a.r.val) ++ f.rs
def Foot.readV (f : Foot) : List Nat := f.vs.map (fun a => a.r.val) ++ f.rv
def Foot.readM (f : Foot) : List Nat := f.ms.map (fun a => a.r.val) ++ f.rm
def Foot.readC (f : Foot) : List Nat := f.cs.map (fun a => a.r.val)

/-- The instructions of R97 that a SIG must follow. -/
def suspends : Instr → Bool
  | .thr .. | .thrf .. | .yield | .endOp | .bwait .. | .twwait .. | .fence .. => true
  | _ => false

/-- The instructions before which a window ends early (R150). -/
def endsWindow : Instr → Bool
  | .sig _ | .beqz .. | .bnez .. | .bltz .. | .bgez .. | .bgtz .. | .blez .. | .j _ | .jal _ | .jalr .. | .loop ..
  | .trap _ | .tret _ => true
  | i => suspends i

/-- The lookahead field LK of a long form (R150), 0 for a one-word instruction. -/
def lookahead : Instr → Nat
  | .ldx lk .. => lk.val
  | .stx lk .. => lk.val
  | .vldx lk .. => lk.val
  | .vstx lk .. => lk.val
  | .ldc lk .. => lk.val
  | .stc lk .. => lk.val
  | .join lk .. => lk.val
  | .vjoin lk .. => lk.val
  | .vjoinx lk .. => lk.val
  | .thr lk .. => lk.val
  | .thrf lk .. => lk.val
  | .xrd lk .. => lk.val
  | .vxrd lk .. => lk.val
  | .cap lk .. => lk.val
  | .fence lk .. => lk.val
  | .ofork lk .. => lk.val
  | .twgo lk .. => lk.val
  | .twperm lk .. => lk.val
  | .twstat lk .. => lk.val
  | .twwait lk .. => lk.val
  | .spawn lk .. => lk.val
  | .spawnat lk .. => lk.val
  | .tgnew lk .. => lk.val
  | .tgclose lk .. => lk.val
  | .cancel lk .. => lk.val
  | .setdl lk .. => lk.val
  | .setbg lk .. => lk.val
  | .msg lk .. => lk.val
  | .hreg lk .. => lk.val
  | .hdrop lk .. => lk.val
  | .tlease lk => lk.val
  | .trel lk => lk.val
  | .tfmt lk .. => lk.val
  | .tldw lk .. => lk.val
  | .tmma lk .. => lk.val
  | .tdrain lk .. => lk.val
  | .tzero lk .. => lk.val
  | .tstat lk .. => lk.val
  | _ => 0

/-- Is the instruction two words long (R136)? -/
def isLong : Instr → Bool
  | .ldx .. | .stx .. | .vldx .. | .vstx .. | .ldc .. | .stc .. | .join .. | .vjoin ..
  | .vjoinx .. | .thr .. | .thrf .. | .xrd .. | .vxrd .. | .cap .. | .fence .. | .ofork ..
  | .twgo .. | .twperm .. | .twstat .. | .twwait .. | .spawn .. | .spawnat .. | .tgnew .. | .tgclose ..
  | .cancel .. | .setdl .. | .setbg .. | .msg .. | .hreg .. | .hdrop .. | .tlease .. | .trel ..
  | .tfmt .. | .tldw .. | .tmma .. | .tdrain .. | .tzero .. | .tstat .. => true
  | _ => false

/-- An instruction with footprint b in the window of a long form with footprint a depends on it (R151). s0 and c0 are
never written, so they make no dependence (DEDUCED, log entry 25). R190 also calls dependent the reader of a format
register that the long form reads (DEDUCED, log entry 64). -/
def dependent (a b : Foot) : Bool :=
  let nz (x : Nat) : Bool := x != 0
  let hits (p q : List Nat) : Bool := p.any (fun x => q.contains x)
  hits (a.ws.filter nz) b.readS || hits a.wv b.readV || hits a.wm b.readM || hits (a.wc.filter nz) b.readC ||
  hits a.wx b.rx || hits (a.rx.filter (fun x => decide (16 ≤ x ∧ x ≤ 23))) b.rx ||
  hits (b.ws.filter nz) (a.ws ++ a.readS) || hits b.wv (a.wv ++ a.readV) || hits b.wm (a.wm ++ a.readM) ||
  hits (b.wc.filter nz) (a.wc ++ a.readC) || hits b.wx (a.wx ++ a.rx) ||
  (a.sp != .none && a.sp == b.sp && (a.stores || b.stores)) ||
  (a.arr && b.arr) ||
  (a.ch.isSome && a.ch == b.ch)

end Sys2Proof.Machine
end

