-- ==== Sys2Proof/Machine/Crypto.lean ====
section
/-!
DEFINITION. ChaCha20 blocks of RFC 8439 (R196), and SHA-256 for the manifest's CODEHASH (R337).
-/

namespace Sys2Proof.Machine

abbrev W32 := BitVec 32

/-- One quarter round on four words. -/
def quarter (a b c d : W32) : W32 × W32 × W32 × W32 :=
  let a := a + b
  let d := (d ^^^ a).rotateLeft 16
  let c := c + d
  let b := (b ^^^ c).rotateLeft 12
  let a := a + b
  let d := (d ^^^ a).rotateLeft 8
  let c := c + d
  let b := (b ^^^ c).rotateLeft 7
  (a, b, c, d)

/-- A quarter round on four places of the sixteen words. -/
def quarterAt (s : List W32) (i j k l : Nat) : List W32 :=
  let (a, b, c, d) := quarter (lgetW s i) (lgetW s j) (lgetW s k) (lgetW s l)
  lsetW (lsetW (lsetW (lsetW s i a) j b) k c) l d
where
  lgetW (s : List W32) (i : Nat) : W32 := (s[i]?).getD 0
  lsetW (s : List W32) (i : Nat) (x : W32) : List W32 := s.set i x

/-- n double rounds. -/
def doubleRounds : Nat → List W32 → List W32
  | 0, s => s
  | n + 1, s =>
    let s := quarterAt (quarterAt (quarterAt (quarterAt s 0 4 8 12) 1 5 9 13) 2 6 10 14) 3 7 11 15
    let s := quarterAt (quarterAt (quarterAt (quarterAt s 0 5 10 15) 1 6 11 12) 2 7 8 13) 3 4 9 14
    doubleRounds n s

/-- The state words after the final addition: key of 8 words, counter, nonce of 3 words. -/
def chachaBlock (key : List W32) (counter : W32) (nonce : List W32) : List W32 :=
  let s := [0x61707865, 0x3320646e, 0x79622d32, 0x6b206574] ++ key ++ [counter] ++ nonce
  List.zipWith (· + ·) (doubleRounds 10 s) s

/-- Word c of tensor T under the launch seeds (R196). -/
def randBlock (seed : List (BitVec 64)) (t c : Nat) : List W32 :=
  let key := seed.flatMap (fun q => [q.extractLsb' 0 32, q.extractLsb' 32 32])
  chachaBlock key (BitVec.ofNat 32 (c / 16)) [BitVec.ofNat 32 (c / 2 ^ 36), BitVec.ofNat 32 t, BitVec.ofNat 32 (t / 2 ^ 32)]

/-- The n words from c0 on, one block for each sixteen. -/
def randWords (seed : List (BitVec 64)) (t c0 : Nat) : List Nat :=
  let blocks := (List.range 9).map (fun b => randBlock seed t ((c0 / 16 + b) * 16 % 2 ^ 64))
  let all := blocks.flatMap (fun b => b.map BitVec.toNat)
  (all.drop (c0 % 16)).take 128

def shaK : List W32 :=
  [0x428a2f98, 0x71374491, 0xb5c0fbcf, 0xe9b5dba5, 0x3956c25b, 0x59f111f1, 0x923f82a4, 0xab1c5ed5] ++
  [0xd807aa98, 0x12835b01, 0x243185be, 0x550c7dc3, 0x72be5d74, 0x80deb1fe, 0x9bdc06a7, 0xc19bf174] ++
  [0xe49b69c1, 0xefbe4786, 0x0fc19dc6, 0x240ca1cc, 0x2de92c6f, 0x4a7484aa, 0x5cb0a9dc, 0x76f988da] ++
  [0x983e5152, 0xa831c66d, 0xb00327c8, 0xbf597fc7, 0xc6e00bf3, 0xd5a79147, 0x06ca6351, 0x14292967] ++
  [0x27b70a85, 0x2e1b2138, 0x4d2c6dfc, 0x53380d13, 0x650a7354, 0x766a0abb, 0x81c2c92e, 0x92722c85] ++
  [0xa2bfe8a1, 0xa81a664b, 0xc24b8b70, 0xc76c51a3, 0xd192e819, 0xd6990624, 0xf40e3585, 0x106aa070] ++
  [0x19a4c116, 0x1e376c08, 0x2748774c, 0x34b0bcb5, 0x391c0cb3, 0x4ed8aa4a, 0x5b9cca4f, 0x682e6ff3] ++
  [0x748f82ee, 0x78a5636f, 0x84c87814, 0x8cc70208, 0x90befffa, 0xa4506ceb, 0xbef9a3f7, 0xc67178f2]

def shaInit : List W32 :=
  [0x6a09e667, 0xbb67ae85, 0x3c6ef372, 0xa54ff53a, 0x510e527f, 0x9b05688c, 0x1f83d9ab, 0x5be0cd19]

/-- Big-endian words of a byte list. -/
def beWords : Nat → List Byte → List W32
  | 0, _ => []
  | n + 1, l =>
    BitVec.ofNat 32 ((l.take 4).foldl (fun a b => a * 256 + b.toNat) 0) :: beWords n (l.drop 4)

/-- The message schedule: the last sixteen words, newest first, extended n times; the result in order. -/
def shaSchedule : Nat → List W32 → List W32 → List W32
  | 0, _, out => out.reverse
  | n + 1, last, out =>
    let g (i : Nat) : W32 := (last[i]?).getD 0
    let s0 := (g 14).rotateRight 7 ^^^ (g 14).rotateRight 18 ^^^ (g 14 >>> 3)
    let s1 := (g 1).rotateRight 17 ^^^ (g 1).rotateRight 19 ^^^ (g 1 >>> 10)
    let w := g 15 + s0 + g 6 + s1
    shaSchedule n ((w :: last).take 16) (w :: out)

/-- One round on the eight working words. -/
def shaRound (h : List W32) (kw : W32) : List W32 :=
  match h with
  | [a, b, c, d, e, f, g, hh] =>
    let s1 := e.rotateRight 6 ^^^ e.rotateRight 11 ^^^ e.rotateRight 25
    let ch := (e &&& f) ^^^ (~~~e &&& g)
    let t1 := hh + s1 + ch + kw
    let s0 := a.rotateRight 2 ^^^ a.rotateRight 13 ^^^ a.rotateRight 22
    let mj := (a &&& b) ^^^ (a &&& c) ^^^ (b &&& c)
    [t1 + s0 + mj, a, b, c, d + t1, e, f, g]
  | _ => h

/-- One block of 64 bytes. -/
def shaBlock (h : List W32) (blk : List Byte) : List W32 :=
  let w16 := beWords 16 blk
  let w := shaSchedule 48 w16.reverse w16.reverse
  List.zipWith (· + ·) h ((List.zipWith (· + ·) shaK w).foldl shaRound h)

/-- All blocks of a padded message. -/
def shaBlocks : Nat → List W32 → List Byte → List W32
  | 0, h, _ => h
  | n + 1, h, l => shaBlocks n (shaBlock h (l.take 64)) (l.drop 64)

/-- SHA-256 as 32 bytes. -/
def sha256 (msg : List Byte) : List Byte :=
  let n := msg.length
  let pad := (119 - n % 64) % 64
  let len := (List.range 8).map (fun i => BitVec.ofNat 8 (n * 8 / 256 ^ (7 - i)))
  let full := msg ++ [128] ++ List.replicate pad 0 ++ len
  (shaBlocks (full.length / 64) shaInit full).flatMap
    (fun w => (List.range 4).map (fun i => BitVec.ofNat 8 (w.toNat / 256 ^ (3 - i))))

/-! Cyclic redundancy checks, most significant bit first. -/

/-- One bit of a CRC of width w. -/
def crcBit (w poly c : Nat) : Nat := if c / 2 ^ (w - 1) % 2 = 1 then 2 * c % 2 ^ w ^^^ poly else 2 * c % 2 ^ w

/-- One byte. -/
def crcByte (w poly c : Nat) (b : Byte) : Nat :=
  (List.range 8).foldl (fun c _ => crcBit w poly c) (c ^^^ b.toNat * 2 ^ (w - 8))

/-- The CRC of bytes with a starting value. -/
def crcOf (w poly init : Nat) (l : List Byte) : Nat := l.foldl (crcByte w poly) init

/-- CRC-64 of a flit, with the ECMA-182 polynomial (Table 19-1) (DESIGN CHOICE, log entry 48). -/
def crc64 (l : List Byte) : Nat := crcOf 64 0x42F0E1EBA9EA3693 0 l

/-- CRC-16/CCITT of a heartbeat's digest (R332) (DESIGN CHOICE, log entry 51). -/
def crc16 (l : List Byte) : Nat := crcOf 16 0x1021 0xFFFF l

end Sys2Proof.Machine
end

