-- ==== Sys2Proof/Machine/Translate.lean ====
section
/-!
DEFINITION. From a virtual address to its home and its byte in an HBM channel: ownership table, object, alias chain,
page walk, leaf (R282 to R290), frames and their free lists (R293), and the mapping of a page.
-/

namespace Sys2Proof.Machine

/-- The ownership entry that covers a 4 KiB block (R282). -/
def ownAt : List Own → Nat → Option Own
  | [], _ => none
  | o :: t, b => if o.start ≤ b ∧ b < o.start + o.len then some o else ownAt t b

/-- A home: package, physical die, join unit, local offset (R283). -/
structure HomeAt where
  pkg : Nat
  die : Nat
  unit : Nat
  lo : Nat
  own : Own
  deriving DecidableEq, Repr

/-- Home of a virtual address (R283). -/
def State.homeOf (s : State) (va : Nat) : Option HomeAt :=
  match ownAt s.k.owns (va / 4096) with
  | none => none
  | some e =>
    let b := va / 4096 - e.start
    let n := s.ndies
    let p := max s.npkg 1
    match e.mode with
    | .sector pkg die sec => some ⟨pkg, die, 16 * sec + b % 16, b * 4096 + va % 4096, e⟩
    | .package pkg =>
      some ⟨pkg, s.k.d0 + b / 64 % n, b % 64, (b / (64 * n) * 64 + b % 64) * 4096 + va % 4096, e⟩
    | .spread =>
      some ⟨lget s.pkgmap (b / (64 * n) % p) 0, s.k.d0 + b / 64 % n, b % 64,
        (b / (64 * n * p) * 64 + b % 64) * 4096 + va % 4096, e⟩

/-- Local offset of an object's base on every home die (R284). -/
def State.loBase (s : State) (base : Nat) : Nat :=
  match ownAt s.k.owns (base / 4096) with
  | none => 0
  | some e =>
    let b := base / 4096 - e.start
    match e.mode with
    | .sector .. => b * 4096
    | .package _ => b / (64 * s.ndies) * 64 * 4096
    | .spread => b / (64 * s.ndies * max s.npkg 1) * 64 * 4096

/-- log2 of the page size (Table 16-3). -/
def pageShift (ps : Nat) : Nat := if ps = 0 then 16 else if ps = 1 then 21 else 30

/-- The object that covers an address, retired ones included (R285, R290). -/
def objAt : Tab Obj → Nat → Option (Nat × Obj)
  | [], _ => none
  | (o, x) :: t, va => if x.base ≤ va ∧ va < x.base + x.len * 4096 then some (o, x) else objAt t va

/-- Follows the alias chain of an address: the object and the address whose page table translates it (R290). -/
def aliasWalk (objs : Tab Obj) : Nat → Nat → Obj → Nat → Nat × Obj × Nat
  | 0, o, x, va => (o, x, va)
  | n + 1, o, x, va =>
    if x.src != 0 && va < x.base + x.pfx * 4096 then
      match tget? objs x.src with
      | some y => aliasWalk objs n x.src y (y.base + (va - x.base))
      | none => (o, x, va)
    else (o, x, va)

/-- What a translation at the home gives. -/
inductive Tr where
  /-- A byte of memory, K, MT (R287). -/
  | at (a : Nat) (kres : Bool) (mt : Nat)
  /-- The page is not mapped. -/
  | missing (m : Missed)
  /-- No object, or no range. -/
  | absent
  deriving DecidableEq, Repr

/-- An 8-byte table entry. -/
def State.tableEntry (s : State) (pkg table i : Nat) : Nat :=
  ofBytes (s.mem.readN (physAddr pkg (table + 8 * i)) 8)

/-- The directory walk: the address of the leaf table, or what stops it (R286). n is the number of levels left. -/
def State.walkDirs (s : State) (pkg pg : Nat) : Nat → Nat → Except Bool Nat
  | 0, t => .ok t
  | n + 1, t =>
    let d := s.tableEntry pkg t (pg / 2 ^ (9 * (n + 1)) % 512)
    if d % 2 = 0 then .error false
    else if d / 2 ^ 40 != 0 || d / 2 % 2048 != 0 then .error true
    else s.walkDirs pkg pg n (d / 4096 * 4096)

/-- The allowed memory types (Table 16-5). -/
def mtOk (t : LTy) (mt : Nat) : Bool :=
  match t with
  | .excl => true
  | .mmio => 2 ≤ mt
  | _ => mt == 0

/-- Is a present leaf a table error (R287)? -/
def leafBad (x : Obj) (h : HomeAt) (leaf : Nat) : Bool :=
  let fr := leaf / 65536 % 2 ^ 24
  let sec := match h.own.mode with
    | .sector _ _ s => s
    | _ => h.lo / 65536 % 4
  leaf / 2 ^ 40 != 0 || leaf / 512 % 128 != 0 || leaf / 16 % 16 != ltyNum x.ty || !mtOk x.ty (leaf / 4 % 4) ||
    fr / 2 ^ 21 != h.die || 96000000000 ≤ fr % 2 ^ 21 * 65536 || (x.ps == 0 && fr % 4 != sec)

/-- The root entry of an object on a die. -/
def rootOf : List Root → Nat → Nat → Nat → Option Root
  | [], _, _, _ => none
  | r :: t, o, p, d => if r.oid = o ∧ r.pkg = p ∧ r.die = d then some r else rootOf t o p d

/-- Translates a virtual address at its home (R283 to R290). -/
def State.translate (s : State) (va : Nat) : Tr :=
  match objAt s.k.objs va with
  | none => .absent
  | some (o0, x0) =>
    let (o, x, v) := aliasWalk s.k.objs (s.k.objs.length + 1) o0 x0 va
    match s.homeOf v with
    | none => .absent
    | some h =>
      let sh := pageShift x.ps
      let pg := (h.lo - s.loBase x.base) / 2 ^ sh
      let miss (c : FaultCause) : Tr := .missing ⟨o, h.pkg, h.die, pg, h.lo, c⟩
      match rootOf s.k.roots o h.pkg h.die with
      | none => miss .missing
      | some r =>
        match s.walkDirs h.pkg pg (r.lv - 1) r.top with
        | .error false => miss .missing
        | .error true => miss .table
        | .ok t =>
          let leaf := s.tableEntry h.pkg t (pg % 512)
          if leaf % 2 = 0 then miss (if leaf / 256 % 2 = 1 then .nz else .missing)
          else if leafBad x h leaf then miss .table
          else .at (physAddr h.pkg (leaf / 65536 % 2 ^ 24 * 65536 + h.lo % 2 ^ sh)) (leaf / 2 % 2 == 1) (leaf / 4 % 4)

/-- The memory byte of a virtual address, when its page is mapped. -/
def State.phys? (s : State) (va : Nat) : Option Nat :=
  match s.translate va with
  | .at a _ _ => some a
  | _ => none

/-- Reads n bytes from a virtual address; an unmapped byte reads as zero here, since callers ask only for mapped
pages. -/
def State.readV (s : State) (va : Nat) : Nat → List Byte
  | 0 => []
  | n + 1 => (match s.phys? va with
    | some a => s.mem.read a
    | none => 0) :: s.readV (va + 1) n

/-- Is the block of an address capped (R48)? -/
def State.cappedAt (s : State) (va : Nat) : Bool :=
  match s.phys? va with
  | some a => s.mem.capped.contains (a / 4096)
  | none => false

/-- Are all blocks from block b on, n of them, capped? -/
def State.allCapped (s : State) (b : Nat) : Nat → Bool
  | 0 => true
  | n + 1 => s.cappedAt (b * 4096) && s.allCapped (b + 1) n

/-- Does every byte of a range lie in a capped block? -/
def State.rangeCapped (s : State) (va len : Nat) : Bool :=
  s.allCapped (va / 4096) ((va + len + 4095) / 4096 - va / 4096)

/-- State of a fill line (R42). -/
inductive FillSt where
  | empty | full | top
  deriving DecidableEq, Repr

def Memory.lineAt (m : Memory) (a : Nat) : FillSt :=
  match tget? m.lines (a / 64) with
  | some .full => .full
  | some .top => .top
  | none => .empty

/-! Frames. -/

/-- Free lists of a die: 64 KiB frames by sector, 2 MiB frames, 1 GiB frames, 4 KiB tables (R293; DESIGN CHOICE, log entry 21). -/
def frameKey (die ps sec : Nat) : Nat := die * 16 + (if ps = 0 then sec else 3 + ps)

/-- Address of frame i of a list, below 2^37 * (die + 1); none when the list is empty. -/
def frameAddr (die ps sec i : Nat) : Option Nat :=
  let d := die * 2 ^ 37
  match ps with
  | 0 => if i < 114688 then some (d + 2 ^ 32 + (4 * i + sec) * 65536) else none
  | 1 => if i < 16384 then some (d + 2 ^ 35 + i * 2 ^ 21) else none
  | 2 => if i < 25 then some (d + 2 ^ 36 + i * 2 ^ 30) else none
  | _ => if i < 524288 then some (d + 2 ^ 31 + i * 4096) else none

/-- The first entry of a list of returned frames with a key, and the rest. -/
def takeFreed : List (Nat × Nat) → Nat → Option (Nat × List (Nat × Nat))
  | [], _ => none
  | (k, a) :: t, key =>
    if k = key then some (a, t)
    else (takeFreed t key).map (fun r => (r.1, (k, a) :: r.2))

/-- Takes a frame from a free list. -/
def State.takeFrame (s : State) (pkg die ps sec : Nat) : Option (Nat × State) :=
  let p := s.pkg pkg
  let key := frameKey die ps sec
  match takeFreed p.freed key with
  | some (a, rest) => some (a, s.onPkg pkg (fun p => { p with freed := rest }))
  | none =>
    let i := tget p.used key 0
    (frameAddr die ps sec i).map (fun a => (a, s.onPkg pkg (fun p => { p with used := tset p.used key (i + 1) })))

/-- A zeroed table frame. -/
def State.takeTable (s : State) (pkg die : Nat) : Option (Nat × State) :=
  (s.takeFrame pkg die 3 0).map (fun (a, s) => (a, { s with mem := s.mem.fill (physAddr pkg a) 4096 .zeros }))

/-- Notes a frame that an object takes on a die. -/
def State.noteFrame (s : State) (o pkg die key a : Nat) : State :=
  s.onK (fun k => { k with roots := k.roots.map (fun r =>
    if r.oid = o ∧ r.pkg = pkg ∧ r.die = die then { r with frames := (key, a) :: r.frames } else r) })

/-- Writes the directories down to the leaf table and the leaf itself. A directory entry with reserved bits set, which only
the Skep is asked to mend, keeps its table address (R294). -/
def State.writeLeaf (s : State) (o pkg die pg leaf : Nat) : Nat → Nat → Option State
  | 0, t => some { s with mem := s.mem.writeL (physAddr pkg (t + 8 * (pg % 512))) (toBytes leaf 8) }
  | n + 1, t =>
    let i := pg / 2 ^ (9 * (n + 1)) % 512
    let d := s.tableEntry pkg t i
    if d % 2 = 1 then
      let a := d / 4096 * 4096 % 2 ^ 40
      { s with mem := s.mem.writeL (physAddr pkg (t + 8 * i)) (toBytes (a + 1) 8) }.writeLeaf o pkg die pg leaf n a
    else match s.takeTable pkg die with
      | none => none
      | some (a, s) =>
        let s := s.noteFrame o pkg die (frameKey die 3 0) a
        { s with mem := s.mem.writeL (physAddr pkg (t + 8 * i)) (toBytes (a + 1) 8) }.writeLeaf o pkg die pg leaf n a

/-- Levels that cover n pages (R286). -/
def levelsFor (n : Nat) : Nat := if n ≤ 512 then 1 else if n ≤ 2 ^ 18 then 2 else if n ≤ 2 ^ 27 then 3 else 4

/-- Is a frame number one that a leaf of the page may name: on its die, inside it, aligned, of its sector (R287)? -/
def frameFits (die ps sec fr : Nat) : Bool :=
  fr / 2 ^ 21 == die && decide (fr % 2 ^ 21 * 65536 + 2 ^ pageShift ps ≤ 96000000000) &&
    fr % 2 ^ (pageShift ps - 16) == 0 && (ps != 0 || fr % 4 == sec)

/-- The frame for a page: the one given, when it fits, else one from the free list. -/
def State.pickFrame (s : State) (pkg die ps sec : Nat) : Option Nat → Option (Nat × State)
  | some fr => if frameFits die ps sec fr then some (fr * 65536, s) else none
  | none => s.takeFrame pkg die ps sec

/-- Is an address of a package in a frame with K = 1: one that Table 16-1 takes, or of the area of page-table pages
(R279, R289)? -/
def State.kAt (s : State) (pkg a : Nat) : Bool :=
  (s.pkg pkg).kframes.any (fun f => decide (f.1 ≤ a ∧ a < f.1 + f.2.1)) || decide (2 ^ 31 ≤ a % 2 ^ 37 ∧ a % 2 ^ 37 < 2 ^ 32)

/-- Maps a page of an object with a frame, of the free list unless one is given, filled with bottom: MT as given, K as the
frame's (R289, R293, R294). none says that the page cannot be served. -/
def State.mapPageAt (s : State) (o pkg die pg mt : Nat) (frame : Option Nat) : Option State :=
  match tget? s.k.objs o with
  | none => none
  | some x =>
    let sec := match ownAt s.k.owns (x.base / 4096) with
      | some ⟨_, _, .sector _ _ sc⟩ => sc
      | _ => (s.loBase x.base / 65536 + pg) % 4
    let withRoot : Option (Root × State) := match rootOf s.k.roots o pkg die with
      | some r => some (r, s)
      | none => (s.takeTable pkg die).map (fun (a, s) =>
          let r : Root := ⟨o, pkg, die, levelsFor (x.len * 4096 / 2 ^ pageShift x.ps + 1), a, [(frameKey die 3 0, a)]⟩
          (r, s.onK (fun k => { k with roots := r :: k.roots })))
    match withRoot with
    | none => none
    | some (r, s) =>
      match s.pickFrame pkg die x.ps sec frame with
      | none => none
      | some (a, s) =>
        let leaf := a / 65536 * 65536 + ltyNum x.ty * 16 + mt * 4 + (if s.kAt pkg a then 2 else 0) + 1
        let s := s.noteFrame o pkg die (frameKey die x.ps sec) a
        { s with mem := s.mem.fill (physAddr pkg a) (2 ^ pageShift x.ps) (ltyPattern x.ty) }.writeLeaf o pkg die pg
          leaf (r.lv - 1) r.top

/-- Maps a page with a frame of the free list, with memory type 0. -/
def State.mapPage (s : State) (o pkg die pg : Nat) : Option State := s.mapPageAt o pkg die pg 0 none

/-- Maps the page of an address if it is missing; the state stays when it cannot be. -/
def State.mapVa (s : State) (va : Nat) : State :=
  match s.translate va with
  | .missing m => (s.mapPage m.oid m.pkg m.die m.pg).getD s
  | _ => s

/-- Maps every 4 KiB block's page of a range, block by block. -/
def State.mapRange (s : State) (va : Nat) : Nat → State
  | 0 => s
  | n + 1 => (s.mapVa va).mapRange (va + 4096) n

/-- Writes bytes at virtual addresses whose pages are mapped. -/
def State.writeV (s : State) (va : Nat) : List Byte → State
  | [] => s
  | x :: t => (match s.phys? va with
    | some a => { s with mem := s.mem.write a x }
    | none => s).writeV (va + 1) t

/-- The frames of page trees return to their free lists (R291). -/
def State.freeFrames (s : State) : List Root → State
  | [] => s
  | r :: t => (s.onPkg r.pkg (fun p => { p with freed := p.freed ++ r.frames })).freeFrames t

/-- The object table has changed (Table 16-7). -/
def State.bumpOt (s : State) : State := s.onK (fun k => { k with otver := k.otver + 1 })

/-- Frees an object whose prefix no object aliases: its frames return to their lists, and its OID to the pool of the package
that made it; the loader's OIDs are free when the launch is (R291). -/
def State.dropObj (s : State) (o : Nat) : State :=
  let back (pools : Tab OidPool) : Tab OidPool := match (tget? s.k.objs o).bind (fun x => x.pkg) with
    | some p => tmap pools p (fun y => { y with freed := y.freed ++ [o] })
    | none => pools
  ((s.freeFrames (s.k.roots.filter (fun r => r.oid == o))).onK (fun k =>
    { k with
      objs := terase k.objs o
      pools := back k.pools
      roots := k.roots.filter (fun r => r.oid != o) })).bumpOt

/-- A package's next free OID: unused ones first, then freed ones in the order of their freeing (R291; DESIGN CHOICE, log
entry 13). -/
def State.takeOid (s : State) (p : Nat) : Option (Nat × State) :=
  (tget? s.k.pools p).bind (fun y =>
    if y.next < y.stop then some (y.next, s.onK (fun k => { k with pools := tset k.pools p { y with next := y.next + 1 } }))
    else match y.freed with
      | [] => none
      | o :: t => some (o, s.onK (fun k => { k with pools := tset k.pools p { y with freed := t } })))

/-- The free OIDs of a package's pool (OIDFREE, Table 16-7). -/
def State.oidFree (s : State) (p : Nat) : Nat :=
  match tget? s.k.pools p with
  | some y => y.stop - y.next + y.freed.length
  | none => 0

/-- Frees an object: while another aliases it, it is only retired, and freeing the last alias frees a retired source
(R290). n bounds the chain. -/
def State.freeObjN (s : State) : Nat → Nat → State
  | 0, _ => s
  | n + 1, o =>
    match tget? s.k.objs o with
    | none => s
    | some x =>
      if x.aliases != 0 then s.onK (fun k => { k with objs := tmap k.objs o (fun y => { y with ret := true }) })
      else
        let s := s.dropObj o
        if x.src = 0 then s
        else
          let s := s.onK (fun k => { k with objs := tmap k.objs x.src (fun y => { y with aliases := y.aliases - 1 }) })
          match tget? s.k.objs x.src with
          | some y => if y.ret && y.aliases == 0 then s.freeObjN n x.src else s
          | none => s

def State.freeObj (s : State) (o : Nat) : State := s.freeObjN (s.k.objs.length + 1) o

/-- Next base with an alignment, and the object number, for a new object (R129, R223; DESIGN CHOICE, log entry 13). -/
def alignUp (n a : Nat) : Nat := (n + a - 1) / a * a

/-- Period of a range in blocks (R284). -/
def State.period (s : State) (m : OwnMode) : Nat :=
  match m with
  | .sector .. => 16
  | .package _ => 64 * s.ndies
  | .spread => 64 * s.ndies * max s.npkg 1

/-- The first OID from o on that no object has; n bounds the search. -/
def freshOid (objs : Tab Obj) : Nat → Nat → Nat
  | 0, o => o
  | n + 1, o => if thas objs o then freshOid objs n (o + 1) else o

/-- May the loader place an object with an OID at a block, n blocks long: neither is taken, the block is aligned to 64 KiB, and
both fit their fields (R129, R284, Table 16-2)? -/
def State.mayPlace (s : State) (oid b n : Nat) : Bool :=
  oid != 0 && decide (oid < 2 ^ 20) && !thas s.k.objs oid && b % 16 == 0 && decide (b + n ≤ 2 ^ 48 ∧ n < 2 ^ 36) &&
    !s.k.owns.any (fun e => decide (e.start < b + n ∧ b < e.start + e.len))

/-- The loader adds an object in a range of its own, with the OID and the first block that place names, or with the next free
ones (R129; DESIGN CHOICE, log entry 13); none when they cannot be had. -/
def State.newObj (s : State) (place : Option (Nat × Nat)) (mode : OwnMode) (x : Obj) : Option (Nat × State) :=
  let per := s.period mode
  let o := freshOid s.k.objs (s.k.objs.length + 1) s.k.nextOid
  let p := place.getD (o, alignUp (max s.k.nextVa (per * 16)) (per * 16))
  if s.mayPlace p.1 p.2 x.len then some (p.1, (s.onK (fun k => { k with
    objs := tset k.objs p.1 { x with base := p.2 * 4096 }
    owns := k.owns ++ [⟨p.2, x.len, mode⟩]
    nextOid := if place.isNone then o + 1 else k.nextOid
    nextVa := max k.nextVa (p.2 + x.len) })).bumpOt)
  else none

/-- Blocks of a room for forks (DESIGN CHOICE, log entry 13). -/
def roomBlocks : Nat := 2 ^ 32

/-- A range with room for the forks of objects of a mode, while addresses last (R223, R282). -/
def State.addRoom (s : State) (mode : OwnMode) : State :=
  let per := s.period mode
  let b := alignUp (max s.k.nextVa (per * 16)) (per * 16)
  let n := alignUp roomBlocks per
  if 2 ^ 48 < b + n then s else s.onK (fun k => { k with
    owns := k.owns ++ [⟨b, n, mode⟩], rooms := k.rooms ++ [⟨mode, b, b + n⟩], nextVa := b + n })

/-- Modes of a list of objects, each once. -/
def State.modesOf (s : State) (l : List Obj) : List OwnMode :=
  l.foldl (fun ms x => match ownAt s.k.owns (x.base / 4096) with
    | some e => if ms.contains e.mode then ms else ms ++ [e.mode]
    | none => ms) []

/-- Before a launch: room for the forks of its fill objects, and the pools of OIDs, equal parts of what the loader leaves
(R282, R291; DESIGN CHOICE, log entry 13). -/
def State.stock (s : State) : State :=
  let s1 := (s.modesOf ((s.k.objs.map (fun e => e.2)).filter (fun x => x.ty == .fill))).foldl State.addRoom s
  let first := (s.k.objs.map (fun e => e.1 + 1)).foldl max s.k.nextOid
  let n := (2 ^ 20 - first) / max s.npkg 1
  s1.onK (fun k => { k with pools := (List.range s.npkg).map (fun (p : Nat) => (p, ⟨first + p * n, first + (p + 1) * n, []⟩)) })

/-- An object in the room of a mode, with an OID of a package's pool (R223, R291); none when there is no room or no OID. -/
def State.roomObj (s : State) (mode : OwnMode) (p : Nat) (x : Obj) : Option (Nat × State) :=
  let per := s.period mode
  match s.k.rooms.find? (fun r => r.mode == mode) with
  | none => none
  | some r =>
    let b := alignUp r.next (per * 16)
    if r.stop < b + x.len then none
    else (s.takeOid p).map (fun (o, s) => (o, (s.onK (fun k => { k with
      objs := tset k.objs o { x with base := b * 4096, pkg := some p }
      rooms := k.rooms.map (fun y => if y.mode = mode then { y with next := b + alignUp x.len per } else y) })).bumpOt))

end Sys2Proof.Machine
end

