-- ==== Sys2Proof/Machine/Wire.lean ====
section
/-!
DEFINITION. Flits on the links between packages: the header of Table 19-1, the payload of Table 19-2, and the replay buffer
of a port that sends (R341 to R343).
-/

namespace Sys2Proof.Machine

/-- The bytes of global memory that an effect reaches. -/
def effSpan : Eff → Option (Nat × Nat)
  | .join _ _ va d => some (va, d.length)
  | .store va d _ => some (va, d.length)
  | .storeCap va _ _ => some (va, 16)
  | .cap _ _ va len => some (va, len)
  | .payload _ _ (.mem va d) => some (va, d.length)
  | _ => none

/-- KIND of an effect's flit (Table 19-1). Exclusive stores and caps go to join units as joins do (DESIGN CHOICE, log entry
48). -/
def Eff.kind : Eff → Nat
  | .join .. | .store .. | .storeCap .. | .cap .. => 1
  | .watch _ => 3
  | .spawn .. | .msg _ | .cancel _ => 5
  | .barr .. => 6
  | .payload .. => 7
  | _ => 8

/-- The virtual channel of a KIND. -/
def kindVc (k : Nat) : Nat :=
  if k = 2 ∨ k = 4 then 1 else if k = 5 ∨ k = 6 then 2 else if k = 8 then 3 else 0

/-- Package, die, and join unit or comb at one end of a flit. -/
structure End where
  pkg : Nat
  die : Nat
  unit : Nat
  deriving DecidableEq, Repr

/-- The end at a core's comb, and at the home of an address. -/
def State.combEnd (s : State) (lcore : Nat) : End :=
  let x := s.placeOf (combOf lcore)
  ⟨x.1, x.2 / 64, x.2 % 64⟩
def State.homeEnd (s : State) (va : Nat) : Option End := (s.homeOf va).map (fun h => ⟨h.pkg, h.die, h.unit⟩)

/-- The first core of a core's instance of a scope (Table 1-3). -/
def scopeFirst (sc : Scope) (l : Nat) : Nat :=
  match sc with
  | .lane | .core => l
  | .comb => l / 4 * 4
  | .sector => l / 64 * 64
  | .die => l / 256 * 256
  | .pkg => l / 2048 * 2048
  | .node => l / 8192 * 8192
  | .rack => l / 131072 * 131072
  | .pod => l / 8388608 * 8388608
  | .sys => 0

/-- Where an effect goes; none when it stays on its comb. The node of a barrier is that of its instance's first core, and a cancel goes
to the node of SYS (R312; DESIGN CHOICE, log entry 48). -/
def State.target (s : State) (f : Flit) : Option End :=
  match f.e.eff with
  | .spawn _ _ l _ => some (s.combEnd (l.getD f.lcore))
  | .msg m => some (s.combEnd m.dst)
  | .barr l _ sc _ => some (s.combEnd (scopeFirst sc l))
  | .cancel _ => some (s.combEnd 0)
  | .payload _ _ (.scratch l ..) => some (s.combEnd l)
  | .watch w => s.homeEnd w.va
  | e => match effSpan e with
    | some (va, _) => s.homeEnd va
    | none => none

/-- The first 8 bytes of a flit (Table 19-1). -/
def flitHead (kind ctx : Nat) (src dst : End) : Nat :=
  kind % 16 + ctx % 8 * 2 ^ 4 + kindVc kind * 2 ^ 8 + dst.pkg % 2 ^ 18 * 2 ^ 16 + dst.die % 8 * 2 ^ 34 + dst.unit % 64 * 2 ^ 37 +
    src.pkg % 2 ^ 18 * 2 ^ 43 + src.die % 8 * 2 ^ 61

/-- OR and SC (R144). -/
def ordBits : Ord → Nat
  | .relaxed => 0
  | .acq sc => 1 + 4 * scopeNum sc
  | .rel sc => 2 + 4 * scopeNum sc
  | .sc sc => 3 + 4 * scopeNum sc

/-- Number of a width code (R144). -/
def wdNum : Wd → Nat
  | .w8 => 0 | .w16 => 1 | .w32 => 2 | .w64 => 3

/-- The constituents of a merged flit; a flit that was not merged is its own. -/
def State.constituents (s : State) (f : Flit) : List Flit :=
  if f.merged then s.k.flits.filter (fun g => f.parts.contains g.id) else [f]

/-- A count part: the tag and the increment of a count join (R44, R343). -/
def countPart (f : Flit) : Nat :=
  let tag := (f.task * 2 ^ 22 + f.actn % 2 ^ 22) * 2 ^ 10 + f.e.cseq % 2 ^ 10
  match f.e.eff with
  | .join _ _ _ d => tag % 2 ^ 64 + ofBytes d % 2 ^ 64 * 2 ^ 64
  | _ => 0

/-- Count parts one after another, at 32 + 16 i of the flit. -/
def packParts : List Nat → Nat
  | [] => 0
  | x :: t => x + packParts t * 2 ^ 128

/-- Bytes 16 to 103 of a join flit (Table 19-2), from byte 16 on: VA, type, width, order, count parts, MRG, join id, data and mask.
Exclusive stores and caps have them with type excl and with the length as data (DESIGN CHOICE, log entry 48). -/
def joinPayload (f : Flit) (t : LTy) (w : Wd) (va : Nat) (d : List Byte) (parts : List Nat) : Nat :=
  let data := if parts.isEmpty then ofBytes d % 2 ^ 512 else packParts parts
  let mask := if t = .fill ∨ t = .lap ∨ t = .count then 0 else 2 ^ min d.length 64 - 1
  va % 2 ^ 60 + (ltyNum t + wdNum w * 2 ^ 4 + ordBits f.e.ord * 2 ^ 6 + parts.length % 8 * 2 ^ 12 +
    (if f.merged then 2 ^ 15 else 0)) * 2 ^ 64 + f.id % 2 ^ 48 * 2 ^ 80 + data * 2 ^ 128 + mask * 2 ^ 640

/-- Bytes 104 to 119: PC, TASK and ACTN of the issuer (Table 19-2). -/
def identBits (f : Flit) : Nat := f.e.pc.toNat % 2 ^ 60 + f.task % 2 ^ 32 * 2 ^ 64 + f.actn % 2 ^ 24 * 2 ^ 96

/-- Bytes 16 to 119 of an effect's flit. A merged count join carries the part of each constituent (R343). -/
def State.flitPayload (s : State) (f : Flit) : Nat :=
  let join (t : LTy) (w : Wd) (va : Nat) (d : List Byte) (parts : List Nat := []) : Nat :=
    joinPayload f t w va d parts + identBits f * 2 ^ 704
  match f.e.eff with
  | .join t w va d => join t w va d (if t = .count then (s.constituents f).map countPart else [])
  | .store va d _ => join .excl .w8 va d
  | .storeCap va c _ => join .excl .w64 va (toBytes c.toNat 16)
  | .cap t _ va len => join t .w8 va (toBytes len 8)
  | _ => (Config.flitPayload f.id).toNat

/-- A whole flit: its header, link sequence and acknowledgement, payload and CRC (R341). -/
def flitOf (head payload : Nat) (lseq lack : BitVec 32) : BitVec 1024 :=
  let x := head + lseq.toNat * 2 ^ 64 + lack.toNat * 2 ^ 96 + payload % 2 ^ 832 * 2 ^ 128
  BitVec.ofNat 1024 (x + crc64 (toBytes x 120) * 2 ^ 960)

/-- The state of a port by its working lanes (R340) (DESIGN CHOICE, log entry 48). -/
def portState (lanes : BitVec 8) : Nat :=
  let n := ((List.range 8).filter (fun j => lanes.getLsbD j)).length
  if n = 8 then 3 else if 4 ≤ n then 2 else 0

/-- Is a port up? -/
def Port.live (p : Port) : Bool := 2 ≤ p.st

/-- A port sends a flit and keeps it until it is acknowledged (R342). -/
def Port.transmit (p : Port) (head payload now : Nat) : Port :=
  { p with lseq := p.lseq + 1, replay := p.replay ++ [(flitOf head payload (p.lseq + 1) p.lack, now)] }

/-- The port by which a package sends to another: the first live one to it, else the first live one (DESIGN CHOICE, log
entry 48). -/
def Pkg.portTowards (p : Pkg) (far : Nat) : Option Nat :=
  let live := (p.ports.filter (fun e => e.2.live))
  ((live.find? (fun e => e.2.peer.toNat == far)).or live.head?).map (fun e => e.1)

/-- The packages once a flit has left one of them for another; nothing leaves a package for itself. -/
def State.transmit (s : State) (kind payload : Nat) (src dst : End) : Tab Pkg :=
  if src.pkg = dst.pkg then s.hw
  else match (s.pkg src.pkg).portTowards dst.pkg with
    | none => s.hw
    | some j => tset s.hw src.pkg { s.pkg src.pkg with
        ports := tset (s.pkg src.pkg).ports j
          ((tget (s.pkg src.pkg).ports j Port.init).transmit (flitHead kind s.k.num src dst) payload s.time) }

/-- The packages once an effect's flit has left. -/
def State.wired (s : State) (f : Flit) : Tab Pkg :=
  match s.target f with
  | some dst => s.transmit f.e.eff.kind (s.flitPayload f) (s.combEnd f.lcore) dst
  | none => s.hw

/-- The packages once a flit that no effect makes has left, by a number of its own: an acknowledgement, a read and its answer, a wake,
or a control flit (R341). -/
def State.wire (s : State) (kind no : Nat) (src dst : End) : Tab Pkg := s.transmit kind (Config.flitPayload no).toNat src dst

/-- A read request leaves a core for a home, and the answer the home for the core. -/
def State.askHome (s : State) (lcore va : Nat) : Tab Pkg :=
  match s.homeEnd va with
  | some e => s.wire 3 (2 ^ 64 + s.time) (s.combEnd lcore) e
  | none => s.hw
def State.answerHome (s : State) (lcore va : Nat) : Tab Pkg :=
  match s.homeEnd va with
  | some e => s.wire 4 (2 ^ 66 + s.time) e (s.combEnd lcore)
  | none => s.hw

/-- What an engine of a core's comb reads goes both ways. -/
def State.fetched (s : State) (lcore va : Nat) : State :=
  let t := { s with hw := s.askHome lcore va }
  { t with hw := t.answerHome lcore va }

/-- The acknowledgement of an effect's flit leaves its home (R344). -/
def State.ackSent (s : State) (f : Flit) : State :=
  match s.target f with
  | some e => { s with hw := s.wire 2 (2 ^ 67 + f.id) e (s.combEnd f.lcore) }
  | none => s

/-- A control flit of a comb leaves for the other packages of the running launch: hold sets, fence notices, remaps (R341). -/
def State.tellAll (s : State) (x : Site) : State :=
  (s.pkgmap.filter (fun p => p != x.pkg)).foldl (fun s p => { s with hw := s.wire 8 (2 ^ 68 + s.time) ⟨x.pkg, x.die, x.comb⟩ ⟨p, x.die, 0⟩ }) s

end Sys2Proof.Machine
end

