-- ==== Sys2Proof/Machine/Ops.lean ====
section
/-!
DEFINITION. The shared operations of a lane: registers and their liveness (R31, R104), fetching (R136, R137), the
outbox (R21), the checks of R148, retiring (R97, R150, R323), and taking an exception: abandonment, the confirming
run and the final trap (R102), trap records and the fault log (R173, R174, R299).
-/

namespace Sys2Proof.Machine

/-! Registers. -/

/-- A scalar register; s0 reads zero (R31). -/
def State.rS (s : State) (r : SReg) : Word := if r = 0 then 0 else s.ln.s[r.val]

/-- Writes a scalar register and makes it live; s0 discards (R31, R104). -/
def State.wS (s : State) (r : SReg) (x : Word) : State :=
  if r = 0 then s
  else s.onLn (fun l => { l with s := l.s.set r.val x, liveS := l.liveS ||| BitVec.twoPow 64 r.val })

/-- A scalar register by number. -/
def State.rN (s : State) (n : Nat) : Word := s.rS (Fin.ofNat 64 n)

/-- A vector register. -/
def State.rV (s : State) (r : VReg) : Vec := s.ln.v[r.val]

/-- A vector register by number. -/
def State.rVn (s : State) (n : Nat) : Vec := s.rV (Fin.ofNat 32 n)

/-- Writes a vector register and makes it live. -/
def State.wV (s : State) (r : VReg) (x : Vec) : State :=
  s.onLn (fun l => { l with v := l.v.set r.val x, liveV := l.liveV ||| BitVec.twoPow 32 r.val })

def State.wVn (s : State) (n : Nat) (x : Vec) : State := s.wV (Fin.ofNat 32 n) x

/-- A mask register. -/
def State.rM (s : State) (r : MReg) : Mask := s.ln.m[r.val]

def State.wM (s : State) (r : MReg) (x : Mask) : State :=
  s.onLn (fun l => { l with m := l.m.set r.val x, liveM := l.liveM ||| BitVec.twoPow 8 r.val })

/-- A capability register; c0 reads null (R160). -/
def State.rC (s : State) (r : CReg) : Cap := if r = 0 then 0 else s.ln.c[r.val]

/-- Writes a capability register; c0 discards (R160). -/
def State.wC (s : State) (r : CReg) (x : Cap) : State :=
  if r = 0 then s
  else s.onLn (fun l => { l with c := l.c.set r.val x, liveC := l.liveC ||| BitVec.twoPow 16 r.val })

/-- Kills a register after the read of a marked field; s0, c0 and c15 are never made dead (R104). -/
def killS (m : BitVec 64) (a : SSrc) : BitVec 64 :=
  if a.last && a.r.val != 0 then m &&& ~~~(BitVec.twoPow 64 a.r.val) else m
def killV (m : BitVec 32) (a : VSrc) : BitVec 32 :=
  if a.last then m &&& ~~~(BitVec.twoPow 32 a.r.val) else m
def killM (m : BitVec 8) (a : MSrc) : BitVec 8 :=
  if a.last then m &&& ~~~(BitVec.twoPow 8 a.r.val) else m
def killC (m : BitVec 16) (a : CSrc) : BitVec 16 :=
  if a.last && a.r.val != 0 && a.r.val != 15 then m &&& ~~~(BitVec.twoPow 16 a.r.val) else m

/-- Kills every marked source of an instruction. -/
def State.killMarked (s : State) (i : Instr) : State :=
  let f := foot i
  s.onLn (fun l => { l with
    liveS := f.ss.foldl killS l.liveS
    liveV := f.vs.foldl killV l.liveV
    liveM := f.ms.foldl killM l.liveM
    liveC := f.cs.foldl killC l.liveC })

def Lane.sLive (l : Lane) (n : Nat) : Bool := n == 0 || l.liveS.getLsbD n
def Lane.vLive (l : Lane) (n : Nat) : Bool := l.liveV.getLsbD n
def Lane.mLive (l : Lane) (n : Nat) : Bool := l.liveM.getLsbD n
def Lane.cLive (l : Lane) (n : Nat) : Bool := n == 0 || n == 15 || l.liveC.getLsbD n

/-! Fetching. -/

/-- Does a PC lie inside the launch's code object (R137)? -/
def State.inCode (s : State) (pc : Nat) : Bool :=
  match s.k.launch with
  | some l => l.codeBase ≤ pc && pc < l.codeBase + l.codeLen
  | none => false

/-- The word at a PC, as the four bytes stand in memory (R136). -/
def State.fetchWord (s : State) (pc : Nat) : Nat := ofBytes (s.readV pc 4)

/-- Does a range of mapped bytes hold a poisoned line (R327)? -/
def State.poisonedAt (s : State) (va n : Nat) : Bool :=
  (List.range ((va + n + 63) / 64 - va / 64)).any (fun (i : Nat) => match s.phys? ((va / 64 + i) * 64) with
    | some a => s.mem.poison.contains (a / 64)
    | none => false)

/-- What the fetch at a PC gives: an instruction, a bad encoding, or the trap of R137 or R327. -/
inductive Fetched where
  | instr (w0 : Nat) (i : Instr)
  | bad (w0 : Nat)
  | trap (code : Nat)
  deriving DecidableEq, Repr

/-- Word 1 is fetched behind every word 0 of majors 0x70 to 0x79, unassigned FN among them, whose poison then gives UNCORR (R147,
Table 6-12; DESIGN CHOICE, log entry 92). ALIGN comes before CAPBOUND (R137; DESIGN CHOICE, log entry 91). -/
def State.fetchAt (s : State) (pc : Nat) : Fetched :=
  if pc % 4 ≠ 0 then .trap tALIGN
  else if !s.inCode pc then .trap tCAPBOUND
  else
    let w0 := s.fetchWord pc
    let w1 := if s.inCode (pc + 4) then some (s.fetchWord (pc + 4)) else none
    if s.poisonedAt pc (if 0x70 ≤ majorOf w0 && majorOf w0 < 0x7A && s.inCode (pc + 4) then 8 else 4) then .trap tUNCORR
    else match decodeWords w0 w1 with
    | .ok i => .instr w0 i
    | .error _ => .bad w0

/-- Is there a SIG at a PC? A word on a poisoned line is none, so that a suspending instruction before it is ILLEGAL (R148; DESIGN
CHOICE, log entry 93). -/
def State.sigAt (s : State) (pc : Nat) : Bool :=
  match s.fetchAt pc with
  | .instr _ (.sig _) => true
  | _ => false

/-! Effects on their way. -/

/-- Outbox bytes of an entry (R21). -/
def effBytes : Eff → Nat
  | .msg _ => 32
  | .spawn .. => 64
  | .join _ _ _ d => if d.length = 512 then 512 else if d.length = 64 then 64 else 16
  | .store _ d _ => if d.length = 512 then 512 else 16
  | .window _ _ d => if d.length = 512 then 512 else 16
  | _ => 16

def boxBytes (b : List Entry) : Nat := (b.map (fun e => effBytes e.eff)).sum

/-- Bytes in the outboxes of a core. -/
def State.coreBox (s : State) (lcore : Nat) : Nat :=
  ((List.range 8).map (fun n => boxBytes (s.lane (lcore * 8 + n)).box)).sum

/-- Is there room in the core's 128 KiB for n more bytes (R21)? -/
def State.room (s : State) (n : Nat) : Bool := s.coreBox s.lcore + n ≤ 131072

/-- Enters an effect at the end of the outbox. At 16 KiB a commit is pending (R21, Table 4-4). -/
def State.push (s : State) (e : Eff) (o : Ord) : State :=
  s.onLn (fun l =>
    let b := l.box ++ [⟨e, o, l.pc, l.seqn, l.cnt, l.know⟩]
    { l with box := b, seqn := l.seqn + 1, st := if l.st = .run ∧ 16384 ≤ boxBytes b then .finish else l.st })

/-- The tag of R99: TASK, ACTN[21:0], sequence. -/
def tagOf (task actn seq : Nat) : Nat := (task * 2 ^ 22 + actn % 2 ^ 22) * 2 ^ 20 + seq

/-- An effect as it is sent, with the identity fields of R326. -/
def State.newFlit (s : State) (e : Entry) (task actn gid lcore : Nat) : Flit :=
  ⟨s.k.nextFlit, e, task, actn, gid, lcore, false, false, 0, s.time, [], false, false, (s.record task).mark⟩

/-- Sends an effect; to another package it goes by a link (R341). -/
def State.send (s : State) (e : Entry) (task actn gid lcore : Nat) : State :=
  let f := s.newFlit e task actn gid lcore
  { s with k := { s.k with flits := s.k.flits ++ [f], nextFlit := s.k.nextFlit + 1 }, hw := s.wired f }

/-- A join that the device makes into a fill line of its own accord, for a group, with what it comes after (R108, R120, R173). -/
def State.sendLine (s : State) (gid va : Nat) (data : List Byte) (know : Know) : State :=
  s.send ⟨.join .fill .w64 va data, .rel .sys, 0, 0, 0, know⟩ 0 0 gid 0

/-! Trap records. -/

/-- A record of Table 7-7 as 32 bytes. -/
def recBytes (t : TrapInfo) (task actn : Nat) : List Byte :=
  toBytes (t.code % 256 + (if t.rpt then 256 else 0)) 8 ++ toBytes (t.pc.toNat % 2 ^ 60) 8 ++ toBytes t.va.toNat 8 ++
    toBytes task 4 ++ toBytes (actn % 2 ^ 24) 4

/-- Posts a record to the fault log (R299). -/
def State.postLog (s : State) (t : TrapInfo) (task actn : Nat) : State :=
  s.onK (fun k =>
    let k := if t.rpt then { k with rfcount := k.rfcount + 1 } else k
    if (k.flogHead - k.flogCons).toNat = 4096 then { k with flogLost := k.flogLost + 1 }
    else { k with
      flog := tset k.flog (k.flogHead.toNat % 4096) ⟨t, task, actn % 2 ^ 24⟩
      flogHead := k.flogHead + 1 })

/-- Writes a trap or reported-fault record for a group: into its fault line, which takes the first one only, and to
the fault log (R173, R174). -/
def State.writeRecord (s : State) (t : TrapInfo) (task actn gid : Nat) : State :=
  let s := s.postLog t task actn
  match tget? s.k.groups gid with
  | none => s
  | some g =>
    if g.faulted then s
    else (s.onGroup gid (fun g => { g with faulted := true })).sendLine gid g.fault
      (recBytes t task actn ++ List.replicate 32 0) []

/-- Counts a record as ended in its group, by END or by a trap, and its last NEVER (R108). -/
def State.countEnd (s : State) (task : Nat) (byTrap never : Bool) : State :=
  let g := (s.record task).f.gid
  ((s.onRec task (fun r => { r with st := .ended, doneAt := some s.time })).onK (fun k => { k with
    holds := terase k.holds task })).onGroup g (fun x => { x with
    ended := if byTrap then x.ended else x.ended + 1
    trapped := if byTrap then x.trapped + 1 else x.trapped
    nevers := if never then x.nevers + 1 else x.nevers })

/-! Leaving a lane. -/

/-- A lane that runs nothing (DEDUCED, log entry 60). -/
def Lane.toIdle (l : Lane) : Lane :=
  { l with
    st := .idle, box := [], boxSig := 0, blk := 0, sig := 0, mism := none, lastSig := none, susp := none, fin := none, cnt := 0
    seqn := 0, rd := none, wins := [], rTask := [], rGid := [], rObj := [], preq := none, tret := false
    tpd := false, selfCancel := false, acc := false, budgPc := none, never := false, know := [], reads := [], pg := none, wrote := [] }

/-- Releases reservations of an activation that does not commit them: tasks and provisional objects (R224, R247).
Group ids are only numbers until their commit (R250). -/
def State.release (s : State) (tasks objs : List Nat) : State :=
  let s := s.onK (fun k => { k with recs := k.recs.filter (fun r => !(tasks.contains r.1 && r.2.st == .reserved)) })
  objs.foldl (fun s o => match tget? s.k.objs o with
    | some x => if x.prov then s.freeObj o else s
    | none => s) s

/-- A lane's stalled WAITA is no more. -/
def State.dropWait (s : State) (l : Nat) : State :=
  if (s.core (l / 8)).waits.isEmpty then s else s.onCore (l / 8) (fun c => { c with waits := c.waits.filter (fun w => w.lane != l) })

/-- Array commands of a lane become nobody's (R238), and its stalled TLEASE and WAITA go. -/
def State.dropCommands (s : State) (l : Nat) : State :=
  (s.dropWait l).onComb (combOf (l / 8)) (fun c => { c with
    asking := ndel c.asking l
    queue := c.queue.map (fun q => if q.lane = some l then { q with lane := none } else q) })

/-- ABORT (Table 4-4): the outbox is dropped and the record changes by f only. A record whose confirming run (R102) is
abandoned stays confirming (DESIGN CHOICE, log entry 83). -/
def State.abandonWith (s : State) (l : Nat) (f : Rec → Rec) : State :=
  let ln := s.lane l
  (((s.release ln.rTask ln.rObj).dropCommands l).onLane l Lane.toIdle).onRec ln.task f

/-- Abandonment: the record returns READY, unchanged. -/
def State.abandon (s : State) (l : Nat) : State :=
  s.abandonWith l (fun r => { r with st := .ready, since := s.time })

/-- Takes a trap on the lane in focus (R102): the first one abandons the activation for a confirming run; the trap of
a confirming run is final, and the commit carries it out after the entries up to the last retired SIG. -/
def State.takeTrap (s : State) (t : TrapInfo) : State :=
  if s.rec_.confirm then
    let keep := s.ln.box.take s.ln.boxSig
    let kept (p : Eff → Bool) : Bool := keep.any (fun e => p e.eff)
    let tasks := s.ln.rTask.filter (fun n => !kept (fun e => match e with
      | .spawn m .. => m == n
      | _ => false))
    let objs := s.ln.rObj.filter (fun n => !kept (fun e => match e with
      | .ofork m => m == n
      | _ => false))
    ((s.release tasks objs).dropCommands s.cur).onLn (fun l =>
      { l with st := .verify, box := keep, fin := some t, susp := none, rd := none, wins := [], acc := false })
  else s.abandonWith s.cur (fun r => { r with st := .ready, since := s.time, confirm := true })

/-- PC[59:0] of a record (Table 4-1). -/
def pc60 (x : Word) : Word := x &&& 0x0FFFFFFFFFFFFFFF

/-- Returns a record from HELD (R171, R253, R307): READY with TPD clear, its registers unchanged, and a new PC where
one is given. A record of a cancelling group is not released (R314). -/
def State.releaseHeld (s : State) (task : Nat) (pc : Option Word) : State :=
  let r := s.record task
  if r.st = .held ∧ !(s.group r.f.gid).cancelling then
    (s.onRec task (fun r => { r with
      st := .ready, since := s.time, posted := false, f := { r.f with pc := pc60 (pc.getD r.f.pc), tpd := false } })).onK (fun k =>
        if r.posted then { k with ovq := k.ovq - 1 } else k)
  else s

/-! Issuing. -/

/-- What an instruction does at step 6 of R148 and after: change the state and go on, go on elsewhere (taken is the
branch outcome of R323), trap with a code and a VA, or not retire now. -/
inductive Do where
  | ok (f : State → State)
  | jump (tgt : Word) (taken : Bool) (f : State → State)
  | trap (code : Nat) (va : Word)
  | stay (f : State → State)

/-- Misplaced .acq and .rel (R64). -/
def orderBad : Instr → Bool
  | .ldx _ _ o .. | .vldx _ o .. | .ldc _ o .. | .thr _ _ _ o .. | .thrf _ _ _ o .. | .xrd _ _ _ o ..
  | .vxrd _ _ _ o .. => match o with
    | .rel _ => true
    | _ => false
  | .stx _ _ o .. | .vstx _ o .. | .stc _ o .. | .join _ _ _ o .. | .vjoin _ _ _ o .. | .vjoinx _ _ _ o .. =>
    match o with
    | .acq _ => true
    | _ => false
  | .cap _ _ _ _ acq .. => acq
  | _ => false

/-- PRIV cases that fields and the context decide (R32, R117, R160, R167, R215, R223, R250). -/
def privBad (service : Bool) : Instr → Bool
  | .mts n _ => n.val != 11 && n.val != 12 && n.val != 13
  | .tret _ | .sysrd .. | .syswr .. => !service
  | .cmov d _ | .cinc d .. | .cbound d .. | .crights d .. | .cinci d .. | .ldc _ _ d _ | .ofork _ d .. => d.val == 15
  | .msg _ _ _ cls | .hreg _ _ _ _ cls | .hdrop _ cls => cls.val < 4
  | .tgnew _ _ _ ov => 1 ≤ ov.val && ov.val ≤ 3
  | _ => false

/-- Steps 1 to 5 of R148 beyond decoding: the first trap they raise. -/
def State.preCheck (s : State) (i : Instr) : Option Nat :=
  let f := foot i
  if 256 ≤ s.ln.blk || (suspends i && !s.sigAt (s.ln.pc.toNat + if isLong i then 8 else 4)) then some tILLEGAL
  else if orderBad i then some tORDER
  else if privBad s.k.service i then some tPRIV
  else if (f.readV ++ f.wv).any (fun n => s.alloc ≤ n) then some tREGBOUND
  else if f.readS.all s.ln.sLive && f.readV.all s.ln.vLive && f.readM.all s.ln.mLive && f.readC.all s.ln.cLive
  then none
  else some tDEADREG

/-- The checker's term for a retired word (R323). -/
def sigTerm (w : BitVec 32) (taken : Bool) : BitVec 20 :=
  let t := w.extractLsb' 0 20 ^^^ ((w.extractLsb' 20 12).zeroExtend 20 <<< 4)
  let maj := w.extractLsb' 25 7
  if (maj = 0x16 ∨ maj = 0x1A) ∧ taken then t ^^^ 0x80001 else t

/-- Lookahead windows after the issue of i: closed by an instruction that ends them, else one shorter (R150). -/
def stepWins (i : Instr) (ws : List Window) : List Window :=
  let kept := if endsWindow i then [] else
    (ws.map (fun w => { w with left := w.left - 1 })).filter (fun w => w.left != 0)
  if lookahead i = 0 then kept else kept ++ [⟨lookahead i, i⟩]

/-- The register whose number VGETR and VPUTR compute from a base and a scalar, if it is one (R185). -/
def Lane.computed (l : Lane) (base sb : Nat) : List Nat :=
  let k := (base : Int) + (lget l.s.toList sb 0).toInt
  if 0 ≤ k ∧ k < 32 then [k.toNat] else []

/-- The footprint of an instruction with the registers that only a value fixes: of VGETR and VPUTR (R185), of VTOPK's run
(R194), and the format register that NF selects for VCVT (R79). -/
def Lane.footOf (l : Lane) (i : Instr) : Foot :=
  let f := foot i
  match i with
  | .vgetr _ _ base b _ => { f with rv := f.rv ++ l.computed base.r.val b.r.val }
  | .vputr _ base _ b m => { f with rv := f.rv ++ Machine.mk m (l.computed base.val b.r.val), wv := l.computed base.val b.r.val }
  | .vtopk _ _ _ a b => { f with rv := List.range' a.r.val ((lget l.s.toList b.r.val 0).toNat / 256 % 16) }
  | .vcvt t _ _ _ st _ _ => if t = .x8 ∨ st = .x8 then { f with rx := [16 + l.nf.toNat % 8] } else f
  | _ => f

/-- Does i, about to issue, lie in a window on whose long form it depends (R151)? -/
def depends (i : Instr) (l : Lane) : Bool := !endsWindow i && l.wins.any (fun w => dependent (foot w.i) (l.footOf i))

/-- A SIG ends the block: the comparison of R323, the outbox mark of R102, and VERIFY when a commit is due. -/
def Lane.endBlock (l : Lane) (sigon : Bool) (v : BitVec 20) : Lane :=
  { l with
    mism := if l.mism.isNone && sigon && v != l.sig then some l.pc else l.mism
    sig := 0, blk := 0, boxSig := l.box.length, lastSig := some l.pc
    st := if l.susp.isSome || l.st == .finish then .verify else l.st }

/-- Instructions that read memory, of any space, or return from a wait: where a step of program order ends or starts at a read
(R61 edge 1; DEDUCED, log entry 78). -/
def readsMem : Instr → Bool
  | .lds .. | .vlds .. | .vldss .. | .vgats .. | .vldb .. | .ldf .. | .vldf .. | .waita .. | .ldx .. | .vldx .. | .ldc .. | .xrd .. |
    .vxrd .. | .thr .. | .thrf .. | .bwait .. | .twwait .. | .tldw .. | .tmma .. | .tdrain .. => true
  | _ => false

/-- A read stands before the activation's next effect. -/
def Lane.noteRead (l : Lane) (i : Instr) : Lane :=
  { l with reads := if readsMem i && !l.reads.contains l.seqn then l.seqn :: l.reads else l.reads }

/-- Retiring (R97, R323): the next PC, the block, S and the windows. dep says that i depends on an open window: LKCNT
counts it after what i itself writes (DESIGN CHOICE, log entry 65). -/
def State.retire (s : State) (i : Instr) (pc : Word) (taken dep : Bool) : State :=
  s.onLn (fun l =>
    let l := if dep then l.countDep else l
    let l := { l with wins := stepWins i l.wins }
    let l := match i with
      | .sig v => l.endBlock s.sigon v
      | _ => { l with blk := l.blk + 1, sig := rotl20 l.sig 7 ^^^ sigTerm s.ir taken }
    { l.noteRead i with from_ := l.pc, pc := pc })

/-- The address after the instruction. -/
def State.after (s : State) (i : Instr) : Word := s.ln.pc + if isLong i then 8 else 4

/-- A THR or THRF that traps has not returned NEVER (R108). -/
def State.trapped (s : State) (i : Instr) : State :=
  match i with
  | .thr .. | .thrf .. => s.onLn (fun l => { l with never := false })
  | _ => s

/-- Issues an instruction on the lane in focus: the checks of R148 in order, the reads and kills, the writes, and
retiring. -/
def issue (i : Instr) (s : State) (d : Do) : Host.Outcome State Fault Refusal :=
  match s.preCheck i with
  | some code => .next ((s.trapped i).takeTrap ⟨code, s.ln.pc, 0, rptOf code⟩)
  | none =>
    match d with
    | .trap code va => .next ((s.trapped i).takeTrap ⟨code, s.ln.pc, va, rptOf code⟩)
    | .stay f => .next (f s)
    | .ok f => .next ((f (s.killMarked i)).retire i (s.after i) false (depends i s.ln))
    | .jump tgt taken f => .next ((f (s.killMarked i)).retire i tgt taken (depends i s.ln))

/-- An effect that has passed its checks: it enters the outbox, or waits for room in it (R21, R227). f is what else
the instruction does. -/
def State.effect (s : State) (e : Eff) (o : Ord) (f : State → State) : Do :=
  if s.room (effBytes e) then .ok (fun s => f (s.push e o)) else .stay id

/-- Marks the instruction whose SIG ends the activation (R97). -/
def State.suspend (s : State) (u : Susp) : State := s.onLn (fun l => { l with susp := some u })

/-- An event: when what it needs holds, the state changes; otherwise the event does not come about (DEDUCED, log entry 8). -/
def event (s : State) (enabled : Bool) (s' : State) : Host.Outcome State Fault Refusal :=
  if enabled then .next s' else .next s

end Sys2Proof.Machine
end

