-- ==== Sys2Proof/Machine/Operands.lean ====
section
/-!
DEFINITION. Every operand form: scratchpad and window offsets (R201, R203, R205), global effective addresses (R35,
R209, R217), the access check of R37 and R40, ownership of exclusive objects (R47, R94), and the scratchpad bytes.
-/

namespace Sys2Proof.Machine

/-! Scratchpad. -/

/-- off = (s[A] + SEXT(IMM) * z) mod 2^64 (R201). -/
def scratchOff (base : Word) (imm : BitVec 9) (z : Nat) : Nat := (base + sext imm * BitVec.ofNat 64 z).toNat

/-- The offset of an array operand: s[A] + SEXT(IMM) * 64 (R234). -/
def arrayOff (base : Word) (imm : BitVec 8) : Nat := (base + sext imm * 64).toNat

/-- The checks of R201 on n bytes at off: CAPBOUND, then ALIGN. -/
def State.scratchChk (s : State) (off n al : Nat) : Option Nat :=
  if s.scratchSize < off + n then some tCAPBOUND
  else if off % al ≠ 0 then some tALIGN
  else none

/-- The neighbour-window form of the same checks (R19, R205). -/
def State.windowChk (s : State) (off n al : Nat) : Option Nat :=
  if s.windowSize < off + n then some tCAPBOUND
  else if off % al ≠ 0 then some tALIGN
  else none

/-- Scratchpad bytes of a core. -/
def State.scratch (s : State) (lcore off n : Nat) : List Byte := s.mem.readN (scratchAddr s.kid lcore off) n

/-- Is a word of the range poisoned (R327)? -/
def State.scratchBad (s : State) (lcore off n : Nat) : Bool :=
  (s.core lcore).badW.any (fun w => decide (w * 4 < off + n ∧ off < w * 4 + 4))

/-- Bytes with one store over them. -/
def overOne (va : Nat) (b : List Byte) (a : Nat) (d : List Byte) : List Byte :=
  mapFrom (fun i x => if a ≤ va + i then lget d (va + i - a) x else x) 0 b

/-- Do n bytes at an offset meet k bytes at another? -/
def meets (off n o k : Nat) : Bool := decide (off < o + k ∧ o < off + n)

/-- Writes scratchpad bytes. Words that are covered whole lose their poison (R327), a stalled WAITA sees the value that it waits
for (R208), and a completion word that is overwritten is none (R61 edge 6). know is what the write comes after where it is a
completion action. -/
def State.putScratchK (s : State) (lcore off : Nat) (d : List Byte) (know : Know) : State :=
  let s := { s with mem := s.mem.writeL (scratchAddr s.kid lcore off) d }
  let c := s.core lcore
  if c.badW.isEmpty && c.waits.isEmpty && c.waitKnow.isEmpty then s
  else s.onCore lcore (fun c => { c with
    badW := c.badW.filter (fun w => !(decide (off ≤ w * 4 ∧ w * 4 + 4 ≤ off + d.length)))
    waits := c.waits.map (fun w =>
      if w.hit.isNone && meets off d.length w.off 4 && ofBytes (s.scratch lcore w.off 4) == w.v then { w with hit := some know } else w)
    waitKnow := c.waitKnow.filter (fun e => !meets off d.length (4 * e.1) 4) })

/-- The same for a write that is no completion action. -/
def State.putScratch (s : State) (lcore off : Nat) (d : List Byte) : State := s.putScratchK lcore off d []

/-- Lines that n bytes at an offset touch. -/
def linesOf (off n : Nat) : List Nat := (List.range ((off + n + 63) / 64 - off / 64)).map (fun i => off / 64 + i)

/-- Notes lines or rows that the activation writes (R336). -/
def Lane.noteWrite (l : Lane) (xs : List Nat) : Lane := { l with wrote := xs.foldl nadd l.wrote }

/-- A write of the lane in focus to its core's scratchpad. -/
def State.writeScratch (s : State) (off : Nat) (d : List Byte) : State :=
  (s.putScratch s.lcore off d).onLn (fun l => l.noteWrite (linesOf off d.length))

/-- Do n bytes at an offset overlap what a command still reads or writes (R238)? -/
def Job.overlaps (j : Job) (off n : Nat) : Bool :=
  match j with
  | .mma _ _ m o _ => meets off n o (256 * m)
  | .drain _ _ o _ _ vec left => left.any (fun i => meets off n (o + 4 * i) 4) || vec.any (fun v => meets off n v 512)
  | _ => false

/-- Does an access of the lane in focus overlap what an array command of its own still reads or writes (R238)? -/
def State.drainWaits (s : State) (off n : Nat) : Bool :=
  (s.comb (combOf s.lcore)).queue.any (fun q => q.lane == some s.cur && q.job.any (fun j => j.overlaps off n))

/-- Bit i of the free values from a count on. -/
def freeBit (t i : Nat) : Bool := (Config.freeWord (t + i / 64)).getLsbD (i % 64)

/-- A list's elements apart by free bits. -/
def splitFree {α : Type} (t : Nat) (l : List α) : List α × List α :=
  (((l.zipIdx).filter (fun p => freeBit t p.2)).map (fun p => p.1), ((l.zipIdx).filter (fun p => !freeBit t p.2)).map (fun p => p.1))

/-- Some elements of a list, as free bits say, and the rest: at least one, so that every step gets on (R59, R206). -/
def someFree {α : Type} (t : Nat) (l : List α) : List α × List α :=
  if (splitFree t l).1.isEmpty then (l, []) else splitFree t l

/-- The counter of free values moves on. -/
def State.tickBy (s : State) (n : Nat) : State := { s with tick := s.tick + n }

/-- The aligned 4-byte words of a store, by offset. -/
def storeWords (off : Nat) (d : List Byte) : List (Nat × List Byte) :=
  mapFrom (fun i x => (off + 4 * i, x)) 0 (chunks 4 (d.length / 4) d)

/-- Bytes written to a save region (R336). -/
def Saved.patch (x : Saved) (w : Nat × List Byte) (full : Bool) : Saved :=
  { x with
    bytes := (mapFrom (fun i b => (w.1 + i, b)) 0 w.2).foldl (fun l c => if c.2 = 0 then cellDrop l c.1 else cellPut l c.1 c.2) x.bytes
    full := if full then setRange x.full (w.1 / 4) 1 else x.full }

/-- A word from outside the core: the word, then its full bit where it sets it (R58), and both in the save region (R336). know is what
the word comes after: with its full bit, what an LDF on it does, without, a WAITA on the completion word (R61 edges 5 and 6). -/
def State.putWord (s : State) (lcore : Nat) (full : Bool) (know : Know) (w : Nat × List Byte) : State :=
  (s.putScratchK lcore w.1 w.2 know).onCore lcore (fun c => { c with
    full := if full then setRange c.full (w.1 / 4) 1 else c.full, saved := c.saved.patch w full
    fullKnow := if full then tset c.fullKnow (w.1 / 4) (Know.join (tget c.fullKnow (w.1 / 4) []) know) else c.fullKnow
    waitKnow := if full then c.waitKnow else tset c.waitKnow (w.1 / 4) know })
def State.putWords (s : State) (lcore : Nat) (full : Bool) (know : Know) (ws : List (Nat × List Byte)) : State :=
  ws.foldl (fun s w => s.putWord lcore full know w) s

/-- What an LDF of n bytes at an offset comes after (R61 edge 5). -/
def CoreSt.fullSeen (c : CoreSt) (off n : Nat) : Know :=
  (c.fullKnow.filter (fun e => meets off n (4 * e.1) 4)).foldl (fun k e => Know.join k e.2) []

/-- A core's lines go to its comb's save region (R336). -/
def State.writeBack (s : State) (lcore : Nat) : State :=
  let a := scratchAddr s.kid lcore 0
  let mine := s.mem.cells.filterMap (fun c => if a ≤ c.1 ∧ c.1 < a + 2 ^ 20 then some (c.1 - a, c.2) else none)
  s.onCore lcore (fun c => { c with saved := ⟨mine, c.full, c.acc⟩ })

/-- A scratchpad read at issue: the checks of R201, UNCORR on poison, the wait of R238, then f of the bytes. -/
def State.loadScratch (s : State) (off n al : Nat) (f : List Byte → State → State) : Do :=
  match s.scratchChk off n al with
  | some c => .trap c (BitVec.ofNat 64 off)
  | none =>
    if s.scratchBad s.lcore off n then .trap tUNCORR (BitVec.ofNat 64 off)
    else if s.drainWaits off n then .stay id
    else .ok (f (s.scratch s.lcore off n))

/-- A scratchpad write at issue, after the same wait. -/
def State.storeScratch (s : State) (off al : Nat) (d : List Byte) : Do :=
  match s.scratchChk off d.length al with
  | some c => .trap c (BitVec.ofNat 64 off)
  | none => if s.drainWaits off d.length then .stay id else .ok (fun t => t.writeScratch off d)

/-! Global memory. -/

/-- EA = CURSOR + s[A] + SEXT(IMM) * 64 (R35, R209). -/
def State.ea (s : State) (g : GAddr) : Nat :=
  (BitVec.ofNat 64 (capCursor (s.rC g.c.r)) + s.rS g.a.r + sext g.imm * 64).toNat

/-- The EA of THR on fill, whose offset is IMM[5:0] (R217). -/
def State.eaFill (s : State) (g : GAddr) : Nat :=
  (BitVec.ofNat 64 (capCursor (s.rC g.c.r)) + s.rS g.a.r + sext (g.imm.extractLsb' 0 6) * 64).toNat

/-- The window of a capability over an object, in bytes (R37). -/
def capWindow (c : Cap) (x : Obj) : Nat × Nat :=
  let lo := x.base + capWoff c * 4096
  let hi := x.base + x.len * 4096
  (lo, if capWlen c ≠ 0 ∧ lo + capWlen c * 4096 < hi then lo + capWlen c * 4096 else hi)

/-- The bounds check of R35 and R37 for n bytes at EA; the object when it passes. -/
def State.boundsOf (s : State) (c : Cap) (ea n : Nat) : Option Obj :=
  match s.obj? (capOid c) with
  | none => none
  | some x =>
    let w := capWindow c x
    if 2 ^ 60 ≤ ea ∨ ea < w.1 ∨ w.2 < ea + n then none else some x

/-- Steps 3 to 5 of R40: bounds, right, type and owner (ty), alignment; then the range of R284, which an access of no
bytes does not need. -/
def State.access (s : State) (c : Cap) (ea n right : Nat) (aligned : Bool) (ty : Obj → Option Nat) : Except Nat Obj :=
  match s.boundsOf c ea n with
  | none => .error tCAPBOUND
  | some x =>
    if !capHas c right then .error tCAPRIGHT
    else match ty x with
      | some code => .error code
      | none =>
        if !aligned then .error tALIGN
        else if n != 0 && (ownAt s.k.owns (ea / 4096)).isNone then .error tPAGEFAULT
        else .ok x

/-- A global access at issue: its trap with VA = EA, or what it does. -/
def State.reach (s : State) (c : Cap) (ea n right : Nat) (aligned : Bool) (ty : Obj → Option Nat) (f : Obj → Do) : Do :=
  match s.access c ea n right aligned ty with
  | .error code => .trap code (BitVec.ofNat 64 ea)
  | .ok x => f x

/-- Does the access go through c15 to the record's own frame (R94)? (DEDUCED, log entry 61). -/
def State.ownFrame (s : State) (c : CReg) : Bool := c.val == 15 && capOid (s.rC c) == capOid s.rec_.f.frame

/-- Type and owner of an exclusive access (R39, R47). -/
def State.exclTy (s : State) (c : CReg) (x : Obj) : Option Nat :=
  if x.ty ≠ .excl then some tTYPEMIS
  else if x.owner ≠ s.gid ∧ !s.ownFrame c then some tEXCLOWN
  else none

/-- LDX and STX also reach mmio objects with 32 or 64 bits, in a service context (R296). -/
def State.exclOrMmio (s : State) (c : CReg) (w : Wd) (x : Obj) : Option Nat :=
  if x.ty = .mmio then (if s.k.service ∧ (w = .w32 ∨ w = .w64) then none else some tTYPEMIS)
  else s.exclTy c x

/-- The families of Table 2-4. -/
inductive Family where
  | join | thr | thrf | exact | cap
  deriving DecidableEq, Repr

/-- Types that a family may access at all (Table 2-4). -/
def familyOk (f : Family) (t : LTy) : Bool :=
  match f with
  | .join | .exact | .cap => 1 ≤ ltyNum t && ltyNum t ≤ 11
  | .thr => 1 ≤ ltyNum t && ltyNum t ≤ 10
  | .thrf => t == .fill || t == .lap

/-- Type and width of a lattice access (R39, R45). -/
def State.latTy (s : State) (f : Family) (t : LTy) (w : Wd) (x : Obj) : Option Nat :=
  if !familyOk f t || x.ty != t || x.wc != w then some tTYPEMIS
  else if t == .arr && !s.ndok then some tNDMODE
  else none

/-- Bytes of an element. -/
def wdBytes (w : Wd) : Nat := wdBits w / 8

end Sys2Proof.Machine
end

