-- ==== Sys2Proof/Machine/Scalar.lean ====
section
/-!
DEFINITION. Majors 0x01 to 0x03 and 0x08 to 0x0F: integer arithmetic, logic, bit operations and immediate forms
(R154 to R157).
-/

namespace Sys2Proof.Machine

/-- An instruction that only writes a scalar register. -/
def opS (i : Instr) (d : SReg) (x : Word) (s : State) : Host.Outcome State Fault Refusal :=
  issue i s (.ok (fun t => t.wS d x))

/-- Truth as a doubleword. -/
def wordOf (b : Bool) : Word := if b then 1 else 0

def execAdd (d : SReg) (a b : SSrc) (s : State) := opS (.add d a b) d (s.rS a.r + s.rS b.r) s
def execSub (d : SReg) (a b : SSrc) (s : State) := opS (.sub d a b) d (s.rS a.r - s.rS b.r) s
def execMul (d : SReg) (a b : SSrc) (s : State) := opS (.mul d a b) d (s.rS a.r * s.rS b.r) s
/-- The high half of the signed product. -/
def execMulh (d : SReg) (a b : SSrc) (s : State) :=
  opS (.mulh d a b) d (BitVec.ofInt 64 ((s.rS a.r).toInt * (s.rS b.r).toInt / 2 ^ 64)) s
def execMulhn (d : SReg) (a b : SSrc) (s : State) :=
  opS (.mulhn d a b) d (BitVec.ofNat 64 ((s.rS a.r).toNat * (s.rS b.r).toNat / 2 ^ 64)) s
/-- Division by zero gives all ones (R70). -/
def execDiv (d : SReg) (a b : SSrc) (s : State) :=
  opS (.div d a b) d (if s.rS b.r = 0 then BitVec.allOnes 64 else (s.rS a.r).sdiv (s.rS b.r)) s
def execDivn (d : SReg) (a b : SSrc) (s : State) :=
  opS (.divn d a b) d (if s.rS b.r = 0 then BitVec.allOnes 64 else s.rS a.r / s.rS b.r) s
/-- The remainder of a division by zero is the dividend (R70). -/
def execRem (d : SReg) (a b : SSrc) (s : State) :=
  opS (.rem d a b) d (if s.rS b.r = 0 then s.rS a.r else (s.rS a.r).srem (s.rS b.r)) s
def execRemn (d : SReg) (a b : SSrc) (s : State) :=
  opS (.remn d a b) d (if s.rS b.r = 0 then s.rS a.r else s.rS a.r % s.rS b.r) s
def execMin (d : SReg) (a b : SSrc) (s : State) :=
  opS (.min d a b) d (if (s.rS a.r).slt (s.rS b.r) then s.rS a.r else s.rS b.r) s
def execMax (d : SReg) (a b : SSrc) (s : State) :=
  opS (.max d a b) d (if (s.rS a.r).slt (s.rS b.r) then s.rS b.r else s.rS a.r) s
def execMinn (d : SReg) (a b : SSrc) (s : State) :=
  opS (.minn d a b) d (if (s.rS a.r).ult (s.rS b.r) then s.rS a.r else s.rS b.r) s
def execMaxn (d : SReg) (a b : SSrc) (s : State) :=
  opS (.maxn d a b) d (if (s.rS a.r).ult (s.rS b.r) then s.rS b.r else s.rS a.r) s
/-- -2^63 gives -2^63. -/
def execAbs (d : SReg) (a : SSrc) (s : State) :=
  opS (.abs d a) d (if (s.rS a.r).slt 0 then -(s.rS a.r) else s.rS a.r) s

def execAnd (d : SReg) (a b : SSrc) (s : State) := opS (.and d a b) d (s.rS a.r &&& s.rS b.r) s
def execOr (d : SReg) (a b : SSrc) (s : State) := opS (.or d a b) d (s.rS a.r ||| s.rS b.r) s
def execXor (d : SReg) (a b : SSrc) (s : State) := opS (.xor d a b) d (s.rS a.r ^^^ s.rS b.r) s
def execAndn (d : SReg) (a b : SSrc) (s : State) := opS (.andn d a b) d (s.rS a.r &&& ~~~(s.rS b.r)) s
/-- Shift amounts are b[5:0]. -/
def shiftAmt (x : Word) : Nat := x.toNat % 64
def execShl (d : SReg) (a b : SSrc) (s : State) := opS (.shl d a b) d (s.rS a.r <<< shiftAmt (s.rS b.r)) s
def execShr (d : SReg) (a b : SSrc) (s : State) := opS (.shr d a b) d (s.rS a.r >>> shiftAmt (s.rS b.r)) s
def execSra (d : SReg) (a b : SSrc) (s : State) := opS (.sra d a b) d ((s.rS a.r).sshiftRight (shiftAmt (s.rS b.r))) s
def execRol (d : SReg) (a b : SSrc) (s : State) := opS (.rol d a b) d ((s.rS a.r).rotateLeft (shiftAmt (s.rS b.r))) s
def execSlt (d : SReg) (a b : SSrc) (s : State) := opS (.slt d a b) d (wordOf ((s.rS a.r).slt (s.rS b.r))) s
def execSltn (d : SReg) (a b : SSrc) (s : State) := opS (.sltn d a b) d (wordOf ((s.rS a.r).ult (s.rS b.r))) s
def execSeq (d : SReg) (a b : SSrc) (s : State) := opS (.seq d a b) d (wordOf (s.rS a.r == s.rS b.r)) s
def execSne (d : SReg) (a b : SSrc) (s : State) := opS (.sne d a b) d (wordOf (s.rS a.r != s.rS b.r)) s
/-- Selects by the old value of the destination. -/
def execCsel (d : SReg) (a b : SSrc) (s : State) :=
  opS (.csel d a b) d (if s.rS d ≠ 0 then s.rS a.r else s.rS b.r) s

def execClz (d : SReg) (a : SSrc) (s : State) := opS (.clz d a) d (BitVec.ofNat 64 (leadZeros 64 (s.rS a.r).toNat)) s
def execCtz (d : SReg) (a : SSrc) (s : State) := opS (.ctz d a) d (BitVec.ofNat 64 (firstSet 64 0 (s.rS a.r).toNat)) s
def execPopc (d : SReg) (a : SSrc) (s : State) := opS (.popc d a) d (BitVec.ofNat 64 (popCount 64 (s.rS a.r).toNat)) s
def execBrev (d : SReg) (a : SSrc) (s : State) := opS (.brev d a) d (BitVec.ofNat 64 (revBits 64 (s.rS a.r).toNat)) s
def execBswap (d : SReg) (a : SSrc) (s : State) := opS (.bswap d a) d (BitVec.ofNat 64 (revBytes 8 (s.rS a.r).toNat)) s
def execExts (d : SReg) (a : SSrc) (k : Fin 64) (s : State) :=
  opS (.exts d a k) d (((s.rS a.r).extractLsb' 0 (k.val + 1)).signExtend 64) s
def execExtz (d : SReg) (a : SSrc) (k : Fin 64) (s : State) :=
  opS (.extz d a k) d (((s.rS a.r).extractLsb' 0 (k.val + 1)).setWidth 64) s

def execAddi (d : SReg) (a : SSrc) (imm : BitVec 12) (s : State) := opS (.addi d a imm) d (s.rS a.r + sext imm) s
def execAndi (d : SReg) (a : SSrc) (imm : BitVec 12) (s : State) := opS (.andi d a imm) d (s.rS a.r &&& sext imm) s
def execOri (d : SReg) (a : SSrc) (imm : BitVec 12) (s : State) := opS (.ori d a imm) d (s.rS a.r ||| sext imm) s
def execXori (d : SReg) (a : SSrc) (imm : BitVec 12) (s : State) := opS (.xori d a imm) d (s.rS a.r ^^^ sext imm) s
def execShli (d : SReg) (a : SSrc) (n : Fin 64) (s : State) := opS (.shli d a n) d (s.rS a.r <<< n.val) s
def execShri (d : SReg) (a : SSrc) (n : Fin 64) (s : State) := opS (.shri d a n) d (s.rS a.r >>> n.val) s
def execSrai (d : SReg) (a : SSrc) (n : Fin 64) (s : State) := opS (.srai d a n) d ((s.rS a.r).sshiftRight n.val) s
def execSlti (d : SReg) (a : SSrc) (imm : BitVec 12) (s : State) :=
  opS (.slti d a imm) d (wordOf ((s.rS a.r).slt (sext imm))) s
def execMovhi (d : SReg) (imm : BitVec 19) (s : State) := opS (.movhi d imm) d (sext imm <<< 12) s
/-- PC is the address of the ADDPC itself. -/
def execAddpc (d : SReg) (imm : BitVec 19) (s : State) := opS (.addpc d imm) d (s.ln.pc + sext imm * 4) s

end Sys2Proof.Machine
end

