-- ==== Sys2Proof/Machine/System.lean ====
section
/-!
DEFINITION. Major 0x06: special registers (R32, R168, R169), TRAP and TRET (R170, R171), and the privileged registers
of Tables 16-7, 17-1, 18-3 and 19-7 (R172, R297, R304, R330, R355).
-/

namespace Sys2Proof.Machine

/-- Has the lane array commands that have not completed (R168, R324)? -/
def State.commandsOf (s : State) (l : Nat) : Bool := (s.comb (combOf (l / 8))).queue.any (fun q => q.lane == some l)

/-- The special registers of Table 1-5. -/
def State.special (s : State) (n : Nat) : Word :=
  match n with
  | 0 => BitVec.ofNat 64 s.ln.task
  | 1 => BitVec.ofNat 64 s.gid
  | 2 => BitVec.ofNat 64 s.lcore
  | 3 => BitVec.ofNat 64 s.lcount
  | 4 => BitVec.ofNat 64 (s.lcore / 2048)
  | 5 => BitVec.ofNat 64 s.npkg
  | 6 => BitVec.ofNat 64 (s.timeAt s.lcore)
  | 7 => BitVec.ofNat 64 (s.cyc - (s.pkg (s.pkgOf s.lcore)).cyc0)
  | 8 => s.rec_.f.deadline
  | 9 => s.ln.budg
  | 10 => BitVec.ofNat 64 s.rec_.f.cls
  | 11 => s.ln.fpc
  | 12 => s.ln.flags
  | 13 => s.ln.nf
  | 24 => lget s.seed 0 0
  | 25 => lget s.seed 1 0
  | 26 => lget s.seed 2 0
  | 27 => lget s.seed 3 0
  | 28 => s.ln.trapc
  | 29 => s.ln.trappc
  | 30 => s.ln.trapva
  | 31 => BitVec.ofNat 64 s.laneNo
  | 32 => BitVec.ofNat 64 s.valloc
  | 33 => s.part.zeroExtend 64
  | 34 => s.modeBits.zeroExtend 64
  | n => if 16 ≤ n ∧ n ≤ 23 then (lget s.ln.fmt.toList (n - 16) 0).zeroExtend 64 else 0

/-- MFS; a read of FLAGS waits for the lane's array commands. -/
def execMfs (d : SReg) (n : Fin 64) (s : State) : Host.Outcome State Fault Refusal :=
  issue (.mfs d n) s (if n.val = 12 ∧ s.commandsOf s.cur then .stay id else .ok (fun t => t.wS d (s.special n.val)))

/-- What MTS writes. -/
def Lane.setSpecial (l : Lane) (n : Nat) (x : Word) : Lane :=
  match n with
  | 11 => { l with fpc := x &&& fpcMask }
  | 12 => { l with flags := x &&& flagsMask }
  | 13 => { l with nf := x &&& nfMask }
  | _ => l

/-- MTS to FPC, FLAGS or NF; issue has refused every other register. -/
def execMts (n : Fin 64) (a : SSrc) (s : State) : Host.Outcome State Fault Refusal :=
  issue (.mts n a) s (if n.val = 12 ∧ s.commandsOf s.cur then .stay id
    else .ok (fun t => t.onLn (fun l => l.setSpecial n.val (s.rS a.r))))

def execTrap (a : SSrc) (s : State) : Host.Outcome State Fault Refusal := issue (.trap a) s (.trap tSWTRAP (s.rS a.r))

/-- TRET releases the record that the handler activation received. -/
def execTret (a : SSrc) (s : State) : Host.Outcome State Fault Refusal :=
  issue (.tret a) s (if s.ln.trapc = 0 ∨ s.ln.tret then .trap tILLEGAL 0
    else s.effect (.tret (s.rec_.handles.getD 0) (s.rS a.r)) .relaxed (fun t => t.onLn (fun l => { l with tret := true })))

/-! Privileged registers. -/

/-- The counted unit that BKSEL names, as a key of Pkg.counters: kind, die, place, bank (R330). -/
def unitKey (kind die place bank : Nat) : Nat := ((kind * 8 + die) * 64 + place) * 32 + bank
def State.bkKey (s : State) : Nat :=
  let v := s.k.bksel.toNat
  unitKey (v % 4) (v / 4 % 8) (v / 32 % 64) (v / 2048 % 32)

/-- Neighbours of a physical comb, as die * 64 + comb (R331). -/
def neighbours (x : Nat) : List Nat :=
  let die := x / 64
  let r := x % 64 / 8
  let c := x % 8
  let up := if r ≠ 0 then [die * 64 + (r - 1) * 8 + c] else if 4 ≤ die then [(die - 4) * 64 + 56 + c] else []
  let down := if r ≠ 7 then [die * 64 + (r + 1) * 8 + c] else if die < 4 then [(die + 4) * 64 + c] else []
  let left := if c ≠ 0 then [die * 64 + r * 8 + c - 1] else if die % 4 ≠ 0 then [(die - 1) * 64 + r * 8 + 7] else []
  let right := if c ≠ 7 then [die * 64 + r * 8 + c + 1] else if die % 4 ≠ 3 then [(die + 1) * 64 + r * 8] else []
  up ++ down ++ left ++ right

def Pkg.wagOf (p : Pkg) (x : Nat) : Wag := tget p.wag x Wag.init

/-- A neighbour is live while it is not FENCED (R331). -/
def Pkg.liveNb (p : Pkg) (x : Nat) : List Nat := (neighbours x).filter (fun y => (p.wagOf y).st != .fenced)

def wagNum : WagState → Nat
  | .active => 0 | .fenced => 1 | .selftest => 2 | .appeal => 3 | .readmitted => 4

/-- WGSTAT of a comb at a time: appeals are counted over the preceding hour (R334). -/
def Pkg.wgstat (p : Pkg) (x time : Nat) : Nat :=
  let w := p.wagOf x
  let ap := (w.appeals.filter (fun t => decide (time < t + 3600000000000))).length
  wagNum w.st + 8 * (w.accusers.filter (fun e => e.1 / 512 == e.1 % 512)).length + 128 * (p.liveNb x).length + 1024 * min ap 3

/-- Fields of a port as LNKSTAT shows them (Table 19-7). -/
def Port.status (p : Port) : Nat := p.st + 4 * p.lanes.toNat + 1024 * p.peer.toNat

/-- Die mask of the context (CTXCFG). -/
def State.dieMask (s : State) : Nat := (2 ^ s.ndies - 1) * 2 ^ s.k.d0

/-- A quadword of a wide value. -/
def quad {n : Nat} (x : BitVec n) (j : Nat) : Word := x.extractLsb' (64 * j) 64

/-- Messages in the spill queues of a package (Table 17-1). -/
def State.spilled (s : State) (pkg : Nat) : Nat :=
  ((s.k.cores.filter (fun e => s.pkgOf e.1 == pkg)).map (fun e => e.2.spill.length)).sum

/-- SYSRD of a register that exists; none for another number. pkg is the issuing core's package
(DESIGN CHOICE, log entry 10). -/
def State.sysReg (s : State) (r : Nat) : Option Word :=
  let pk := s.pkgOf s.lcore
  let p := s.pkg pk
  let num (n : Nat) : Option Word := some (BitVec.ofNat 64 n)
  match r with
  | 0x00 => num (s.k.num % 8 + 8 * s.dieMask + 2048 * s.k.logn + if s.k.service then 8192 else 0)
  | 0x01 => some (s.k.fnmode.zeroExtend 64)
  | 0x02 => some s.k.otver
  | 0x03 => some s.k.rmver
  | 0x04 => some s.k.stver
  | 0x05 => some s.k.slottab
  | 0x06 => num (s.oidFree (s.lcore / 2048))
  | 0x07 => num (tget s.k.fltcnt pk 0)
  | 0x08 => some s.k.flogHead
  | 0x09 => some s.k.flogLost
  | 0x0A => some s.k.flogCons
  | 0x10 => some s.k.rsvlo
  | 0x11 => some s.k.rsvhi
  | 0x12 => some s.k.precls
  | 0x13 => some s.k.grpcls
  | 0x14 => some s.k.dlmiss
  | 0x15 => some s.k.ovq
  | 0x16 => num (s.spilled pk)
  | 0x20 => some p.bkcfgb
  | 0x21 => some p.bkcfgl
  | 0x22 => some p.bkcfgc
  | 0x23 => some s.k.bksel
  | 0x24 =>
    let c := tget p.counters s.bkKey ⟨0, false, 0⟩
    num (c.val + if c.mark then 65536 else 0)
  | 0x25 => some p.wgrate
  | 0x26 => if s.k.bksel.toNat % 4 = 2 then num (p.wgstat (s.k.bksel.toNat / 4 % 8 * 64 + s.k.bksel.toNat / 32 % 64) s.time)
    else some (Config.freeWord s.tick &&& 0xFFF)
  | 0x30 => some s.k.lnksel
  | 0x31 => num (tget p.ports s.k.lnksel.toNat Port.init).status
  | 0x32 => num ((if p.locked then 1 else 0) + (if p.holdover then 2 else 0) + 256 * p.domain.toNat
      + 2 ^ 32 * p.offset.toNat)
  | 0x33 => some p.pwrcap
  | 0x34 => num p.clock
  | 0x124 => num ((if s.k.attBusy.isSome then 1 else 0) + (if s.k.attDone then 2 else 0) + if s.k.attFinal then 4 else 0)
  | r =>
    if 0x100 ≤ r ∧ r < 0x120 then some (quad s.k.manifest (r - 0x100))
    else if 0x120 ≤ r ∧ r < 0x124 then some (lget s.k.attNonce (r - 0x120) 0)
    else if 0x128 ≤ r ∧ r < 0x134 then some (quad s.k.attSig (r - 0x128))
    else if 0x400 ≤ r ∧ r < 0x800 then some (tget s.k.tttab (r - 0x400) 0)
    else none

/-- SYSRD; the counter of free values moves on (DESIGN CHOICE, log entry 6). -/
def execSysrd (d : SReg) (a : SSrc) (s : State) : Host.Outcome State Fault Refusal :=
  issue (.sysrd d a) s (match s.sysReg ((s.rS a.r).toNat % 65536) with
    | none => .trap tILLEGAL 0
    | some x => .ok (fun t => { t with tick := t.tick + 1 }.wS d x))

/-- Reserve of a class in RSVLO and RSVHI (Table 17-1). -/
def resvOf (lo hi : Word) (c : Nat) : Nat :=
  if c < 8 then lo.toNat / 2 ^ (8 * c) % 64 else hi.toNat / 2 ^ (8 * (c - 8)) % 64

def resvSum (lo hi : Word) : Nat := ((List.range 16).map (resvOf lo hi)).sum

/-- Bits [7:6] of every byte, which RSVLO and RSVHI keep zero. -/
def resvBad (v : Word) : Bool := v &&& 0xC0C0C0C0C0C0C0C0 != 0

/-- Lanes of a logical comb (R302). -/
def State.combLanes (s : State) : Nat := 4 * s.lanesOn

/-- A field of FNMODE that a write may not set: 3 anywhere, 2 outside OV and TT (R298). -/
def fnmodeBad (v : Nat) : Bool :=
  4096 ≤ v || (List.range 6).any (fun k => v / 4 ^ k % 4 == 3 || (v / 4 ^ k % 4 == 2 && k != 2 && k != 5))

/-- An entry of SLOTTAB is a core or free (Table 16-7). -/
def slottabBad (v : Nat) : Bool := 2 ^ 48 ≤ v || (List.range 16).any (fun k => 5 ≤ v / 8 ^ k % 8)

/-- BKSEL's reserved encodings (Table 18-3). -/
def bkselBad (v : Nat) : Bool :=
  65536 ≤ v || v % 4 == 3 || (v % 4 != 0 && v / 2048 != 0) || (v % 4 == 1 && 32 ≤ v / 32 % 64)

/-- Does a SYSWR of value v to register r raise ILLEGAL (R172, R297, R299, R304, R317, R330, R355)? R7 would ignore a
reserved field of a privileged register, R297 raises ILLEGAL for one that is set: R297 is taken (DESIGN CHOICE, log
entry 67). -/
def State.sysBad (s : State) (r : Nat) (v : Word) : Bool :=
  let x := v.toNat
  match r with
  | 0x01 => fnmodeBad x
  | 0x05 => slottabBad x
  | 0x0A => v.ult s.k.flogCons || s.k.flogHead.ult v
  | 0x10 => resvBad v || s.combLanes < resvSum v s.k.rsvhi
  | 0x11 => resvBad v || s.combLanes < resvSum s.k.rsvlo v
  | 0x12 => 32 ≤ x
  | 0x13 => 2 ^ 37 ≤ x
  | 0x20 | 0x21 | 0x22 => 2 ^ 48 ≤ x || s.k.logn != 3
  | 0x23 => bkselBad x
  | 0x25 => 65536 ≤ x || s.k.logn != 3
  | 0x30 => 32 ≤ x
  | 0x33 => 4096 ≤ x || s.k.logn != 3
  | 0x124 => 8 ≤ x
  | r =>
    if 0x120 ≤ r ∧ r < 0x124 then false
    else if 0x400 ≤ r ∧ r < 0x800 then r % 4 == 3 && (8 ≤ x || x / 2 == 3)
    else true

def execSyswr (a b : SSrc) (s : State) : Host.Outcome State Fault Refusal :=
  let r := (s.rS a.r).toNat % 65536
  issue (.syswr a b) s (if s.sysBad r (s.rS b.r) then .trap tILLEGAL 0
    else s.effect (.syswr r (s.rS b.r)) .relaxed id)

end Sys2Proof.Machine
end

