-- ==== Sys2Proof/Machine/Posts.lean ====
section
/-!
DEFINITION. What the device posts: completion entries (R320), events to the Skep (R307, R318, R334), and fault
counters with their marks (R329); where logical lanes and combs lie (R23).
-/

namespace Sys2Proof.Machine

/-- A completion entry of 32 bytes: command id, status, time-triggered entry, and three quadwords (R320). -/
def cqEntry (cmd status : Nat) (tt : Option Nat) (a b c : Nat) : BitVec 256 :=
  BitVec.ofNat 256 (cmd % 2 ^ 16 + status % 256 * 2 ^ 16 + tt.getD 0xFFFFFFFF % 2 ^ 32 * 2 ^ 32 + a % 2 ^ 64 * 2 ^ 64 +
    b % 2 ^ 64 * 2 ^ 128 + c % 2 ^ 64 * 2 ^ 192)

/-- Queues a completion entry; it is posted when the ring has room (R347). -/
def State.complete (s : State) (e : BitVec 256) : State :=
  s.onK (fun k => { k with host := { k.host with waiting := k.host.waiting ++ [e] } })

/-- Posts an event on a package. -/
def State.post (s : State) (pkg : Nat) (e : Posted) : State := s.onPkg pkg (fun p => { p with posted := p.posted ++ [e] })

/-- A unit's package, its key among the counters, and its configuration (R329, R330). -/
def unitPkg : FaultUnit → Nat
  | .bank p .. => p
  | .serdes p .. => p
  | .comb p .. => p
def unitNo : FaultUnit → Nat
  | .bank _ d c b => unitKey 0 d c b
  | .serdes _ d l => unitKey 1 d l 0
  | .comb _ d c => unitKey 2 d c 0
def Pkg.unitCfg (p : Pkg) : FaultUnit → Nat
  | .bank .. => p.bkcfgb.toNat
  | .serdes .. => p.bkcfgl.toNat
  | .comb .. => p.bkcfgc.toNat

/-- Fields of BKCFG registers (Table 18-3). -/
def cfgWC (v : Nat) : Nat := v % 256
def cfgWU (v : Nat) : Nat := v / 256 % 256
def cfgInterval (v : Nat) : Nat := v / 65536 % 65536
def cfgMark (v : Nat) : Nat := v / 2 ^ 32 % 65536

/-- Adds to a counter; its rise to MARK sets the flag and posts an event (R329). -/
def State.bump (s : State) (u : FaultUnit) (uncorrectable : Bool) : State :=
  let p := s.pkg (unitPkg u)
  let cfg := p.unitCfg u
  let c := tget p.counters (unitNo u) ⟨0, false, 0⟩
  let v := min 65535 (c.val + if uncorrectable then cfgWU cfg else cfgWC cfg)
  let hit := !c.mark && decide (c.val < cfgMark cfg) && decide (cfgMark cfg ≤ v)
  let s := s.onPkg (unitPkg u) (fun p => { p with counters := tset p.counters (unitNo u) { c with val := v, mark := c.mark || hit } })
  if hit then s.post (unitPkg u) (.mark u) else s

/-- FAULT_COUNTER_LEAK: one less each interval; below half of MARK the flag clears (R329). -/
def execFaultCounterLeak (u : FaultUnit) (s : State) : Host.Outcome State Fault Refusal :=
  let p := s.pkg (unitPkg u)
  let cfg := p.unitCfg u
  let c := tget p.counters (unitNo u) ⟨0, false, 0⟩
  event s (thas s.hw (unitPkg u) && cfgInterval cfg != 0 && c.val != 0 && decide (c.last + 1000 * cfgInterval cfg ≤ s.time))
    (s.onPkg (unitPkg u) (fun p => { p with
      counters := tset p.counters (unitNo u) ⟨c.val - 1, c.mark && decide (cfgMark cfg / 2 ≤ c.val - 1), s.time⟩ }))

/-! Where lanes and combs lie. -/

/-- Package (index in the launch) and comb number of a lane. -/
def lanePkg (l : Nat) : Nat := l / 8 / 2048
def laneComb (l : Nat) : Nat := l / 32

/-- May a logical comb run: is its physical comb neither fenced nor under test (R334)? -/
def State.combUp (s : State) (comb : Nat) : Bool :=
  let x := s.placeOf comb
  ((s.pkg x.1).wagOf x.2).st == .active

/-- Is what a logical comb sends held by the neighbour whose router it goes through: does that neighbour's own accusation of the
comb's host stand (R332)? Which neighbour that is stands open, by a number of the flit or the read (DESIGN CHOICE, log entry 51). -/
def State.muted (s : State) (comb n : Nat) : Bool :=
  let x := s.placeOf comb
  let p := s.pkg x.1
  let w := p.wagOf x.2
  let nb := p.liveNb x.2
  let y := lget nb (Config.hop n % nb.length) 512
  !w.accusers.isEmpty && (tget? w.accusers (y * 512 + y)).any (fun e => decide (s.time < e.2))

/-- The same for what an engine of a comb reads, by a number of the read. -/
def State.engineMuted (s : State) (comb n : Nat) : Bool := s.muted comb (2 * (2 ^ 96 + n) + 1)

/-- Does a logical comb run: in its slice (R24), and its host not fenced (R335)? -/
def State.combRuns (s : State) (comb : Nat) : Bool := s.inSlice comb && s.combUp comb

end Sys2Proof.Machine
end

