-- ==== Sys2Proof/Machine/Holds.lean ====
section
/-!
DEFINITION. Which effects on their way hold others back (R48, R60, R61, R65, R210, R227, R357): an effect applies at
its home only when nothing holds it.
-/

namespace Sys2Proof.Machine

/-- TWE payload and completion words: the engine's own, and no effect of the task that started the channel. -/
def Eff.engine : Eff → Bool
  | .payload .. => true
  | _ => false

/-- Neither applied nor given up. -/
def Flit.pending (f : Flit) : Bool := !f.done && !f.lost

/-- Effects of a task, sent before number id, that are not applied; those in a side log count (R61, R212). -/
def State.undone (s : State) (task id : Nat) (p : Flit → Bool) : Bool :=
  s.k.flits.any (fun f => f.pending && f.task == task && !f.e.eff.engine && decide (f.id < id) && p f) ||
    s.k.sideLog.any (fun g => g.f.task == task && !g.f.e.eff.engine && decide (g.f.id < id) && p g.f)

/-- Do an effect's bytes meet n bytes at va? -/
def effMeets (e : Eff) (va n : Nat) : Bool :=
  match effSpan e with
  | some (a, k) => decide (a < va + n) && decide (va < a + k)
  | none => false

def isStore : Eff → Bool
  | .store .. | .storeCap .. => true
  | _ => false
def isJoin : Eff → Bool
  | .join .. => true
  | _ => false

/-- Is the page of an address of memory type 2 or 3 (R65)? -/
def State.device (s : State) (va : Nat) : Bool :=
  match s.translate va with
  | .at _ _ mt => 2 ≤ mt
  | _ => false

/-- An effect on a device page is .sc at SYS (R65). -/
def State.deviceEff (s : State) (e : Eff) : Bool :=
  match effSpan e with
  | some (va, _) => s.device va
  | none => false

/-- Is the page of an address write-combining (R65)? -/
def State.combining (s : State) (va : Nat) : Bool :=
  match s.translate va with
  | .at _ _ mt => mt == 1
  | _ => false

/-- Effects that apply after every earlier effect of their task, whatever their order says (R172, R218, R227, R357). -/
def ordered : Eff → Bool
  | .spawn .. | .msg _ | .twgo .. | .twperm .. | .barr .. | .syswr .. | .watch _ | .bwait .. | .twwait .. => true
  | _ => false

def ordStrong : Ord → Bool
  | .rel _ | .sc _ => true
  | _ => false
def ordSc : Ord → Bool
  | .sc _ => true
  | _ => false

/-- Does an effect leave its comb, through a neighbour's router? The node of a barrier stands at its instance's first core. -/
def Flit.leaves (f : Flit) : Bool :=
  let far (l : Nat) : Bool := combOf l != combOf f.lcore
  match f.e.eff with
  | .words .. | .window .. | .twgo .. | .twperm .. => false
  | .msg m => far m.dst
  | .payload _ _ (.scratch l ..) => far l
  | .barr l _ sc _ => far (scopeFirst sc l)
  | _ => true

/-- Does a neighbour of its comb hold an effect (R332)? -/
def State.mutedFlit (s : State) (f : Flit) : Bool := f.task != 0 && f.leaves && s.muted (combOf f.lcore) (2 * f.id)

/-- Does anything hold an effect back: order, with the steps that end or start at a read (R61 edge 1), or a neighbour of its comb,
which holds what an accused comb sends through it (R332)? -/
def State.held (s : State) (f : Flit) : Bool :=
  let any := s.undone f.task f.id
  s.mutedFlit f || any (fun g => decide (g.id < f.after)) || (if ordered f.e.eff || ordStrong f.e.ord || s.deviceEff f.e.eff then any (fun _ => true)
    else any (fun g => ordSc g.e.ord || s.deviceEff g.e.eff)) ||
  match f.e.eff with
  | .store va d _ => !s.combining va && any (fun g => isStore g.e.eff && effMeets g.e.eff va d.length)
  | .storeCap va _ _ => !s.combining va && any (fun g => isStore g.e.eff && effMeets g.e.eff va 16)
  | .cap _ _ va _ => any (fun g => isJoin g.e.eff && effMeets g.e.eff va 4096)
  | .words l _ _ => any (fun g => match g.e.eff with
    | .words l' .. => l == l'
    | _ => false)
  | .msg m => s.k.flits.any (fun g => g.pending && decide (g.id < f.id) && match g.e.eff with
    | .msg m' => m'.src == m.src && m'.dst == m.dst && m'.cls == m.cls
    | _ => false)
  | _ => false

/-- Does an earlier effect of the lane's own task hold a read of n bytes back (R61 edge 1)? A read of a device page waits for
every effect of the task on such a page that is on its way (R65; DEDUCED, log entry 70). -/
def State.readHeld (s : State) (task va n : Nat) : Bool :=
  s.undone task s.k.nextFlit (fun g => effMeets g.e.eff va n || (s.device va && s.deviceEff g.e.eff))

/-- Does a hold set keep the tags of an activation, named by task and ACTN[21:0]? The hold set of a comb that is fenced comes before
a tag of an activation that is ACTIVE on it goes (R328). -/
def State.heldAct (s : State) (act : Nat) : Bool :=
  let r := s.record (act / 2 ^ 22)
  (tget? s.k.holds (act / 2 ^ 22)).any (fun a => a % 2 ^ 22 == act % 2 ^ 22) || (match r.st with
    | .active l => !s.combUp (laneComb l)
    | _ => false) && r.f.actn % 2 ^ 22 == act % 2 ^ 22

/-- Accepts a tag, with the time (R99). -/
def State.noteTag (s : State) (tag : Nat) : State := s.onK (fun k => { k with accepted := tset k.accepted tag s.time })
def State.acceptTag (s : State) (f : Flit) : State := s.noteTag (tagOf f.task f.actn f.e.seq)

/-- Has a tag been accepted within the last 40 us, or does a hold set keep it (R99, R328)? -/
def State.tagKnown (s : State) (tag : Nat) : Bool :=
  (tget? s.k.accepted tag).any (fun t => decide (s.time ≤ t + 40000) || s.heldAct (tag / 2 ^ 20))
def State.tagSeen (s : State) (f : Flit) : Bool := s.tagKnown (tagOf f.task f.actn f.e.seq)

/-- The effect with a number, while it is on its way. -/
def State.flit? (s : State) (id : Nat) : Option Flit := s.k.flits.find? (fun f => f.id == id)

/-- Changes an effect on its way. -/
def State.onFlit (s : State) (id : Nat) (g : Flit → Flit) : State :=
  s.onK (fun k => { k with flits := k.flits.map (fun f => if f.id = id then g f else f) })

/-- The effect with a number, when it is pending, not dropped on its way, and nothing holds it. -/
def State.due? (s : State) (id : Nat) : Option Flit :=
  match s.flit? id with
  | some f => if f.pending && !f.stop && !s.held f then some f else none
  | none => none

end Sys2Proof.Machine
end

