-- ==== Sys2Proof/Machine/Know.lean ====
section
/-!
DEFINITION. What comes before what (R61, R120, R121, R356, R357): what an effect comes after when it is applied, the effects that
release, and what a read that acquires gains by what it returns on.
-/

namespace Sys2Proof.Machine

/-- Changes of a line of lattice memory so far (R57). -/
def State.changes (s : State) (line : Nat) : Nat := (tget s.k.copies line []).length

/-- Effects of its task numbered below come before an effect (R61 edge 1, R357). -/
def State.reachOf (s : State) (f : Flit) : Nat :=
  if ordered f.e.eff || ordStrong f.e.ord || s.deviceEff f.e.eff then f.id else f.after

/-- Does a cap reach a line (R61 edge 1)? -/
def Eff.capsLine (e : Eff) (line : Nat) : Bool :=
  match e with
  | .cap _ _ va len => decide (va < 64 * line + 64 ∧ 64 * line < va + len)
  | _ => false

/-- What an effect comes after: what reads before it have shown, and the joins of its task that come before it. -/
def State.knowOf (s : State) (f : Flit) : Know :=
  ((s.record f.task).own.filter (fun o => decide (o.1 < s.reachOf f) || (decide (o.1 < f.id) && f.e.eff.capsLine o.2.2.1))).foldl
    (fun k o => Know.see k o.2.2.1 o.2.2.2) f.e.know

/-- The scope at which an effect releases (R61 edges 2 and 3, R65). -/
def State.relScope (s : State) (f : Flit) : Option Scope :=
  match f.e.eff, f.e.ord with
  | .cap _ sc _ _, _ => some sc
  | e, .rel sc | e, .sc sc => some (if s.deviceEff e then .sys else sc)
  | e, _ => if s.deviceEff e then some .sys else none

/-- What is left of a range of bytes that contains an effect after a store of n bytes at a. -/
def Rel.cut (r : Rel) (a n : Nat) : List Rel :=
  if r.cap || r.va + r.len ≤ a || a + n ≤ r.va then [r]
  else (if r.va < a then [{ r with len := a - r.va }] else []) ++
    (if a + n < r.va + r.len then [{ r with va := a + n, len := r.va + r.len - (a + n) }] else [])

/-- An effect on n bytes at va has been applied: what it comes after, itself among it, is its group's (R120), and can be gained where
it releases. A store leaves no earlier one in its bytes. -/
def State.noteRel (s : State) (f : Flit) (va n ver : Nat) (know : Know) : State :=
  let rels := if isStore f.e.eff then s.k.rels.flatMap (fun r => r.cut va n) else s.k.rels
  let new : List Rel := match s.relScope f with
    | some sc => [⟨va, n, match f.e.eff with
        | .cap .. => true
        | _ => false, sc, if f.task = 0 then none else some f.lcore, ver, know⟩]
    | none => []
  (s.onK (fun k => { k with rels := rels ++ new })).onGroup f.gid (fun g => { g with know := Know.join g.know know })

/-- Notes an effect that has been applied to memory. A join of a record counts among its own; TWE payload among what its transfer
shows (R61 edge 6). -/
def State.noteApplied (s : State) (f : Flit) : State :=
  match f.e.eff with
  | .join _ _ va d =>
    let ver := s.changes (va / 64)
    (s.noteRel f va d.length ver (Know.see (s.knowOf f) (va / 64) ver)).onRec f.task (fun r => { r with
      own := r.own ++ [(f.id, f.actn, va / 64, ver)] })
  | .cap _ _ va _ => s.noteRel f va 4096 0 (s.knowOf f)
  | .store va d _ => s.noteRel f va d.length 0 (s.knowOf f)
  | .storeCap va _ _ => s.noteRel f va 16 0 (s.knowOf f)
  | .payload comb ch (.mem va _) => s.onChan comb ch (fun c => { c with know := Know.see c.know (va / 64) (s.changes (va / 64)) })
  | _ => s

/-- An effect has been applied, logged or dropped. -/
def State.doneFlit (s : State) (id : Nat) : State :=
  match s.flit? id with
  | some f => (s.onFlit id (fun f => { f with done := true })).onGroup f.gid (fun g => { g with know := Know.join g.know (s.knowOf f) })
  | none => s

/-- Do a release and a read that acquires reach each other: does each one's scope hold the other's core (R61)? What the device
releases reaches every reader (R120). -/
def reaches (sc : Scope) (writer : Option Nat) (acq : Scope) (reader : Nat) : Bool :=
  match writer with
  | none => true
  | some w => sameScope sc w reader && sameScope acq reader w

/-- What a read of n bytes at va gains that acquires at a scope on a core: what the releases come after that its value contains; ver is
the number of changes of the line that it shows, and own says which bytes come from the activation's own stores (R61 edges 2 and
3). -/
def State.gained (s : State) (va n ver : Nat) (own : Nat → Bool) (acq : Scope) (reader : Nat) : Know :=
  (s.k.rels.filter (fun r => reaches r.sc r.lcore acq reader && (if r.cap then ver == s.changes (va / 64) else decide (r.ver ≤ ver)) &&
    (List.range n).any (fun i => decide (r.va ≤ va + i ∧ va + i < r.va + r.len) && !own (va + i)))).foldl (fun k r => Know.join k r.know) []

/-- The changes of a line that a read of the lane in focus reflects at least: what it comes after, and the joins of its record's
earlier activations (R61). -/
def State.known (s : State) (line : Nat) : Nat :=
  (s.rec_.own.filter (fun o => o.2.1 != s.rec_.f.actn && o.2.2.1 == line)).foldl (fun n o => max n o.2.2.2) (tget s.ln.know line 0)

/-- A fence takes its place in the total order of R63: it comes after the record's effects, and after the earlier fences whose scope
and its own hold each other's cores (R61 edge 8). -/
def State.fenceDone (s : State) (task : Nat) (sc : Scope) : State :=
  let r := s.record task
  let mine := r.own.foldl (fun k o => Know.see k o.2.2.1 o.2.2.2) r.know
  let know := (s.k.fenceKnow.filter (fun e => reaches e.1 (some e.2.1) sc r.core)).foldl (fun k e => Know.join k e.2.2) mine
  (s.onRec task (fun r => { r with know := know, mark := s.k.nextFlit })).onK (fun k => { k with
    fenceKnow := k.fenceKnow.filter (fun e => e.1 != sc || e.2.1 != r.core) ++ [(sc, r.core, know)] })

end Sys2Proof.Machine
end

