-- ==== Sys2Proof/Machine/Pages.lean ====
section
/-!
DEFINITION. Pages that are not mapped: posting a fault (R292), and parking a record on a page (R211).
-/

namespace Sys2Proof.Machine

/-- FNMODE fields (Table 16-8) by their place: PF 0, FR 1, OV 2, WO 3, SR 4, TT 5. -/
def State.fnField (s : State) (k : Nat) : Nat := s.k.fnmode.toNat / 4 ^ k % 4

/-- Is a fault the one of a page? -/
def Fault292.isFor (f : Fault292) (m : Missed) : Bool :=
  f.page.oid == m.oid && f.page.pkg == m.pkg && f.page.die == m.die && f.page.pg == m.pg

/-- Index of the first fault in a list for which p holds, counted from i. -/
def findIdxFrom {α : Type} (p : α → Bool) : Nat → List α → Option Nat
  | _, [] => none
  | i, x :: t => if p x then some i else findIdxFrom p (i + 1) t

/-- The fault of a page that is being served, if there is one. -/
def State.served? (s : State) (m : Missed) : Option Nat := findIdxFrom (fun f => !f.done && f.isFor m) 0 s.k.faults

/-- Faults on one page are merged; a new one is served in the mode of now (R292, R298). -/
def State.postFault (s : State) (m : Missed) : State :=
  if (s.served? m).isSome then s
  else s.onK (fun k => { k with faults := k.faults ++ [⟨m, s.fnField 0 != 0, s.time, false, false⟩] })

/-- Has the service that an access waits for, of a page's fault at index pg, found the page unserviceable? An access that meets the
page later is served anew (R292). -/
def State.failedFor (s : State) (pg : Option Nat) (m : Missed) : Bool :=
  pg.any (fun n => (s.k.faults[n]?).any (fun f => f.failed && f.isFor m))

/-- The index that the fault of a page has once it is posted. -/
def State.faultIdx (s : State) (m : Missed) : Nat := (s.served? m).getD s.k.faults.length

/-- A read met the page: its activation is abandoned and its record waits for the page (R211). Should the page not be served, the
record's last NEVER is that of the activation (R108). -/
def State.parkPage (s : State) (l : Nat) (m : Missed) (pc va : Word) : State :=
  (s.abandonWith l (fun r => { r with st := .parked (.page (s.faultIdx m) pc va), pnever := (s.lane l).never })).postFault m

/-- The page of an address, when it is not mapped. -/
def State.unmapped? (s : State) (va : Nat) : Option Missed :=
  match s.translate va with
  | .missing m => some m
  | _ => none

end Sys2Proof.Machine
end

