-- ==== Sys2Proof/Machine/Special.lean ====
section
/-!
DEFINITION. The special functions of R195: every result is the exact value rounded toward zero. Reciprocals and
roots are exact rationals. The others are enclosed between two rationals at 2^-specP, and where both round to the
same value that value is the result (DESIGN CHOICE, log entry 19 says what happens otherwise).
-/

namespace Sys2Proof.Machine

/-- Fraction bits of the enclosures. -/
def specP : Nat := 288

/-- An enclosure rounded toward zero: lo <= |value| <= hi, both over den. exact says that the value is lo. x is the
argument. -/
def rtzBetween (x : Nat) (neg : Bool) (lo hi den : Nat) (exact : Bool) : FRes :=
  let a := roundQ fmtF32 .rtz neg lo den
  let b := roundQ fmtF32 .rtz neg hi den
  if exact then a
  else if a.1 = b.1 then (a.1, a.2 ||| b.2 ||| fNX)
  else ((Config.specialTie (BitVec.ofNat 32 x)).toNat, a.2 ||| b.2 ||| fNX)

/-- VRCP. -/
def rcpF (x : Nat) : FRes :=
  match unpackF fmtF32 x with
  | .nan s => nanRes fmtF32 s
  | .inf s => (if s then fmtF32.signBit else 0, 0)
  | .fin s m e =>
    if m = 0 then ((infRes fmtF32 s).1, fDZ)
    else
      let (p, q) := scaleQ (-e)
      roundQ fmtF32 .rtz s p (q * m)

/-- VRSQ. -/
def rsqF (x : Nat) : FRes :=
  match unpackF fmtF32 x with
  | .nan s => nanRes fmtF32 s
  | .inf true => nanRes fmtF32 true
  | .inf false => (0, 0)
  | .fin s m e =>
    if m = 0 then ((infRes fmtF32 s).1, fDZ)
    else if s then nanRes fmtF32 true
    else
      let (p, q) := scaleQ (-e)
      let (a, b) := sqrtQ p (q * m)
      roundQ fmtF32 .rtz false a b

/-- Enclosure of 2^f over 2^specP for the binary fraction f of n bits: factor i is 2^(2^-i), found by square roots.
rlo and rhi enclose the current factor. -/
def exp2Frac : Nat → Nat → Nat → Nat → Nat → Nat → Nat × Nat
  | 0, _, _, _, lo, hi => (lo, hi)
  | n + 1, f, rlo, rhi, lo, hi =>
    let rlo' := isqrt (rlo * 2 ^ specP)
    let rhi' := isqrt (rhi * 2 ^ specP) + 1
    if f.testBit n then exp2Frac n f rlo' rhi' (lo * rlo' / 2 ^ specP) (hi * rhi' / 2 ^ specP + 1)
    else exp2Frac n f rlo' rhi' lo hi

/-- 2^a for |a| below 2^8, a = i + f / 2^149. -/
def exp2Fin (x : Nat) (neg : Bool) (m : Nat) (e : Int) : FRes :=
  let (p, q) := scaleQ (e + 149)
  let scaled : Int := if neg then -((m * p / q : Nat) : Int) else (m * p / q : Nat)
  let i := scaled / (2 ^ 149 : Nat)
  let f := (scaled % (2 ^ 149 : Nat)).toNat
  let one := 2 ^ specP
  let (lo, hi) := exp2Frac 149 f (2 * one) (2 * one) one one
  let hi := min hi (2 * one - 1)
  let (u, v) := scaleQ i
  rtzBetween x false (lo * u) (hi * u) (one * v) (f = 0)

/-- VEXP2. An argument of 2^8 or more overflows, one of -2^8 or less gives a tiny result below every subnormal. -/
def exp2F (x : Nat) : FRes :=
  match unpackF fmtF32 x with
  | .nan s => nanRes fmtF32 s
  | .inf s => (if s then 0 else fmtF32.infBits, 0)
  | .fin s m e =>
    if m = 0 then (0x3F800000, 0)
    else
      let (p, q) := scaleQ e
      if 2 ^ 8 * q ≤ m * p then (if s then (0, fUF + fNX) else (fmtF32.maxBits, fOF + fNX))
      else exp2Fin x s m e

/-- Binary digits of log2 of a value in [1, 2) given over 2^specP: one squaring each, rounded down or up. -/
def log2Digits (up : Bool) : Nat → Nat → Nat → Nat
  | 0, _, acc => acc
  | n + 1, v, acc =>
    let sq := v * v / 2 ^ specP + b2n up
    if 2 * 2 ^ specP ≤ sq then log2Digits up n (sq / 2 + b2n up) (2 * acc + 1)
    else log2Digits up n sq (2 * acc)

/-- VLOG2: log2 of 2^e * y with y in [1, 2) is e + log2 y, taken to 100 binary places. -/
def log2F (x : Nat) : FRes :=
  match unpackF fmtF32 x with
  | .nan s => nanRes fmtF32 s
  | .inf true => nanRes fmtF32 true
  | .inf false => infRes fmtF32 false
  | .fin s m e =>
    if m = 0 then ((infRes fmtF32 true).1, fDZ)
    else if s then nanRes fmtF32 true
    else
      let k := m.log2
      let y := m * 2 ^ specP / 2 ^ k
      let i : Int := e + k
      if m = 2 ^ k then
        rtzBetween x (i < 0) i.natAbs i.natAbs 1 true
      else
        let dlo := log2Digits false 100 y 0
        let dhi := log2Digits true 100 y 0 + 1
        let lo := i * (2 ^ 100 : Nat) + dlo
        let hi := i * (2 ^ 100 : Nat) + dhi
        if i < 0 then rtzBetween x true (-hi).toNat (-lo).toNat (2 ^ 100) false
        else rtzBetween x false lo.toNat hi.toNat (2 ^ 100) false

/-- Terms z^j / j! over 2^specP, added up while n lasts; up rounds each term up. -/
def expTerms (up : Bool) (z : Nat) : Nat → Nat → Nat → Nat → Nat
  | 0, _, _, sum => sum
  | n + 1, j, term, sum =>
    let t := term * z / 2 ^ specP / j + b2n up
    expTerms up z n (j + 1) t (sum + t)

/-- Squares a value over 2^specP n times. -/
def squareN (up : Bool) : Nat → Nat → Nat
  | 0, v => v
  | n + 1, v => squareN up n (v * v / 2 ^ specP + b2n up)

/-- VTANH: below 2^-12, a - a^3/2 <= tanh a <= a - a^3/4; from 16 on the result is the float below 1; between, by
(y - 1) / (y + 1) with y = e^(2a), its exponent divided by 2^8 and squared back. -/
def tanhF (x : Nat) : FRes :=
  match unpackF fmtF32 x with
  | .nan s => nanRes fmtF32 s
  | .inf s => ((if s then fmtF32.signBit else 0) + 0x3F800000, 0)
  | .fin s m e =>
    if m = 0 then (if s then fmtF32.signBit else 0, 0)
    else
      let (p, q) := scaleQ e
      let n := m * p
      if n * 4096 < q then
        rtzBetween x s (4 * n * q * q - 2 * n * n * n) (4 * n * q * q - n * n * n) (4 * q * q * q) false
      else if 16 * q ≤ n then ((if s then fmtF32.signBit else 0) + 0x3F7FFFFF, fNX)
      else
        let one := 2 ^ specP
        let z := n * one / (q * 128)
        let ylo := squareN false 8 (expTerms false z 60 1 one one)
        let yhi := squareN true 8 (expTerms true (z + 1) 60 1 one one + 1)
        rtzBetween x s ((ylo - one) * (yhi + one)) ((yhi - one) * (ylo + one) + (yhi + one))
          ((ylo + one) * (yhi + one)) false

end Sys2Proof.Machine
end

