-- ==== Sys2Proof/Machine/VecCore.lean ====
section
/-!
DEFINITION. What the vector instructions share: elements of registers, pairs and runs (R82, R83), masking and flags
(R177), element operations (R70, R72, R159, R180), trees (R191) and sorting (R193).
-/

namespace Sys2Proof.Machine

/-- Elements per register of a type (Table 3-7). -/
def tyCount (t : ETy) : Nat := elemCount t.width

/-- Elements of a vector register. -/
def State.eV (s : State) (w : Nat) (r : VReg) : List Nat := elems w (elemCount w) (s.rV r).toNat

/-- Elements of k registers from register r on, in blocked order (R83). -/
def State.eRun (s : State) (w r : Nat) : Nat → List Nat
  | 0 => []
  | k + 1 => elems w (elemCount w) (s.rVn r).toNat ++ s.eRun w (r + 1) k

/-- A scalar that a V-format field names. -/
def State.sV (s : State) (a : VSrc) : Word := s.rN a.r.val

/-- A vector from its elements; elements that are not given are zero. -/
def vecOf (w : Nat) (l : List Nat) : Vec := BitVec.ofNat 4096 (packE w l)

/-- Writes a run of k registers from register r on. -/
def State.putRun (s : State) (w r : Nat) (l : List Nat) : Nat → State
  | 0 => s
  | k + 1 => (s.wVn r (vecOf w (l.take (elemCount w)))).putRun w (r + 1) (l.drop (elemCount w)) k

/-- Is a position active? -/
def active (m : Bool) (mask i : Nat) : Bool := !m || mask.testBit (i % 1024)

/-- Positions that are not active keep their old value and set no flag (R177). -/
def mergeE (m : Bool) (mask : Nat) : Nat → List Nat → List FRes → List FRes
  | i, o :: old, r :: res => (if active m mask i then r else (o, 0)) :: mergeE m mask (i + 1) old res
  | _, _, _ => []

/-- The OR of the flags of results. -/
def orFlags : List FRes → Nat
  | [] => 0
  | r :: t => r.2 ||| orFlags t

/-- m0 as a number. -/
def State.m0 (s : State) : Nat := (s.rM 0).toNat

/-- Writes the results of an elementwise instruction to k registers from register d on. -/
def State.putE (s : State) (w : Nat) (m : Bool) (d k : Nat) (res : List FRes) : State :=
  let r := mergeE m s.m0 0 (s.eRun w d k) res
  (s.raiseFpc (orFlags r)).putRun w d (r.map (fun x => x.1)) k

/-- A value without flags. -/
def plain (x : Nat) : FRes := (x, 0)

/-- An elementwise instruction with the results it computes. -/
def opE (i : Instr) (t : ETy) (m : Bool) (d : VReg) (res : List FRes) (s : State) : Host.Outcome State Fault Refusal :=
  issue i s (.ok (fun u => u.putE t.width m d.val 1 res))

/-- One source, two sources, two sources and the old destination. -/
def State.map1 (s : State) (w : Nat) (a : VSrc) (f : Nat → FRes) : List FRes := (s.eV w a.r).map f
def State.map2 (s : State) (w : Nat) (a b : VSrc) (f : Nat → Nat → FRes) : List FRes :=
  List.zipWith f (s.eV w a.r) (s.eV w b.r)
def zip3 (f : Nat → Nat → Nat → FRes) : List Nat → List Nat → List Nat → List FRes
  | a :: s, b :: t, c :: u => f a b c :: zip3 f s t u
  | _, _, _ => []

/-! Element operations. -/

def eAdd (t : ETy) (rm : RMode) (a b : Nat) : FRes :=
  if t.isInt then plain (low t.width (a + b)) else addV (fmtOf t) rm (unpackF (fmtOf t) a) (unpackF (fmtOf t) b)
def eSub (t : ETy) (rm : RMode) (a b : Nat) : FRes :=
  if t.isInt then plain (ofInt t.width ((a : Int) - b))
  else addV (fmtOf t) rm (unpackF (fmtOf t) a) (unpackF (fmtOf t) b).negate
def eMul (t : ETy) (rm : RMode) (a b : Nat) : FRes :=
  if t.isInt then plain (low t.width (a * b)) else mulF (fmtOf t) rm (unpackF (fmtOf t) a) (unpackF (fmtOf t) b)

/-- The smaller or the greater. -/
def eMinMax (t : ETy) (n mx : Bool) (a b : Nat) : FRes :=
  if t.isInt then plain (if decide (valOf n t.width a < valOf n t.width b) != mx then a else b)
  else minmaxF (fmtOf t) mx a b

/-- |a|. -/
def eAbs (t : ETy) (a : Nat) : FRes :=
  if t.isInt then plain (ofInt t.width (if sgn t.width a < 0 then -(sgn t.width a) else sgn t.width a))
  else match unpackF (fmtOf t) a with
    | .nan v => nanRes (fmtOf t) v
    | _ => plain (a % (fmtOf t).signBit)

def eNeg (t : ETy) (a : Nat) : FRes :=
  if t.isInt then plain (ofInt t.width (-(a : Int)))
  else match unpackF (fmtOf t) a with
    | .nan v => nanRes (fmtOf t) v
    | _ => plain (a ^^^ (fmtOf t).signBit)

def eDiv (t : ETy) (n : Bool) (rm : RMode) (a b : Nat) : FRes :=
  if t.isInt then plain (divInt n t.width a b) else divF (fmtOf t) rm (unpackF (fmtOf t) a) (unpackF (fmtOf t) b)

/-- a * b + c with each sign as given: np negates the product, nc the addend. -/
def eFma (t : ETy) (rm : RMode) (np nc : Bool) (a b c : Nat) : FRes :=
  if t.isInt then
    let p : Int := a * b
    plain (ofInt t.width ((if np then -p else p) + if nc then -(c : Int) else c))
  else
    let x := unpackF (fmtOf t) a
    let y := unpackF (fmtOf t) c
    fmaF (fmtOf t) rm (if np then x.negate else x) (unpackF (fmtOf t) b) (if nc then y.negate else y)

/-- Comparison of two elements: less 1, equal 2, greater 4, unordered 8. -/
def eRel (t : ETy) (n : Bool) (a b : Nat) : FRes :=
  if t.isInt then
    plain (if valOf n t.width a < valOf n t.width b then 1 else if valOf n t.width a = valOf n t.width b then 2 else 4)
  else relF (fmtOf t) a b

/-! Trees. -/

/-- The operators of R191. -/
def redOp (t : ETy) (n : Bool) (rm : RMode) : RedOp → Nat → Nat → FRes
  | .sum => eAdd t rm
  | .min => eMinMax t n false
  | .max => eMinMax t n true

/-- OP on values that may be absent. -/
def opAbs (op : Nat → Nat → FRes) : Option Nat → Option Nat → Option Nat × Nat
  | some a, some b => (some (op a b).1, (op a b).2)
  | some a, none => (some a, 0)
  | none, b => (b, 0)

/-- One level of the tree above another, and its flags. -/
def treeUp (op : Nat → Nat → FRes) : List (Option Nat) → List (Option Nat) × Nat
  | a :: b :: t =>
    let r := opAbs op a b
    let q := treeUp op t
    (r.1 :: q.1, r.2 ||| q.2)
  | l => (l, 0)

/-- The levels of the tree, k of them above the leaves, and their flags. -/
def treeLevels (op : Nat → Nat → FRes) : Nat → List (Option Nat) → List (List (Option Nat)) × Nat
  | 0, l => ([l], 0)
  | k + 1, l =>
    let u := treeUp op l
    let r := treeLevels op k u.1
    (l :: r.1, u.2 ||| r.2)

/-- The prefix over the first x positions: nodes of falling size from left to right (R192). l counts the levels left. -/
def prefixOf (op : Nat → Nat → FRes) (lv : List (List (Option Nat))) (x : Nat) :
    Nat → Nat → Option Nat × Nat → Option Nat × Nat
  | 0, _, acc => acc
  | l + 1, pos, acc =>
    if x.testBit l then
      let r := opAbs op acc.1 (lget (lget lv l []) (pos / 2 ^ l) none)
      prefixOf op lv x l (pos + 2 ^ l) (r.1, acc.2 ||| r.2)
    else prefixOf op lv x l pos acc

/-- Leaves of a reduction: positions whose m0 bit is clear are absent. -/
def leaves (m : Bool) (mask : Nat) (l : List Nat) : List (Option Nat) :=
  mapFrom (fun i x => if active m mask i then some x else none) 0 l

/-! Sorting. -/

/-- The key of an element, compared as an unsigned number (R193). -/
def sortKey (t : ETy) (n : Bool) (x : Nat) : Nat :=
  if t.isInt then (if n then low t.width x else low t.width (x + 2 ^ (t.width - 1))) else floatKey t.width x

/-- Merges two sorted lists of (key, payload); the left one goes first among equals. k bounds the length. -/
def mergeKeys {α : Type} (desc : Bool) : Nat → List (Nat × α) → List (Nat × α) → List (Nat × α)
  | 0, _, _ => []
  | k + 1, x :: s, y :: t =>
    if (if desc then decide (y.1 ≤ x.1) else decide (x.1 ≤ y.1)) then x :: mergeKeys desc k s (y :: t)
    else y :: mergeKeys desc k (x :: s) t
  | _, [], t => t
  | _, s, [] => s

/-- A stable sort of 2^k keys. -/
def sortKeys {α : Type} (desc : Bool) : Nat → List (Nat × α) → List (Nat × α)
  | 0, l => l
  | k + 1, l =>
    mergeKeys desc (l.length + 1) (sortKeys desc k (l.take (2 ^ k))) (sortKeys desc k (l.drop (2 ^ k)))

end Sys2Proof.Machine
end

