-- ==== Sys2Proof/Machine/Scratch.lean ====
section
/-!
DEFINITION. Majors 0x40 to 0x47: scratchpad and neighbour-window instructions (R201 to R208).
-/

namespace Sys2Proof.Machine

/-- Bytes and signedness of an LDS type. -/
def ldBytes : LdTy → Nat
  | .i8 | .n8 => 1 | .i16 | .n16 => 2 | .i32 | .n32 => 4 | .i64 => 8
def ldSigned : LdTy → Bool
  | .i8 | .i16 | .i32 | .i64 => true
  | _ => false

/-- The register value of loaded bytes. -/
def extend (signed : Bool) (d : List Byte) : Word :=
  if signed then BitVec.ofInt 64 (sgn (8 * d.length) (ofBytes d)) else BitVec.ofNat 64 (ofBytes d)

/-- A vector's bytes, and a vector from bytes (R82). -/
def vecBytes (x : Vec) : List Byte := toBytes x.toNat 512
def bytesVec (d : List Byte) : Vec := BitVec.ofNat 4096 (ofBytes d)

def execLds (t : LdTy) (d : SReg) (a : SSrc) (imm : BitVec 9) (s : State) : Host.Outcome State Fault Refusal :=
  let n := ldBytes t
  issue (.lds t d a imm) s (s.loadScratch (scratchOff (s.rS a.r) imm n) n n (fun b u => u.wS d (extend (ldSigned t) b)))

def execSts (w : Wd) (d : SSrc) (a : SReg) (imm : BitVec 9) (s : State) : Host.Outcome State Fault Refusal :=
  let n := wdBytes w
  issue (.sts w d a imm) s (s.storeScratch (scratchOff (s.rS a) imm n) n (toBytes (s.rS d.r).toNat n))

def execVlds (d : VReg) (a : SSrc) (imm : BitVec 9) (s : State) : Host.Outcome State Fault Refusal :=
  issue (.vlds d a imm) s (s.loadScratch (scratchOff (s.rS a.r) imm 512) 512 4 (fun b u => u.wV d (bytesVec b)))

def execVsts (d : VSrc) (a : SReg) (imm : BitVec 9) (s : State) : Host.Outcome State Fault Refusal :=
  issue (.vsts d a imm) s (s.storeScratch (scratchOff (s.rS a) imm 512) 4 (vecBytes (s.rV d.r)))

/-! Scattered accesses. -/

/-- The first failing access of n bytes, in ascending order, with its trap and offset (R203; DEDUCED, log entry 16). -/
def State.firstBad (s : State) (n : Nat) : List Nat → Option (Nat × Nat)
  | [] => none
  | o :: t => match s.scratchChk o n 4 with
    | some c => some (c, o)
    | none => s.firstBad n t

/-- The first access that reads a poisoned word. -/
def State.firstPoison (s : State) (n : Nat) (l : List Nat) : Option Nat := l.find? (fun o => s.scratchBad s.lcore o n)

/-- Reads n bytes at each offset, all checks first. -/
def State.gather (s : State) (n : Nat) (offs : List Nat) (f : List Byte → State → State) : Do :=
  match s.firstBad n offs with
  | some (c, o) => .trap c (BitVec.ofNat 64 o)
  | none => match s.firstPoison n offs with
    | some o => .trap tUNCORR (BitVec.ofNat 64 o)
    | none =>
      if offs.any (fun o => s.drainWaits o n) then .stay id
      else .ok (f (offs.flatMap (s.scratch s.lcore · n)))

/-- Writes n bytes at each offset in ascending order, all checks first. -/
def State.scatter (s : State) (n : Nat) (offs : List Nat) (data : List Byte) : Do :=
  match s.firstBad n offs with
  | some (c, o) => .trap c (BitVec.ofNat 64 o)
  | none =>
    if offs.any (fun o => s.drainWaits o n) then .stay id
    else .ok (fun u => ((offs.zip (chunks n offs.length data)).foldl (fun u x => u.writeScratch x.1 x.2) u))

/-- The eight rows of a strided access. -/
def strideOffs (base stride : Word) : List Nat := (List.range 8).map (fun r => (base + BitVec.ofNat 64 r * stride).toNat)

/-- The 128 words of an indexed access. -/
def State.indexOffs (s : State) (base : Word) (b : VReg) : List Nat :=
  (s.eV 32 b).map (fun i => (base + BitVec.ofNat 64 (4 * i)).toNat)

def execVldss (d : VReg) (a b : SSrc) (s : State) : Host.Outcome State Fault Refusal :=
  issue (.vldss d a b) s (s.gather 64 (strideOffs (s.rS a.r) (s.rS b.r)) (fun x u => u.wV d (bytesVec x)))
def execVstss (d : VReg) (a b : SSrc) (s : State) : Host.Outcome State Fault Refusal :=
  issue (.vstss d a b) s (s.scatter 64 (strideOffs (s.rS a.r) (s.rS b.r)) (vecBytes (s.rV d)))
def execVgats (d : VReg) (a : SSrc) (b : VSrc) (s : State) : Host.Outcome State Fault Refusal :=
  issue (.vgats d a b) s (s.gather 4 (s.indexOffs (s.rS a.r) b.r) (fun x u => u.wV d (bytesVec x)))
def execVscts (d : VReg) (a : SSrc) (b : VSrc) (s : State) : Host.Outcome State Fault Refusal :=
  issue (.vscts d a b) s (s.scatter 4 (s.indexOffs (s.rS a.r) b.r) (vecBytes (s.rV d)))

/-! Packed fields. -/

/-- Width, count and the bad-operand test of s[B] (R204). -/
def fieldW (x : Word) : Nat := x.toNat % 16
def fieldN (x : Word) : Nat := x.toNat / 65536 % 1024
def fieldBad (x : Word) : Bool :=
  x &&& ~~~(0x03FF000F : Word) != 0 || fieldW x == 0 || 8 < fieldW x || fieldN x == 0 || 512 < fieldN x

/-- The bytes that hold n bits from bit address a: first byte and count. -/
def bitSpan (a n : Nat) : Nat × Nat := (a / 8, (a + n + 7) / 8 - a / 8)

/-- Fields of width w from the low bits of a number. -/
def fieldsOf (w : Nat) : Nat → Nat → List Nat
  | 0, _ => []
  | n + 1, x => x % 2 ^ w :: fieldsOf w n (x / 2 ^ w)

def execVldb (d : VReg) (a b : SSrc) (s : State) : Host.Outcome State Fault Refusal :=
  let w := fieldW (s.rS b.r)
  let n := fieldN (s.rS b.r)
  let sp := bitSpan (s.rS a.r).toNat (w * n)
  issue (.vldb d a b) s (if fieldBad (s.rS b.r) then .trap tILLEGAL 0
    else s.loadScratch sp.1 sp.2 1 (fun x u =>
      u.wV d (vecOf 8 (fieldsOf w n (ofBytes x / 2 ^ ((s.rS a.r).toNat % 8))))))

/-- Does a field range of n bits from bit address a cut a poisoned word, which the store then reads (R204, R327)?
(DEDUCED, log entry 31). -/
def State.cutsBad (s : State) (a n : Nat) : Bool :=
  (s.core s.lcore).badW.any (fun w => decide (32 * w < a + n ∧ a < 32 * w + 32) && !decide (a ≤ 32 * w ∧ 32 * w + 32 ≤ a + n))

/-- Bits outside the fields keep their values. -/
def execVstb (d : VReg) (a b : SSrc) (s : State) : Host.Outcome State Fault Refusal :=
  let w := fieldW (s.rS b.r)
  let n := fieldN (s.rS b.r)
  let sh := (s.rS a.r).toNat % 8
  let sp := bitSpan (s.rS a.r).toNat (w * n)
  let old := ofBytes (s.scratch s.lcore sp.1 sp.2)
  let new := packE w (fieldsOf 8 n (s.rV d).toNat)
  let x := old % 2 ^ sh + new * 2 ^ sh + old / 2 ^ (sh + w * n) * 2 ^ (sh + w * n)
  issue (.vstb d a b) s (if fieldBad (s.rS b.r) then .trap tILLEGAL 0
    else match s.scratchChk sp.1 sp.2 1 with
      | some c => .trap c (BitVec.ofNat 64 sp.1)
      | none =>
        if s.cutsBad (s.rS a.r).toNat (w * n) then .trap tUNCORR (BitVec.ofNat 64 sp.1)
        else if s.drainWaits sp.1 sp.2 then .stay id
        else .ok (fun u => u.writeScratch sp.1 (toBytes x sp.2)))

/-! Neighbour windows. -/

/-- The core that window w of a core names: its comb-mate w places on (R19). -/
def windowCore (l w : Nat) : Nat := l / 4 * 4 + (l + w) % 4

/-- A neighbour-window store enters the outbox. -/
def State.storeWindow (s : State) (w off : Nat) (d : List Byte) : Do :=
  match s.windowChk off d.length 4 with
  | some c => .trap c (BitVec.ofNat 64 off)
  | none => s.effect (.window (windowCore s.lcore w) off d) .relaxed id

def execStn (w : Fin 3) (d : SSrc) (a : SReg) (imm : BitVec 9) (s : State) : Host.Outcome State Fault Refusal :=
  issue (.stn w d a imm) s (s.storeWindow (w.val + 1) (scratchOff (s.rS a) imm 4) (toBytes (s.rS d.r).toNat 4))
def execVstn (w : Fin 3) (d : VSrc) (a : SReg) (imm : BitVec 9) (s : State) : Host.Outcome State Fault Refusal :=
  issue (.vstn w d a imm) s (s.storeWindow (w.val + 1) (scratchOff (s.rS a) imm 512) (vecBytes (s.rV d.r)))

/-! Full bits and WAITA. -/

/-- A load that stalls until the full bits of its words are set. -/
def State.loadFull (s : State) (off n : Nat) (f : List Byte → State → State) : Do :=
  match s.scratchChk off n 4 with
  | some c => .trap c (BitVec.ofNat 64 off)
  | none =>
    if hasRange (s.core s.lcore).full (off / 4) (n / 4) then s.loadScratch off n 4 (fun b u => (f b u).gain ((s.core s.lcore).fullSeen off n))
    else .stay id

def execLdf (d : SReg) (a : SSrc) (imm : BitVec 9) (s : State) : Host.Outcome State Fault Refusal :=
  issue (.ldf d a imm) s (s.loadFull (scratchOff (s.rS a.r) imm 4) 4 (fun b u => u.wS d (extend false b)))
def execVldf (d : VReg) (a : SSrc) (imm : BitVec 9) (s : State) : Host.Outcome State Fault Refusal :=
  issue (.vldf d a imm) s (s.loadFull (scratchOff (s.rS a.r) imm 512) 512 (fun b u => u.wV d (bytesVec b)))

/-- FCLR and FSET: a count of zero changes nothing and never traps. -/
def State.markFull (s : State) (off n : Nat) (f : CoreSt → Nat → Nat → CoreSt) : Do :=
  if n = 0 then .ok id
  else match s.scratchChk off (4 * n) 4 with
    | some c => .trap c (BitVec.ofNat 64 off)
    | none => .ok (fun u => u.onCore s.lcore (fun c => f c (off / 4) n))

/-- The full bits of n words from word w are cleared, or set. -/
def CoreSt.clearFull (c : CoreSt) (w n : Nat) : CoreSt :=
  { c with full := clearRange c.full w n, fullKnow := c.fullKnow.filter (fun e => !decide (w ≤ e.1 ∧ e.1 < w + n)) }
def CoreSt.setFull (c : CoreSt) (w n : Nat) : CoreSt := { c with full := setRange c.full w n }

def execFclr (d : SSrc) (a : SReg) (imm : BitVec 9) (s : State) : Host.Outcome State Fault Refusal :=
  issue (.fclr d a imm) s (s.markFull (scratchOff (s.rS a) imm 4) (s.rS d.r).toNat CoreSt.clearFull)
def execFset (d : SSrc) (a : SReg) (imm : BitVec 9) (s : State) : Host.Outcome State Fault Refusal :=
  issue (.fset d a imm) s (s.markFull (scratchOff (s.rS a) imm 4) (s.rS d.r).toNat CoreSt.setFull)

/-- A WAITA that stalls is compared again at each write of its word (R208). -/
def State.waitFor (s : State) (off v : Nat) : State :=
  s.onCore s.lcore (fun c => if c.waits.contains ⟨s.cur, off, v, none⟩ then c
    else { c with waits := c.waits.filter (fun w => w.lane != s.cur) ++ [⟨s.cur, off, v, none⟩] })

/-- WAITA stalls until the word equals s[D][31:0], or a write has made it so. -/
def execWaita (d : SReg) (a : SSrc) (imm : BitVec 9) (s : State) : Host.Outcome State Fault Refusal :=
  let off := scratchOff (s.rS a.r) imm 4
  issue (.waita d a imm) s (match s.scratchChk off 4 4 with
    | some c => .trap c (BitVec.ofNat 64 off)
    | none =>
      let v := (s.rS d).toNat % 2 ^ 32
      match ((s.core s.lcore).waits.find? (fun w => w.lane == s.cur && w.off == off && w.v == v)).bind (fun w => w.hit) with
      | some k => .ok (fun u => (u.dropWait s.cur).gain k)
      | none => if s.scratchBad s.lcore off 4 then .trap tUNCORR (BitVec.ofNat 64 off)
      else if s.drainWaits off 4 then .stay id
      else if ofBytes (s.scratch s.lcore off 4) = v then
        .ok (fun u => (u.dropWait s.cur).gain (tget (s.core s.lcore).waitKnow (off / 4) []))
      else .stay (fun u => u.waitFor off v))

end Sys2Proof.Machine
end

