-- ==== Sys2Proof/Machine/Global.lean ====
section
/-!
DEFINITION. Majors 0x70 to 0x75: exclusive loads and stores, joins, threshold reads, exact reads, caps, FENCE and
OFORK (R209 to R224).
-/

namespace Sys2Proof.Machine

/-- The scope at which a read with an order acquires (R61). -/
def ordAcq : Ord → Option Scope
  | .acq sc | .sc sc => some sc
  | _ => none

/-- A read leaves for its home; its data comes with READ_RESPONSE (R210). -/
def State.startRead (t : State) (kind : ReadKind) (va len d : Nat) (pc : Word) (acq : Option Scope) : State :=
  { t.onLn (fun l => { l with rd := some ⟨kind, va, len, d, pc, acq, t.time, 0, none⟩ }) with hw := t.askHome t.lcore va }

/-- Does a read acquire when its order says so? LDC is not among those of R61 edge 2 (DEDUCED, log entry 98). -/
def ReadKind.acquires : ReadKind → Bool
  | .ldc => false
  | _ => true

/-- A global read at issue. -/
def State.readAt (s : State) (g : GAddr) (n : Nat) (aligned : Bool) (ty : Obj → Option Nat) (kind : ReadKind) (d : Nat) (o : Ord) :
    Do :=
  s.reach (s.rC g.c.r) (s.ea g) n rR aligned ty (fun _ => .ok (fun t =>
    t.startRead kind (s.ea g) n d s.ln.pc (if kind.acquires then ordAcq o else none)))

/-- Is the address a multiple of n? -/
def aligned (ea n : Nat) : Bool := ea % n == 0

/-! Exclusive loads and stores. -/

def execLdx (lk : Fin 16) (w : Wd) (o : Ord) (d : SReg) (g : GAddr) (s : State) : Host.Outcome State Fault Refusal :=
  issue (.ldx lk w o d g) s
    (s.readAt g (wdBytes w) (aligned (s.ea g) (wdBytes w)) (s.exclOrMmio g.c.r w) (.ldx w) d.val o)
def execVldx (lk : Fin 16) (o : Ord) (d : VReg) (g : GAddr) (s : State) : Host.Outcome State Fault Refusal :=
  issue (.vldx lk o d g) s (s.readAt g 512 (aligned (s.ea g) 64) (s.exclTy g.c.r) .vldx d.val o)
def execLdc (lk : Fin 16) (o : Ord) (d : CReg) (g : GAddr) (s : State) : Host.Outcome State Fault Refusal :=
  issue (.ldc lk o d g) s (s.readAt g 16 (aligned (s.ea g) 16) (s.exclTy g.c.r) .ldc d.val o)

/-- An exclusive store enters the outbox. -/
def State.storeAt (s : State) (g : GAddr) (n al : Nat) (ty : Obj → Option Nat) (o : Ord) (e : Eff) : Do :=
  s.reach (s.rC g.c.r) (s.ea g) n rW (aligned (s.ea g) al) ty (fun _ => s.effect e o id)

def execStx (lk : Fin 16) (w : Wd) (o : Ord) (g : GAddr) (b : SSrc) (s : State) : Host.Outcome State Fault Refusal :=
  let n := wdBytes w
  issue (.stx lk w o g b) s (s.storeAt g n n (s.exclOrMmio g.c.r w) o
    (.store (s.ea g) (toBytes (s.rS b.r).toNat n) (s.ownFrame g.c.r)))
def execVstx (lk : Fin 16) (o : Ord) (g : GAddr) (b : VSrc) (s : State) : Host.Outcome State Fault Refusal :=
  issue (.vstx lk o g b) s (s.storeAt g 512 64 (s.exclTy g.c.r) o
    (.store (s.ea g) (vecBytes (s.rV b.r)) (s.ownFrame g.c.r)))
def execStc (lk : Fin 16) (o : Ord) (g : GAddr) (b : CSrc) (s : State) : Host.Outcome State Fault Refusal :=
  issue (.stc lk o g b) s (s.storeAt g 16 16 (s.exclTy g.c.r) o (.storeCap (s.ea g) (s.rC b.r) (s.ownFrame g.c.r)))

/-! Joins. -/

def isLine (t : LTy) : Bool := t == .fill || t == .lap

/-- A count join is counted, and the 768th marks a commit (R44, Table 4-4). -/
def Lane.countJoin (l : Lane) : Lane :=
  { l with cnt := l.cnt + 1, st := if l.st = .run ∧ 768 ≤ l.cnt + 1 then .finish else l.st }

/-- A join of bytes at EA enters the outbox. -/
def State.joinAt (s : State) (t : LTy) (w : Wd) (o : Ord) (g : GAddr) (al : Bool) (d : List Byte) : Do :=
  s.reach (s.rC g.c.r) (s.ea g) d.length rJ al (s.latTy .join t w) (fun _ =>
    s.effect (.join t w (s.ea g) d) o (fun u => if t = .count then u.onLn Lane.countJoin else u))

/-- A scalar join to a line type cannot cover a line (R216). -/
def execJoin (lk : Fin 16) (t : LTy) (w : Wd) (o : Ord) (g : GAddr) (b : SSrc) (s : State) :
    Host.Outcome State Fault Refusal :=
  let n := wdBytes w
  issue (.join lk t w o g b) s
    (s.joinAt t w o g (aligned (s.ea g) n && !isLine t) (toBytes (s.rS b.r).toNat n))
def execVjoin (lk : Fin 16) (t : LTy) (w : Wd) (o : Ord) (g : GAddr) (b : VSrc) (s : State) :
    Host.Outcome State Fault Refusal :=
  issue (.vjoin lk t w o g b) s (s.joinAt t w o g (aligned (s.ea g) 64) (vecBytes (s.rV b.r)))
/-- Bytes 64p to 64p + 63. -/
def execVjoinx (lk : Fin 16) (t : LTy) (w : Wd) (o : Ord) (g : GAddr) (b : VSrc) (p : Fin 8) (s : State) :
    Host.Outcome State Fault Refusal :=
  issue (.vjoinx lk t w o g b p) s
    (s.joinAt t w o g (aligned (s.ea g) 64) (((vecBytes (s.rV b.r)).drop (64 * p.val)).take 64))

/-! Threshold reads. -/

/-- What a home has for a threshold read: a line state for fill, the element's or slot's bytes, the cap bit. -/
structure Seen where
  line : FillSt
  bytes : List Byte
  capped : Bool
  deriving DecidableEq, Repr

/-- The condition of R51. -/
def passes (t : LTy) (w : Nat) (x : Seen) (trig : Nat) : Bool :=
  let v := ofBytes x.bytes
  match t with
  | .maxn | .count => decide (low w trig ≤ low w v)
  | .maxi => decide (sgn w trig ≤ sgn w v)
  | .minn => decide (low w v ≤ low w trig)
  | .mini => decide (sgn w v ≤ sgn w trig)
  | .maxf => decide (floatKey 32 trig ≤ floatKey 32 v)
  | .minf => decide (floatKey 32 v ≤ floatKey 32 trig)
  | .union => decide (v &&& low w trig = low w trig)
  | .lap => decide (trig ≤ v % 2 ^ 64)
  | .fill => x.line == .full && decide (v % 2 ^ 64 = trig)
  | _ => false

/-- Index of the first trigger that passes. -/
def firstPass (t : LTy) (w : Nat) (x : Seen) : Nat → List Nat → Option Nat
  | _, [] => none
  | i, g :: r => if passes t w x g then some i else firstPass t w x (i + 1) r

/-- An answer to THR or THRF: a trap, a scalar, a vector, or none yet. -/
inductive Reply where
  | wait
  | trap (code : Nat)
  | index (n : Nat)
  | data (v : Vec) (never : Bool)
  deriving DecidableEq, Repr

/-- THR's answer (R217). -/
def thrReply (t : LTy) (w : Nat) (trigs : List Nat) (x : Seen) : Reply :=
  if t = .fill ∧ x.line = .top then .trap tFILLCONF
  else match firstPass t w x 0 trigs with
    | some i => .index i
    | none => if x.capped then .index 15 else .wait

/-- NEVER as THRF gives it (R219). -/
def thrfNever : Vec := BitVec.ofNat 4096 (15 * 2 ^ 512)

/-- THRF's answer (R54, R219). -/
def thrfReply (t : LTy) (trigs : List Nat) (x : Seen) : Reply :=
  let lap := ofBytes (x.bytes.take 8)
  let trig := trigs.headD 0
  if t = .fill then match x.line with
    | .top => .trap tFILLCONF
    | .full => .data (bytesVec x.bytes) false
    | .empty => if x.capped then .data thrfNever true else .wait
  else if trig < lap then .trap tLAPOVER
  else if lap = trig then .data (bytesVec (x.bytes.drop 8)) false
  else if x.capped then .data thrfNever true
  else .wait

/-- The answer that a watch gets. -/
def watchReply (w : Watch) (x : Seen) : Reply :=
  if w.thrf then thrfReply w.t w.trigs x else thrReply w.t (wdBits w.w) w.trigs x

/-- Bytes of the element, line or slot that a watch names. -/
def watchLen (w : Watch) : Nat := if isLine w.t then 64 else wdBytes w.w

/-- What is seen at a mapped address. -/
def State.seen (s : State) (a va : Nat) (n : Nat) : Seen :=
  ⟨s.mem.lineAt a, s.readV va n, s.mem.capped.contains (a / 4096)⟩

/-- An earlier content of a line as a copy of it shows n bytes at va; the copy has no cap bit. -/
def Old.seen (o : Old) (va n : Nat) : Seen :=
  ⟨match o.line with
    | none => .empty
    | some .full => .full
    | some .top => .top, (o.bytes.drop (va % 64)).take n, false⟩

/-- Earlier contents of a line that may answer the lane's read, with the changes that they show: none older than what the read comes
after (R61). -/
def State.lagging (s : State) (va : Nat) : List (Old × Nat) :=
  (tget s.k.copies (va / 64) []).zipIdx.filter (fun o => decide (s.known (va / 64) ≤ o.2))

/-- What a copy in the issuing die's cache shows of the element: capped lines of any home, lattice lines of its own die, as they
are or as they were (R57, R358), with the changes that it shows. Whether there is one, and how far it lags, is free (DESIGN CHOICE,
log entry 23); a read waits for the task's own earlier effects on the line (R61). -/
def State.copy? (s : State) (va n : Nat) : Option (Seen × Nat) :=
  match s.translate va, s.homeOf va with
  | .at a false _, some h =>
    let near := h.pkg == s.pkgOf s.lcore && h.die == s.dieOf (s.lcore / 256 % 8)
    let old := if near then (s.lagging va).map (fun o => (o.1.seen va n, o.2)) else []
    let pick := (Config.freeWord s.tick).toNat / 2 % (old.length + 1)
    if (near || s.mem.capped.contains (a / 4096)) && !s.mem.poison.contains (a / 64) &&
        !s.undone s.ln.task s.k.nextFlit (fun g => effMeets g.e.eff (va / 64 * 64) 64) && (Config.freeWord s.tick).getLsbD 0
    then some (lget old pick (s.seen a va n, s.changes (va / 64))) else none
  | _, _ => none

/-- A fresh value for the next choice. -/
def State.ticked (s : State) : State := { s with tick := s.tick + 1 }

/-- Remembers whether the last threshold read returned NEVER (R108). -/
def State.setNever (s : State) (n : Bool) : State := s.onLn (fun l => { l with never := n })

/-- What a watch's answer gains at its home or from a copy, which shows ver changes of the line (R61). -/
def State.watchKnow (s : State) (w : Watch) (ver : Nat) : Know :=
  match w.acq with
  | some (sc, reader) => s.gained w.va (watchLen w) ver (fun _ => false) sc reader
  | none => []

/-- The activation ends at its SIG and registers an effect with its home. -/
def State.parkOn (s : State) (e : Eff) : Do := s.effect e .relaxed (fun t => ((t.ticked).onLn (fun l => { l with never := match e with
    | .watch _ => false
    | _ => l.never })).suspend (.park e))

/-- A threshold read that has passed its checks: it meets an unmapped page (R211), is answered from a copy, or is left
to a watch (R218) (DEDUCED, log entry 32). -/
def State.threshold (s : State) (w : Watch) : Do :=
  match s.unmapped? w.va with
  | some m => .stay (fun t => t.parkPage t.cur m w.pc (BitVec.ofNat 64 w.va))
  | none =>
  match s.copy? w.va (watchLen w) with
  | none => s.parkOn (.watch w)
  | some (x, ver) => match watchReply w x with
    | .wait => s.parkOn (.watch w)
    | .trap code => .trap code (BitVec.ofNat 64 w.va)
    | .index n => .ok (fun t => ((t.ticked.gain (s.watchKnow w ver)).setNever (n == 15)).wS (Fin.ofNat 64 w.d) (BitVec.ofNat 64 n))
    | .data v nv => .ok (fun t => ((t.ticked.gain (s.watchKnow w ver)).setNever nv).wVn w.d v)

/-- Pairwise different (R52). -/
def allDiff : List Nat → Bool
  | [] => true
  | x :: t => !t.contains x && allDiff t

def execThr (lk : Fin 16) (t : LTy) (w : Wd) (o : Ord) (d : SReg) (g : GAddr) (b : SSrc) (s : State) :
    Host.Outcome State Fault Refusal :=
  let ea := if t = .fill then s.eaFill g else s.ea g
  let trigs := (List.range' b.r.val (thrCount t g.imm)).map (fun n => low (wdBits w) (s.rN n).toNat)
  let n := if isLine t then 64 else wdBytes w
  issue (.thr lk t w o d g b) s
    (s.reach (s.rC g.c.r) ea n rR (aligned ea n) (s.latTy .thr t w) (fun _ =>
      if !allDiff trigs then .trap tNONEXCL (BitVec.ofNat 64 ea)
      else s.threshold ⟨false, t, w, ea, trigs, d.val, s.ln.pc, (ordAcq o).map (fun sc => (sc, s.lcore)), s.rec_.run⟩))

def execThrf (lk : Fin 16) (t : LTy) (w : Wd) (o : Ord) (d : VReg) (g : GAddr) (b : SSrc) (s : State) :
    Host.Outcome State Fault Refusal :=
  let trigs := if t = .lap then [(s.rS b.r).toNat] else []
  issue (.thrf lk t w o d g b) s
    (s.reach (s.rC g.c.r) (s.ea g) 64 rR (aligned (s.ea g) 64) (s.latTy .thrf t w) (fun _ =>
      s.threshold ⟨true, t, w, s.ea g, trigs, d.val, s.ln.pc, (ordAcq o).map (fun sc => (sc, s.lcore)), s.rec_.run⟩))

/-! Exact reads and caps. -/

def execXrd (lk : Fin 16) (t : LTy) (w : Wd) (o : Ord) (d : SReg) (g : GAddr) (s : State) :
    Host.Outcome State Fault Refusal :=
  issue (.xrd lk t w o d g) s (s.readAt g (wdBytes w) (aligned (s.ea g) (wdBytes w) && !isLine t)
    (s.latTy .exact t w) (.xrd t w) d.val o)
def execVxrd (lk : Fin 16) (t : LTy) (w : Wd) (o : Ord) (d : VReg) (g : GAddr) (one : Bool) (s : State) :
    Host.Outcome State Fault Refusal :=
  issue (.vxrd lk t w o d g one) s (s.readAt g (if one then 64 else 512) (aligned (s.ea g) 64)
    (s.latTy .exact t w) (.vxrd t one) d.val o)

def execCap (lk : Fin 16) (t : LTy) (w : Wd) (sc : Scope) (acq : Bool) (g : GAddr) (b : SSrc) (s : State) :
    Host.Outcome State Fault Refusal :=
  let n := (s.rS b.r).toNat
  issue (.cap lk t w sc acq g b) s
    (s.reach (s.rC g.c.r) (s.ea g) n rC (aligned (s.ea g) 4096 && aligned n 4096) (s.latTy .cap t w) (fun _ =>
      s.effect (.cap t sc (s.ea g) n) .relaxed id))

/-- FENCE: the commit at its SIG leaves the record waiting (R222). -/
def execFence (lk : Fin 16) (sc : Scope) (s : State) : Host.Outcome State Fault Refusal :=
  issue (.fence lk sc) s (.ok (fun t => (t.suspend (.fence sc)).onLn (fun l => { l with st := if l.st = .run then .finish else l.st })))

/-! OFORK. -/

/-- A fork of an object: the same length, type, width and homes, its first n bytes aliased, in the room that its launch keeps
for such homes (R223, R282, R290). -/
def State.fork (s : State) (o : Nat) (x : Obj) (n : Nat) : Option (Nat × Obj × State) :=
  let src := if n ≤ x.pfx * 4096 then x.src else o
  let mode := match ownAt s.k.owns (x.base / 4096) with
    | some e => e.mode
    | none => .spread
  (s.roomObj mode (s.lcore / 2048)
    { x with owner := s.gid, aliases := 0, src := src, pfx := n / 4096, ret := false, prov := true, handed := false, kept := false }).map
    (fun (i, s) =>
      let s := s.onK (fun k => { k with objs := tmap k.objs src (fun y => { y with aliases := y.aliases + 1 }) })
      (i, tget s.k.objs i x, s))

/-- OFORK's checks in the order in which R223 lists them as its own: R40 puts an instruction's own checks last (DEDUCED, log entry
26). The object, or the trap. -/
def State.oforkChk (s : State) (c : Cap) (n : Nat) : Except Nat Obj :=
  match s.obj? (capOid c) with
  | none => .error tCAPBOUND
  | some x =>
    let w := capWindow c x
    if !capHas c rF then .error tCAPRIGHT
    else if x.ty != .fill || x.wc != .w64 then .error tTYPEMIS
    else if n % 4096 ≠ 0 then .error tALIGN
    else if capWoff c ≠ 0 ∨ w.2 - w.1 < n ∨ x.len * 4096 < n then .error tCAPBOUND
    else if !s.allCapped (x.base / 4096) (n / 4096) then .error tNOTCAPPED
    else .ok x

/-- OFORK acts at issue; the object is provisional until the commit (R224). It waits for the task's own caps that are
still on their way (R61). The traps of its checks name no address, so VA is 0 (DESIGN CHOICE, log entry 86). -/
def execOfork (lk : Fin 16) (d : CReg) (c : CSrc) (b : SSrc) (s : State) : Host.Outcome State Fault Refusal :=
  let cs := s.rC c.r
  let n := (s.rS b.r).toNat
  issue (.ofork lk d c b) s (match s.oforkChk cs n with
    | .error code =>
      if code = tNOTCAPPED ∧ s.undone s.ln.task s.k.nextFlit (fun g => !isStore g.e.eff) then .stay id
      else .trap code 0
    | .ok x => match s.fork (capOid cs) x n with
      | none => .trap tPAGEFAULT 0
      | some (i, _) => s.effect (.ofork i) .relaxed (fun t => match t.fork (capOid cs) x n with
        | none => t
        | some (o, y, t) =>
          (t.onLn (fun l => { l with rObj := l.rObj ++ [o] })).wC d (mkCap y.base o (capRights cs &&& 0xF3) 0 0)))

end Sys2Proof.Machine
end

