-- ==== Sys2Proof/Machine/Barrier.lean ====
section
/-!
DEFINITION. Major 0x58: barriers (R258 to R261).
-/

namespace Sys2Proof.Machine

/-- The scope and E that the latest BINIT of barrier b in the outbox of the lane in focus gives it (R258). -/
def boxInit (b : Nat) : List Entry → Option (Scope × Nat)
  | [] => none
  | e :: t => match boxInit b t with
    | some x => some x
    | none => match e.eff with
      | .binit _ b' sc n => if b' = b then some (sc, n) else none
      | _ => none

/-- Scope and E of a barrier that is bound, or that an earlier BINIT of the activation names. -/
def State.barrier? (s : State) (b : Nat) : Option (Scope × Nat) :=
  (boxInit b s.ln.box).or ((tget? (s.core s.lcore).bars b).map (fun x => (x.sc, x.e)))

/-- Is phase q complete at phase counter P (R260)? -/
def phaseDone (p : BitVec 16) (q : Nat) : Bool := decide ((p - BitVec.ofNat 16 q - 1).toNat < 32768)

/-- BINIT takes effect at commit. -/
def execBinit (a b : SSrc) (s : State) : Host.Outcome State Fault Refusal :=
  let x := (s.rS a.r).toNat
  let e := (s.rS b.r).toNat
  let sc := x / 256 % 16
  issue (.binit a b) s (if 4096 ≤ x ∨ x / 128 % 2 = 1 ∨ sc = 0 ∨ 9 < sc ∨ e = 0 ∨ 2 ^ 32 ≤ e then .trap tILLEGAL 0
    else s.effect (.binit s.lcore (x % 128) (scopeOfNum sc) e) .relaxed id)

/-- BARR sends an arrival. -/
def execBarr (a : SSrc) (s : State) : Host.Outcome State Fault Refusal :=
  let b := (s.rS a.r).toNat
  issue (.barr a) s (match s.barrier? b with
    | some (sc, e) => if 128 ≤ b then .trap tILLEGAL 0 else s.effect (.barr s.lcore b sc e) .relaxed id
    | none => .trap tILLEGAL 0)

/-- BWAIT goes on when its phase is complete; else, and after a BINIT of the same activation, it parks. -/
def execBwait (a b : SSrc) (s : State) : Host.Outcome State Fault Refusal :=
  let x := (s.rS a.r).toNat
  let q := (s.rS b.r).toNat
  issue (.bwait a b) s (if 128 ≤ x ∨ 65536 ≤ q ∨ (s.barrier? x).isNone then .trap tILLEGAL 0
    else match boxInit x s.ln.box, tget? (s.core s.lcore).bars x with
      | none, some y => if phaseDone y.p q then .ok (fun t => t.gain (tget y.know q [])) else s.parkOn (.bwait s.lcore x q)
      | _, _ => s.parkOn (.bwait s.lcore x q))

/-- The word of BSTAT (R261). -/
def bstat : Option Barrier → Nat
  | none => 0
  | some x => x.p.toNat + (if x.mm then 65536 else 0) + 131072 + scopeNum x.sc * 2 ^ 20 + x.e * 2 ^ 32

/-- BSTAT reads the barrier that s[A][6:0] names (DEDUCED, log entry 43). -/
def execBstat (d : SReg) (a : SSrc) (s : State) : Host.Outcome State Fault Refusal :=
  issue (.bstat d a) s (.ok (fun t =>
    t.wS d (BitVec.ofNat 64 (bstat (tget? (s.core s.lcore).bars ((s.rS a.r).toNat % 128))))))

end Sys2Proof.Machine
end

