-- ==== Sys2Proof/Machine/Frame.lean ====
section
/-!
DEFINITION. Save areas in frames: loading and saving the live registers (R94, R96, R104, Table 4-2), capabilities in
memory with their tags (R215), and writing one register of a saved record (R106).
-/

namespace Sys2Proof.Machine

/-- Clears the tags of the granules of n bytes at va (R215). -/
def State.untag (s : State) (va n : Nat) : State :=
  (List.range ((va + n + 15) / 16 - va / 16)).foldl (fun s (i : Nat) => match s.phys? ((va / 16 + i) * 16) with
    | some a => { s with mem := { s.mem with tags := ndel s.mem.tags (a / 16) } }
    | none => s) s

/-- Writes data bytes, which clears the tags of their granules. -/
def State.putData (s : State) (va : Nat) (d : List Byte) : State := (s.writeV va d).untag va d.length

/-- Writes a capability and its tag. -/
def State.putCap (s : State) (va : Nat) (c : Cap) : State :=
  let s := s.writeV va (toBytes c.toNat 16)
  match s.phys? va with
  | some a => { s with mem := { s.mem with tags := nadd s.mem.tags (a / 16) } }
  | none => s

/-- Is the granule of an address tagged? -/
def State.tagAt (s : State) (va : Nat) : Bool :=
  match s.phys? va with
  | some a => s.mem.tags.contains (a / 16)
  | none => false

/-- The capability at an address; null from an untagged granule. -/
def State.getCap (s : State) (va : Nat) : Cap := if s.tagAt va then BitVec.ofNat 128 (ofBytes (s.readV va 16)) else 0

/-- An 8-byte word at an address. -/
def State.getWord (s : State) (va : Nat) : Word := BitVec.ofNat 64 (ofBytes (s.readV va 8))

/-- First byte of save area j mod 2 of a record's frame (R94). -/
def State.areaVa (s : State) (f : RecFields) (j : Nat) : Option Nat :=
  (tget? s.k.objs (capOid f.frame)).map (fun x => (capWindow f.frame x).1 + j % 2 * areaBytes f.alloc)

/-- The first address of a range, by 4 KiB blocks, at which p holds; n blocks. -/
def findBlock (p : Nat → Bool) (va : Nat) : Nat → Option Nat
  | 0 => none
  | n + 1 => if p va then some va else findBlock p ((va / 4096 + 1) * 4096) n

/-- 4 KiB blocks that a range of bytes touches. -/
def blocksOf (va n : Nat) : Nat := if n = 0 then 0 else (va + n - 1) / 4096 + 1 - va / 4096

/-- The first address of a range that is not mapped. -/
def State.firstUnmapped (s : State) (va n : Nat) : Option Nat :=
  findBlock (fun a => (s.phys? a).isNone) va (blocksOf va n)

/-- Writes the registers that a record starts with, the capability live mask and zeros for FPC to fmt7 into save area 0
(R33, R94, R249). -/
def State.writeFirst (s : State) (va : Nat) (ws : List (Nat × Word)) (cs : List (Nat × Cap)) : State :=
  let s := ws.foldl (fun s x => s.putData (va + 8 * x.1) (toBytes x.2.toNat 8)) s
  let s := cs.foldl (fun s x => s.putCap (va + 0x200 + 16 * x.1) x.2) s
  let mask := cs.foldl (fun m x => m ||| 2 ^ x.1) 0x8001
  (s.putData (va + 0x300) (List.replicate 88 0)).putData (va + 0x358) (toBytes mask 8)

/-- Slots of a save area, as offset and size, that a restore loads: the special registers and the capability mask, which
are always loaded, and the slots that the masks mark live; the slots of s0, c0 and c15 are not loaded (R94, R104). -/
def loadSlots (f : RecFields) (liveC : BitVec 16) : List (Nat × Nat) :=
  [(0x300, 0x60)] ++ (((List.range 64).filter (fun k => k != 0 && f.slive.getLsbD k)).map (fun k => (8 * k, 8))) ++
    (((List.range 15).filter (fun k => k != 0 && liveC.getLsbD k)).map (fun k => (0x200 + 16 * k, 16))) ++
    (((List.range 8).filter (fun k => f.mlive.getLsbD k)).map (fun k => (0x400 + 128 * k, 128))) ++
    (((List.range 32).filter (fun k => f.vlive.getLsbD k)).map (fun k => (0x800 + 512 * k, 512)))

/-- Slots of a save area that a commit writes: those of the live registers, and the special registers with the reserved
bytes behind them (R98, R104). -/
def saveSlots (l : Lane) : List (Nat × Nat) :=
  [(0x300, 0x100)] ++ (((List.range 64).filter (fun k => k != 0 && l.liveS.getLsbD k)).map (fun k => (8 * k, 8))) ++
    (((List.range 16).filter (fun k => l.liveC.getLsbD k)).map (fun k => (0x200 + 16 * k, 16))) ++
    (((List.range 8).filter (fun k => l.liveM.getLsbD k)).map (fun k => (0x400 + 128 * k, 128))) ++
    (((List.range 32).filter (fun k => l.liveV.getLsbD k)).map (fun k => (0x800 + 512 * k, 512)))

/-- The capability mask of a save area. -/
def State.savedC (s : State) (va : Nat) : BitVec 16 := (s.getWord (va + 0x358)).setWidth 16 ||| 0x8001

/-- The first address of some slots that is not mapped. -/
def State.slotUnmapped (s : State) (va : Nat) (l : List (Nat × Nat)) : Option Nat :=
  l.findSome? (fun x => s.firstUnmapped (va + x.1) x.2)

/-- Does a range lie in a frame with K = 1 (R289)? -/
def State.kernelAt (s : State) (va n : Nat) : Bool :=
  (findBlock (fun a => match s.translate a with
    | .at _ k _ => k
    | _ => false) va (blocksOf va n)).isSome

/-- What the slots of a save area are: a page that is not mapped, a frame with K = 1, or neither (R289, R292). -/
inductive SlotMeet where
  | ok
  | kernel
  | missing (m : Missed)
  deriving DecidableEq, Repr

def State.slotMeet (s : State) (va : Nat) (l : List (Nat × Nat)) : SlotMeet :=
  match (s.slotUnmapped va l).bind s.unmapped? with
  | some m => .missing m
  | none => if l.any (fun x => s.kernelAt (va + x.1) x.2) then .kernel else .ok

/-- What a restore of a record meets. -/
def State.loadMeet (s : State) (f : RecFields) (va : Nat) : SlotMeet := s.slotMeet va (loadSlots f (s.savedC va))

/-- The device writes slots of a save area: done, or discarded with the report of its code where a frame has K = 1 or the service
that it waited for, fault pg, found no page; or the page that it has to wait for (R289, R292, R295). -/
def State.writeSlots (s : State) (va : Nat) (l : List (Nat × Nat)) (pg : Option Nat) (rep : Nat → State) (t : State) :
    Except Missed State :=
  match s.slotMeet va l with
  | .ok => .ok t
  | .kernel => .ok (rep tKRES)
  | .missing m => if s.failedFor pg m then .ok (rep tPAGEFAULT) else .error m

/-- The report of a save area's write that is discarded: PC and VA are the record's and the area's (DESIGN CHOICE, log entry 94). -/
def State.reportSave (s : State) (task actn va : Nat) (pc : Word) (code : Nat) : State :=
  s.writeRecord ⟨code, pc, BitVec.ofNat 64 va, true⟩ task actn (s.record task).f.gid

/-- Does what a restore loads hold a poisoned line (R327)? -/
def State.loadPoisoned (s : State) (f : RecFields) (va : Nat) : Bool :=
  (loadSlots f (s.savedC va)).any (fun x => s.poisonedAt (va + x.1) x.2)

/-- The lane in focus loads the registers that the masks mark live; c15 comes from FRAME (R94, R104). -/
def State.loadRegs (s : State) (f : RecFields) (va : Nat) : State :=
  let liveC := s.savedC va
  s.onLn (fun l => { l with
    s := Vector.ofFn (fun (k : Fin 64) => if k ≠ 0 ∧ f.slive.getLsbD k.val then s.getWord (va + 8 * k.val) else l.s[k])
    c := (Vector.ofFn (fun (k : Fin 16) =>
      if k ≠ 0 ∧ liveC.getLsbD k.val then s.getCap (va + 0x200 + 16 * k.val) else l.c[k])).set 15 f.frame
    fpc := s.getWord (va + 0x300) &&& fpcMask
    flags := s.getWord (va + 0x308) &&& flagsMask
    nf := s.getWord (va + 0x310) &&& nfMask
    fmt := Vector.ofFn (fun (j : Fin 8) => (s.getWord (va + 0x318 + 8 * j.val)).setWidth 32 &&& 0x3FFFF)
    m := Vector.ofFn (fun (k : Fin 8) =>
      if f.mlive.getLsbD k.val then BitVec.ofNat 1024 (ofBytes (s.readV (va + 0x400 + 128 * k.val) 128)) else l.m[k])
    v := Vector.ofFn (fun (k : Fin 32) =>
      if f.vlive.getLsbD k.val then BitVec.ofNat 4096 (ofBytes (s.readV (va + 0x800 + 512 * k.val) 512)) else l.v[k])
    liveS := f.slive ||| 1
    liveC := liveC
    liveM := f.mlive
    liveV := f.vlive
    pc := f.pc
    from_ := f.pc })

/-- The lane in focus saves its live registers; the slot of s0 is never written. -/
def State.saveRegs (s : State) (va : Nat) : State :=
  let l := s.ln
  let s := (List.range 64).foldl (fun s (k : Nat) =>
    if k ≠ 0 ∧ l.liveS.getLsbD k then s.putData (va + 8 * k) (toBytes (lget l.s.toList k 0).toNat 8) else s) s
  let s := (List.range 16).foldl (fun s (k : Nat) =>
    if l.liveC.getLsbD k then s.putCap (va + 0x200 + 16 * k) (if k = 0 then 0 else lget l.c.toList k 0) else s) s
  let s := s.putData (va + 0x300) (toBytes l.fpc.toNat 8 ++ toBytes l.flags.toNat 8 ++ toBytes l.nf.toNat 8 ++
    l.fmt.toList.flatMap (fun x => toBytes x.toNat 8) ++ toBytes (l.liveC.toNat ||| 0x8001) 8 ++ List.replicate 160 0)
  let s := (List.range 8).foldl (fun s (k : Nat) =>
    if l.liveM.getLsbD k then s.putData (va + 0x400 + 128 * k) (toBytes (lget l.m.toList k 0).toNat 128) else s) s
  (List.range 32).foldl (fun s (k : Nat) =>
    if l.liveV.getLsbD k then s.putData (va + 0x800 + 512 * k) (toBytes (lget l.v.toList k 0).toNat 512) else s) s

/-- The slot of a save area that a result goes to, as its offset and its bytes. -/
def WakeRes.slot : WakeRes → Option (Nat × List Byte)
  | .scalar d v => if d = 0 then Option.none else some (8 * d, toBytes v.toNat 8)
  | .vector d v => some (0x800 + 512 * d, toBytes v.toNat 512)
  | _ => Option.none

/-- Sets the live bit of a result's register (R106). -/
def RecFields.setLive (f : RecFields) : WakeRes → RecFields
  | .scalar d _ => { f with slive := f.slive ||| BitVec.twoPow 64 d }
  | .vector d _ => { f with vlive := f.vlive ||| BitVec.twoPow 32 d }
  | _ => f

/-- ACTN of the activation that a record's last commit ended (Table 4-1, Table 7-7). -/
def RecFields.lastActn (f : RecFields) : Nat := (f.actn + 2 ^ 24 - 1) % 2 ^ 24

/-- Writes a scalar or a vector result into a parked record's save area and sets its live bit (R106), or the page that this waits
for. -/
def State.putSaved (s : State) (task : Nat) (res : WakeRes) (pg : Option Nat) : Except Missed State :=
  let f := (s.record task).f
  match s.areaVa f f.actn, res.slot with
  | some va, some (o, d) =>
    (s.writeSlots va [(o, d.length)] pg (s.reportSave task f.lastActn va f.pc) (s.putData (va + o) d)).map (fun t =>
      t.onRec task (fun r => { r with f := r.f.setLive res }))
  | _, _ => .ok s

end Sys2Proof.Machine
end

