-- ==== Sys2Proof/Machine/Msgs.lean ====
section
/-!
DEFINITION. Messages at their target core: handler records (R114 to R116, R256), pending buffers and spill queues
(R115, R117, R310), and accepted tags (R99).
-/

namespace Sys2Proof.Machine

/-- Is a record there and not ended? -/
def State.alive (s : State) (n : Nat) : Bool :=
  match tget? s.k.recs n with
  | some r => r.st != .ended
  | none => false

/-- The class of a record that joins a group: its override, else the one named (R306). -/
def State.classFor (s : State) (g named : Nat) : Nat := (s.group g).ovr.getD named

/-- The lowest frame of a pool that no live handler holds (R256). -/
def State.freeHandFrame (s : State) (b : Binding) : Option Nat :=
  (List.range 16).find? (fun j => match tget? b.live j with
    | some n => !s.alive n
    | none => true)

/-- Live handler records of a class on a core. -/
def State.handsOf (s : State) (lcore cls : Nat) : List Nat := (tget (s.core lcore).hands cls []).filter s.alive

/-- The pool capability narrowed to frame j (R256). -/
def handFrame (pool : Cap) (base j alloc : Nat) : Cap :=
  let n := 2 * areaBytes alloc
  mkCap (base + j * n) (capOid pool) (capRights pool) (capWoff pool + j * n / 4096) (n / 4096)

/-- A handler's deadline: arrival plus the relative one, none when that is none or the sum is too great (R116). -/
def handDeadline (now : Nat) (rel : Word) : Word :=
  if rel = BitVec.allOnes 64 ∨ 2 ^ 64 ≤ now + rel.toNat then BitVec.allOnes 64 else BitVec.ofNat 64 (now + rel.toNat)

/-- A handler record (R112, R116): s1 to s4 hold the message, s5 its source and class. -/
def State.handRec (s : State) (b : Binding) (lcore cls j : Nat) (m : Msg) : Rec :=
  let base := match tget? s.k.objs (capOid b.pool) with
    | some x => (capWindow b.pool x).1
    | none => 0
  let f : RecFields := { RecFields.init with
    pc := pc60 b.entry, hnd := true, pin := true, pcore := lcore % 2048, gid := b.gid, cls := s.classFor b.gid b.cls
    alloc := b.alloc, cbud := b.cbud, deadline := handDeadline (s.timeAt lcore) b.rel, frame := handFrame b.pool base j b.alloc
    slive := 0x3F }
  let regs := (List.range 4).map (fun i => (i + 1, lget m.body i 0)) ++ [(5, BitVec.ofNat 64 (m.src + cls * 2 ^ 32))]
  { Rec.init with
    f := f, st := .ready, pkg := lcore / 2048, die := s.bankOf lcore, since := s.time
    first := some (regs, []), know := m.know
    trap := m.ovr.map (fun x => ⟨tBUDGET, x.2, 0, false⟩)
    handles := m.ovr.map (fun x => x.1) }

/-- Starts a handler for a message, where a binding and a frame are free. -/
def State.startHand (s : State) (lcore cls : Nat) (m : Msg) : Option State :=
  match tget? (s.core lcore).binds cls with
  | none => none
  | some b => match s.freeHandFrame b with
    | none => none
    | some j =>
      let live := s.handsOf lcore cls
      if 16 ≤ live.length then none
      else
        let n := s.k.nextTask
        let s := s.onK (fun k => { k with recs := tset k.recs n (s.handRec b lcore cls j m), nextTask := n + 1 })
        some (s.onCore lcore (fun c => { c with
          binds := tset c.binds cls { b with live := tset b.live j n }
          hands := tset c.hands cls (live ++ [n]) }))

/-- The first message of a class in a spill queue, with its mark, and the rest. -/
def takeSpill (cls : Nat) : List (Bool × Msg) → Option ((Bool × Msg) × List (Bool × Msg))
  | [] => none
  | m :: t => if m.2.cls = cls then some (m, t) else (takeSpill cls t).map (fun r => (r.1, m :: r.2))

/-- The oldest waiting message of a class: of the pending buffer, then of the spill queue, unless the Skep delivers it
(R310). -/
def CoreSt.oldest (c : CoreSt) (cls : Nat) : Option (Msg × CoreSt) :=
  match tget c.pend cls [] with
  | m :: t => some (m, { c with pend := tset c.pend cls t })
  | [] => match takeSpill cls c.spill with
    | some ((false, m), t) => some (m, { c with spill := t })
    | _ => none

/-- Waiting messages of a class start handlers while they can; n bounds them. -/
def State.redeliverN (s : State) (lcore cls : Nat) : Nat → State
  | 0 => s
  | n + 1 => match (s.core lcore).oldest cls with
    | none => s
    | some (m, c) => match s.startHand lcore cls m with
      | none => s
      | some _ => match (s.onCore lcore (fun _ => c)).startHand lcore cls m with
        | none => s
        | some t => t.redeliverN lcore cls n

def State.redeliver (s : State) (lcore cls : Nat) : State :=
  if (s.core lcore).pre then s
  else s.redeliverN lcore cls ((tget (s.core lcore).pend cls []).length + (s.core lcore).spill.length)

/-- Every class of a core. -/
def State.redeliverAll (s : State) (lcore : Nat) : State :=
  (List.range 64).foldl (fun s cls => s.redeliver lcore cls) s

/-- Does a message of a class go to the spill queue of a core: while the core is being pre-empted, when the pending buffer is
full, or behind others (R115, R117)? -/
def CoreSt.spills (c : CoreSt) (cls : Nat) : Bool :=
  c.pre || 16 ≤ (tget c.pend cls []).length || c.spill.any (fun x => x.2.cls == cls)

/-- A message reaches its core, behind the waiting ones of its class. FNMODE.SR says who delivers it again (R298, R310). -/
def State.deliver (s : State) (m : Msg) : State :=
  let s1 := s.onCore m.dst (fun c =>
    if c.spills m.cls then { c with spill := c.spill ++ [(s.fnField 4 != 0, m)] }
    else { c with pend := tset c.pend m.cls (tget c.pend m.cls [] ++ [m]) })
  s1.redeliver m.dst m.cls

/-- Messages in the spill region of a core's die (R310). -/
def State.dieSpill (s : State) (lcore : Nat) : Nat :=
  ((s.k.cores.filter (fun e => e.1 / 256 == lcore / 256)).map (fun e => e.2.spill.length)).sum

/-- Does a message find the spill region full (R310)? -/
def State.spillFull (s : State) (m : Msg) : Bool :=
  (s.core m.dst).spills m.cls && decide (s.k.spillMax ≤ s.dieSpill m.dst)

/-- Messages on their way that p selects. -/
def State.msgsTo (s : State) (p : Msg → Bool) : Nat :=
  s.k.flits.countP (fun f => f.pending && match f.e.eff with
    | .msg m => p m
    | _ => false)

/-- Would a message find the spill region full behind those on their way to its die? Its sender then keeps it (R310). -/
def State.spillBound (s : State) (m : Msg) : Bool :=
  let c := s.core m.dst
  (c.spills m.cls || 16 ≤ (tget c.pend m.cls []).length + s.msgsTo (fun x => x.dst == m.dst && x.cls == m.cls)) &&
    decide (s.k.spillMax ≤ s.dieSpill m.dst + s.msgsTo (fun x => x.dst / 256 == m.dst / 256))

/-- A message from the Skep: the oldest of its class in a core's spill queue that FNMODE.SR = 1 left to it. -/
def State.skepDeliver (s : State) (lcore cls : Nat) : State :=
  let c := s.core lcore
  match takeSpill cls c.spill with
  | some ((true, m), t) =>
    if c.pre || 16 ≤ (tget c.pend cls []).length then s
    else (s.onCore lcore (fun c => { c with spill := t, pend := tset c.pend cls (tget c.pend cls [] ++ [m]) })).redeliver lcore cls
  | _ => s

/-- MESSAGE_DELIVER: a tag that was accepted before is dropped. A comb out of its slice, and a fenced one until its remap, take
it later (R24, R335). One that finds the spill region full is its sender's again, and is sent anew (R310). A device message has
task 0 and no tag. -/
def execMessageDeliver (src : MsgSrc) (s : State) : Host.Outcome State Fault Refusal :=
  match src with
  | .skep lcore cls => event s (s.combRuns (combOf lcore)) (s.skepDeliver lcore cls)
  | .effect id => match s.due? id with
    | none => .next s
    | some f => match f.e.eff with
      | .msg m =>
        if f.task ≠ 0 ∧ s.tagSeen f then .next (s.doneFlit id)
        else event s (s.combRuns (combOf m.dst)) (if s.spillFull m then s.onFlit id (fun f => { f with t0 := s.time, resends := 0 })
          else ((if f.task ≠ 0 then s.acceptTag f else s).doneFlit id).deliver { m with know := s.knowOf f })
      | _ => .next s

/-- A handler record has ended: messages of its core may start others. -/
def State.afterEnd (s : State) (task : Nat) : State :=
  let r := s.record task
  if r.f.hnd then s.redeliverAll (r.pkg * 2048 + r.f.pcore) else s

/-- Tasks whose activations a cancel has removed leave a comb's lease; one under which no other task issued commands ends
(R312 step 4). -/
def CombSt.loseTasks (c : CombSt) (gone : List Nat) : CombSt :=
  match c.lease with
  | some x =>
    let left := x.tasks.filter (fun n => !gone.contains n)
    if x.tasks.any gone.contains then
      { c with lease := if left.isEmpty then (if c.queue.isEmpty then none else some { x with left := 0 })
        else some { x with tasks := left } }
    else c
  | none => c

/-- The same on every comb of the launch. -/
def State.endLeases (s : State) (gone : List Nat) : State :=
  s.onK (fun k => { k with combs := k.combs.map (fun e => (e.1, e.2.loseTasks gone)) })

/-- Records that a cancel has removed: handlers leave room for waiting messages (R310), and leases lose them (R312). -/
def State.afterRemoved (s : State) (gone : List Nat) : State := gone.foldl State.afterEnd (s.endLeases gone)

/-- A record goes without a trap record, with its waits and, when it was HELD, with its overrun notice (R112, R252, R312);
OVQ falls when it was posted (R307). -/
def State.removeRec (s : State) (n : Nat) : State :=
  let r := s.record n
  let other (m : Msg) : Bool := !m.ovr.any (fun x => x.1 == n)
  let s := s.onRec n (fun r => { r with st := .ended, doneAt := some s.time, posted := false })
  s.onK (fun k => { k with
    ovq := if r.posted && r.st == .held then k.ovq - 1 else k.ovq
    flits := k.flits.filter (fun f => match f.e.eff with
      | .msg m => other m
      | _ => true)
    holds := terase k.holds n
    watches := k.watches.filter (fun w => w.task != n)
    refused := k.refused.filter (fun w => w.2.task != n)
    bwaits := k.bwaits.filter (fun w => w.task != n)
    wakes := k.wakes.filter (fun w => w.task != n)
    cores := k.cores.map (fun e => (e.1, { e.2 with
      localq := ndel e.2.localq n, spill := e.2.spill.filter (fun x => other x.2), pend := e.2.pend.map (fun p => (p.1, p.2.filter other)) }))
    combs := k.combs.map (fun e => (e.1, { e.2 with twait := e.2.twait.filter (fun w => w.task != n) })) })

/-- Sends a message of the device itself (R112). -/
def State.sendMsg (s : State) (m : Msg) (gid : Nat) : State := s.send ⟨.msg m, .relaxed, 0, 0, 0, []⟩ 0 0 gid m.src

/-- What follows a budget overrun at a commit, a wake or a fence's end: HELD with a notice or a posting, or the end of
the record (R112, R307). -/
def State.overrun (s : State) (task : Nat) : State :=
  let r := s.record task
  let ov := (s.group r.f.gid).ov
  let t : TrapInfo := ⟨tBUDGET, r.overPc, 0, false⟩
  if ov = 0 then ((s.writeRecord t task r.f.lastActn r.f.gid).countEnd task true r.never).afterEnd task
  else
    let s1 := s.onRec task (fun r => { r with st := .held, posted := s.fnField 2 != 0, f := { r.f with tpd := true } })
    match s.fnField 2 with
    | 0 => s1.sendMsg ⟨r.core, r.core, ov, [BitVec.ofNat 64 task, r.overPc, BitVec.ofNat 64 r.f.gid, 0], some (task, r.overPc), []⟩ r.f.gid
    | 1 => (s1.onK (fun k => { k with ovq := k.ovq + 1 })).post (s.pkgOf r.core) (.overrun task)
    | _ => (s1.onK (fun k => { k with ovq := k.ovq + 1 })).complete
        (cqEntry ((s.k.launch.map (fun l => l.cmd)).getD 0) 0x30 (s.k.launch.bind (fun l => l.tt)) task r.overPc.toNat 0)

end Sys2Proof.Machine
end

