-- ==== Sys2Proof/Machine/Turn.lean ====
section
/-!
DEFINITION. Turns: bringing a context and a lane into focus, the cycles that lanes spend (R112), what a lane does when it
is told to issue, and placing an instruction where a lane fetches it.
-/

namespace Sys2Proof.Machine

/-- A lane goes back into its context's table; a lane that was never used needs no entry. -/
def putLane (t : Tab Lane) (l : Nat) (x : Lane) : Tab Lane :=
  if x = Lane.init ∧ !thas t l then t else tset t l x

/-- Brings a lane of the context in focus into focus. -/
def State.focusLane (s : State) (l : Nat) : State :=
  if l = s.cur then s
  else
    let lanes := putLane s.k.lanes s.cur s.ln
    { s with cur := l, ln := tget lanes l (s.lane0 l), k := { s.k with lanes := lanes } }

/-- Brings a context into focus (DESIGN CHOICE, log entry 2). -/
def State.focus (s : State) (c : Nat) : State :=
  if c = s.kid then s
  else
    let k := { s.k with lanes := putLane s.k.lanes s.cur s.ln }
    let others := tset s.others s.kid k
    let n := tget others c Ctx.init
    { s with kid := c, k := n, others := terase others c, cur := 0, ln := tget n.lanes 0 Lane.init }

/-- BUDG falls by one for each cycle of a running lane; the PC at which it reaches zero is kept (R112)
(DEDUCED, log entry 45); cycles in which the lane's comb is out of its slice count too (DESIGN CHOICE, log entry 84). -/
def Lane.spend (l : Lane) (n : Nat) : Lane :=
  if l.st = .run ∨ l.st = .finish then
    if n < l.budg.toNat then { l with budg := l.budg - BitVec.ofNat 64 n }
    else if l.budg = 0 then l
    else { l with budg := 0, budgPc := some l.pc }
  else l

/-- Time passes for a context's lanes out of focus. -/
def Ctx.spend (k : Ctx) (n : Nat) : Ctx := { k with lanes := k.lanes.map (fun e => (e.1, e.2.spend n)) }

/-- Does a lane exist in the launch of the context in focus (R12, R96)? -/
def State.hasLane (s : State) (l : Nat) : Bool :=
  s.k.launch.isSome && decide (l / 8 < s.lcount) && decide (l % 8 < s.lanesOn)

/-- Has BUDG of the lane in focus reached zero without the event of R112 yet? CBUD = 0 sets no limit. -/
def State.budgetDue (s : State) : Bool := s.ln.budgPc.isSome && !s.ln.tpd && s.rec_.f.cbud != 0

/-- What the lane in focus issues: nothing unless it runs, no read of it is outstanding and
its comb is in its slice (R24, R96, R210); the budget
event first when it is due; else what its PC fetches (R137, R147). w is the first word, for the signature. -/
def State.toIssue (s : State) : Option (Nat × Instr) :=
  if (s.ln.st = .run ∨ s.ln.st = .finish) ∧ s.ln.rd.isNone ∧ s.inSlice (combOf s.lcore) then
    if s.budgetDue then some (0, .budgetExhausted s.cur)
    else match s.fetchAt s.ln.pc.toNat with
      | .instr w i => some (w, i)
      | .bad w => some (w, .unassignedEncoding)
      | .trap _ => some (0, .fetchFault)
  else none

/-- Fetch traps and bad words (R137, R147). -/
def execUnassignedEncoding (s : State) : Host.Outcome State Fault Refusal :=
  match s.fetchAt s.ln.pc.toNat with
  | .bad _ => event s (s.ln.st == .run || s.ln.st == .finish) (s.takeTrap ⟨tILLEGAL, s.ln.pc, 0, false⟩)
  | _ => .next s

/-- The record names the instruction that produced the PC, and the PC as its VA (R137); UNCORR names the instruction that is
fetched (R173, R327; DESIGN CHOICE, log entry 54). -/
def execFetchFault (s : State) : Host.Outcome State Fault Refusal :=
  match s.fetchAt s.ln.pc.toNat with
  | .trap code => event s (s.ln.st == .run || s.ln.st == .finish) (s.takeTrap ⟨code, if code = tUNCORR then s.ln.pc else s.ln.from_, s.ln.pc, rptOf code⟩)
  | _ => .next s

/-! Placing an instruction. -/

/-- A context with one package, a launch of one program object, and one record that runs on lane 0 with every register
live (DESIGN CHOICE, log entry 5). -/
def placeLaunch (code : Nat) : Launch :=
  { npkg := 1, pkgmap := [0], part := 0x1C8C08, valloc := 32, mode := 0, seed := [0, 0, 0, 0], codeOid := 1
    codeBase := code, codeLen := 65536, shape := none, root := 1, rootTask := 1, cmd := 0, tt := none, cyc0 := 0, blocks := [] }

def placeRec : Rec :=
  { Rec.init with f := { RecFields.init with gid := 1, alloc := 32 }, st := .active 0 }

def placeLane (pc : Word) : Lane :=
  { Lane.init with
    st := .run, task := 1, pc := pc, from_ := pc, liveS := BitVec.allOnes 64, liveV := BitVec.allOnes 32
    liveM := BitVec.allOnes 8, liveC := BitVec.allOnes 16, budg := BitVec.allOnes 64 }

/-- The launch of placeLaunch stands in the machine. -/
def State.place (s : State) : State :=
  let s := { s with
    cur := 0
    kid := 0
    k := { Ctx.init with
      pkgs := [0], logn := 3, pool := 65536, recs := [(1, placeRec)], groups := [(1, { Group.init with used := 1 })], nextTask := 2, nextGid := 2
      launch := some (placeLaunch 0) } }
  match s.newObj none .spread ⟨0, 16, .code, .w8, 0, 1, 0, 0, 0, false, false, false, false, none⟩ with
  | none => s
  | some (_, s) =>
    let base := s.k.owns.foldl (fun _ o => o.start * 4096) 0
    let s := s.mapVa base
    { s with ln := placeLane (BitVec.ofNat 64 base), k := { s.k with launch := some (placeLaunch base) } }

/-- Is the lane in focus about to fetch from its PC? -/
def State.fetching (s : State) : Bool :=
  s.hasLane s.cur && (s.ln.st == .run || s.ln.st == .finish) && s.ln.rd.isNone && s.inSlice (combOf s.lcore) && !s.budgetDue &&
    s.inCode s.ln.pc.toNat && s.inCode (s.ln.pc.toNat + 7) && s.ln.pc.toNat % 4 == 0 &&
    (s.phys? s.ln.pc.toNat).isSome && (s.phys? (s.ln.pc.toNat + 7)).isSome

/-- Puts bytes at the PC of the lane in focus, and makes its issue the next turn. -/
def State.putAtPc (s : State) (bytes : List Byte) : State :=
  { s.writeV s.ln.pc.toNat bytes with sched := [⟨0, 0, .issue s.kid s.cur⟩] }

end Sys2Proof.Machine
end

