-- ==== Sys2Proof/Machine/Lanes.lean ====
section
/-!
DEFINITION. From a bank to a running lane: placement, the offer (R110, R300 to R303), the load (R96), local queues
(R301), and pre-emption (R100, R103, R308, R309).
-/

namespace Sys2Proof.Machine

/-- Is a lane there, its comb in its slice and neither fenced nor under test (R24, R335)? -/
def State.laneOn (s : State) (l : Nat) : Bool := s.hasLane l && s.inSlice (laneComb l) && s.combUp (laneComb l)

/-- Is a lane there and idle, its core not being pre-empted, its comb up? -/
def State.laneFree (s : State) (l : Nat) : Bool :=
  s.laneOn l && (s.lane l).st == .idle && !(s.core (l / 8)).pre

/-- Lanes of a comb that run activations of a class (R302). -/
def State.busy (s : State) (comb cls : Nat) : Nat :=
  (s.k.recs.filter (fun r => r.2.f.cls == cls && match r.2.st with
    | .active l => laneComb l == comb
    | _ => false)).length

/-- The eligibility check of R302. -/
def State.eligible (s : State) (comb cls : Nat) : Bool :=
  let unmet (k : Nat) : Nat := resvOf s.k.rsvlo s.k.rsvhi k - s.busy comb k
  let busy := ((List.range 16).map (fun k => s.busy comb k)).sum
  let other := (((List.range 16).filter (fun k => k != cls)).map unmet).sum
  unmet cls != 0 || other + 1 ≤ s.combLanes - busy

/-- May a lane take a record as far as its state, place and class go (R110, R302)? -/
def State.mayTake (s : State) (l : Nat) (r : Rec) : Bool :=
  (r.st == .ready || r.st == .loc (l / 8)) && r.pkg == lanePkg l && (!r.f.pin || r.f.pcore == l / 8 % 2048) &&
    r.notBefore == 0 && s.eligible (laneComb l) r.f.cls

/-- The order of R303: class, deadline, task (DEDUCED, log entry 44). -/
def beforeRec (a b : Nat × Rec) : Bool :=
  a.2.f.cls < b.2.f.cls || (a.2.f.cls == b.2.f.cls && (a.2.f.deadline.ult b.2.f.deadline ||
    (a.2.f.deadline == b.2.f.deadline && a.1 < b.1)))

/-- The first record of a list in that order. -/
def bestRec : List (Nat × Rec) → Option (Nat × Rec)
  | [] => none
  | x :: t => match bestRec t with
    | none => some x
    | some y => some (if beforeRec x y then x else y)

/-- The record that a lane is offered: of its own bank or local queue, else of another bank of the package (R300). -/
def State.offer (s : State) (l : Nat) : Option (Nat × Rec) :=
  let all := s.k.recs.filter (fun r => s.mayTake l r.2)
  let own := all.filter (fun r => r.2.die == s.bankOf (l / 8) || r.2.st == .loc (l / 8))
  if own.isEmpty then bestRec all else bestRec own

/-- Takes a record out of a local queue. -/
def State.unqueue (s : State) (task lcore : Nat) : State :=
  s.onCore lcore (fun c => { c with localq := ndel c.localq task })

/-- Ends a record by a trap of an activation: its record is written and it is counted (R102, R106, R108). -/
def State.endByTrapOf (s : State) (task actn : Nat) (t : TrapInfo) : State :=
  let r := s.record task
  (s.writeRecord t task actn r.f.gid).countEnd task true r.never

/-- The same for the activation that has not committed. -/
def State.endByTrap (s : State) (task : Nat) (t : TrapInfo) : State := s.endByTrapOf task (s.record task).f.actn t

/-- An activation is abandoned, and its record ends by the trap: its last NEVER is the activation's own (R108). -/
def State.endAbandoned (s : State) (l : Nat) (f : Rec → Rec) (t : TrapInfo) : State :=
  let x := s.lane l
  ((s.abandonWith l (fun r => { f r with never := x.never })).endByTrap x.task t).afterEnd x.task

/-- Before a record's first dispatch the device writes its starting registers into save area 0 of its frame (R94). While
the page of those slots is not mapped they stay unwritten, and the record parks on the page (DESIGN CHOICE, log entry 37). A frame with
K = 1 takes no write: the load that follows ends the record with KRES (R289). -/
def State.prepare (s : State) (n : Nat) : State :=
  let r := s.record n
  match r.first, s.areaVa r.f 0 with
  | some (ws, cs), some va =>
    match s.slotMeet va [(0, 0x360)] with
    | .ok => (s.writeFirst va ws cs).onRec n (fun r => { r with first := none })
    | .kernel => s.onRec n (fun r => { r with first := none })
    | .missing _ => s
  | _, _ => s

/-- DISPATCH: the lane takes the record and starts to load (R96). An allocation that the launch does not have is a REGBOUND record,
with the record's PC (R18; DESIGN CHOICE, log entry 80). -/
def execDispatch (task l : Nat) (s : State) : Host.Outcome State Fault Refusal :=
  match s.offer l with
  | none => .next s
  | some (n, r) =>
    let late : Bool := decide (r.f.deadline.toNat < s.timeAt (l / 8))
    let bad : Bool := s.valloc < r.f.alloc || !(r.f.alloc == 8 || r.f.alloc == 16 || r.f.alloc == 24 || r.f.alloc == 32)
    let s1 := if late then s.onK (fun k => { k with dlmiss := k.dlmiss + 1 }) else s
    event s (n == task && s.laneFree l)
      (if bad then ((s1.unqueue n (l / 8)).endByTrap n ⟨tREGBOUND, r.f.pc, 0, false⟩).afterEnd n
      else (((s1.prepare n).unqueue n (l / 8)).onRec n (fun r => { r with
        st := .active l, core := l / 8, die := s.bankOf (l / 8), run := r.run + 1 })).onLane l (fun x =>
        { x.toIdle with
          st := .load, task := n, pc := r.f.pc, from_ := r.f.pc, budg := if r.f.cbud = 0 then BitVec.allOnes 64 else BitVec.ofNat 64 r.f.cbud
          never := r.never
          know := r.know
          trapc := match r.trap with
            | some t => BitVec.ofNat 64 t.code
            | none => 0
          trappc := match r.trap with
            | some t => t.pc
            | none => 0
          trapva := match r.trap with
            | some t => t.va
            | none => 0 }))

/-- REGISTERS_LOADED: the registers come from save area ACTN mod 2, or the dispatch meets an uncorrectable error or a frame with
K = 1 (R96, R289, R327). Its trap record has the record's PC and the save area as VA (DESIGN CHOICE, log entry 94). -/
def execRegistersLoaded (l : Nat) (s : State) : Host.Outcome State Fault Refusal :=
  let t := s.focusLane l
  let r := t.rec_
  match t.areaVa r.f r.f.actn with
  | none => .next s
  | some va =>
    let m := t.loadMeet r.f va
    event s (s.laneOn l && t.ln.st == .load && r.first.isNone && (m == .ok || m == .kernel))
      (if m == .kernel then t.endAbandoned l id ⟨tKRES, r.f.pc, BitVec.ofNat 64 va, false⟩
      else if t.loadPoisoned r.f va then t.endAbandoned l id ⟨tUNCORR, r.f.pc, BitVec.ofNat 64 va, true⟩
      else (t.loadRegs r.f va).onLn (fun x => { x with st := if x.preq.isSome then .finish else .run }))

/-- FRAME_LOAD_FAULT: the record parks on the page of its frame (R96). Where the page that its starting registers wait
for has been mapped meanwhile, it is READY again at once. A PAGEFAULT that comes of it has the record's PC (DESIGN CHOICE, log entry
94). -/
def execFrameLoadFault (l : Nat) (s : State) : Host.Outcome State Fault Refusal :=
  let t := s.focusLane l
  let r := t.rec_
  let on := s.laneOn l && t.ln.st == .load
  match t.areaVa r.f r.f.actn with
  | none => .next s
  | some va => match t.loadMeet r.f va with
    | .missing m => event s on (t.parkPage l m r.f.pc (BitVec.ofNat 64 ((t.slotUnmapped va (loadSlots r.f (t.savedC va))).getD va)))
    | _ => event s (on && r.first.isSome) (t.abandon l)

/-- LOCAL_QUEUE_FILL: the best record that may run on the core moves into its queue (R301). -/
def execLocalQueueFill (task lcore : Nat) (s : State) : Host.Outcome State Fault Refusal :=
  let l := lcore * 8
  let c := s.core lcore
  let idle := (List.range s.lanesOn).any (fun n => s.laneFree (l + n))
  let cand := s.k.recs.filter (fun r => r.2.st == .ready && r.2.die == s.bankOf lcore && s.mayTake l r.2)
  event s (s.laneOn l && idle && c.localq.length < 4 && (bestRec cand).any (fun x => x.1 == task))
    ((s.onRec task (fun r => { r with st := .loc lcore })).onCore lcore (fun c => { c with localq := c.localq ++ [task] }))

/-! Budget and pre-emption. -/

/-- BUDGET_EXHAUSTED: TPD, and a commit at the next SIG (R112). -/
def execBudgetExhausted (l : Nat) (s : State) : Host.Outcome State Fault Refusal :=
  let t := s.focusLane l
  event s (s.laneOn l && (t.ln.st == .run || t.ln.st == .finish) && t.budgetDue)
    (t.onLn (fun x => { x with tpd := true, st := .finish }))

/-- ABANDON_TIMEOUT: 2 us after a pre-emption request a lane that is not at its commit point is abandoned (R100). -/
def execAbandonTimeout (l : Nat) (s : State) : Host.Outcome State Fault Refusal :=
  let x := s.lane l
  event s (s.laneOn l && (x.st == .run || x.st == .finish || x.st == .load) && x.preq.any (fun t => decide (t + 2000 ≤ s.time)))
    (s.abandon l)

/-- A lane meets a pre-emption request (Table 4-5). -/
def Lane.preempt (l : Lane) (now : Nat) : Lane :=
  match l.st with
  | .off | .idle => l
  | .run => { l with preq := some (l.preq.getD now), st := .finish }
  | _ => { l with preq := some (l.preq.getD now) }

/-- The lanes of a core. -/
def State.coreLanes (s : State) (lcore : Nat) : List Nat := (List.range s.lanesOn).map (fun n => lcore * 8 + n)

/-- PREEMPTION_MESSAGE: the core's lanes are asked to commit, and unpinned local records return (R309). -/
def execPreemptionMessage (lcore : Nat) (s : State) : Host.Outcome State Fault Refusal :=
  let c := s.core lcore
  let back := c.localq.filter (fun n => !(s.record n).f.pin)
  let s1 := (s.coreLanes lcore).foldl (fun s l => s.onLane l (fun x => x.preempt s.time)) s
  let s2 := back.foldl (fun s n => s.onRec n (fun r => { r with st := .ready, since := s.time })) s1
  event s (s.laneOn (lcore * 8) && c.asked) (s2.onCore lcore (fun c => { c with
    asked := false, urgAsked := false, pre := true, urgent := c.urgent || c.urgAsked, localq := c.localq.filter (fun n => !back.contains n) }))

/-- Classes of the activations that a core runs. -/
def State.coreClasses (s : State) (lcore : Nat) : List Nat :=
  (s.k.recs.filter (fun r => match r.2.st with
    | .active l => l / 8 == lcore
    | _ => false)).map (fun r => r.2.f.cls)

/-- Cores of a package that run something. -/
def State.runningCores (s : State) (pkg : Nat) : List Nat :=
  s.k.recs.foldl (fun a r => match r.2.st with
    | .active l => if lanePkg l = pkg then nadd a (l / 8) else a
    | _ => a) []

/-- The core whose most urgent class has the highest number, the lowest core on ties (R308). -/
def worstCore (f : Nat → Nat) : List Nat → Option Nat
  | [] => none
  | c :: t => match worstCore f t with
    | none => some c
    | some d => some (if f d ≤ f c then c else d)

/-- Is there an idle lane of its package that may take a record, of its own core when it is pinned? -/
def State.idleFor (s : State) (r : Rec) : Bool :=
  let core (c : Nat) : Bool := s.eligible (c / 4) r.f.cls && (s.coreLanes c).any (fun l => s.laneFree l)
  if r.f.pin then core (r.pkg * 2048 + r.f.pcore) else (List.range 2048).any (fun (i : Nat) => core (r.pkg * 2048 + i))

/-- Is a record one that may pre-empt: READY, of a class that PRECLS allows, PRECLS enabled (R308)? -/
def State.urgentRec (s : State) (r : Rec) : Bool :=
  let v := s.k.precls.toNat
  v / 16 % 2 == 1 && r.st == .ready && decide (r.f.cls ≤ v % 16)

/-- URGENCY_PREEMPT: for 1 us an urgent record has found no eligible idle lane (R308). -/
def execUrgencyPreempt (pkg : Nat) (s : State) : Host.Outcome State Fault Refusal :=
  let urgent := (s.k.recs.filter (fun r => s.urgentRec r.2 && r.2.pkg == pkg &&
    decide (max r.2.since r.2.lack + 1000 ≤ s.time) && !s.idleFor r.2)).map (fun r => r.2.f.cls)
  let c := urgent.foldl min 16
  let top (x : Nat) : Nat := (s.coreClasses x).foldl min 16
  let cand := (s.runningCores pkg).filter (fun x => decide (c < top x))
  let busy := s.k.cores.any (fun e => e.1 / 2048 == pkg && (e.2.urgent || e.2.urgAsked))
  match worstCore top cand with
  | none => .next s
  | some x => event s (!urgent.isEmpty && !busy) (s.onCore x (fun c => { c with asked := true, urgAsked := true }))

end Sys2Proof.Machine
end

