-- ==== Sys2Proof/Machine/Commit.lean ====
section
/-!
DEFINITION. The commit (R98): verification (R324, R325), draining the outbox with what each entry does there (R227),
saving the registers, writing the record with its next state (R95, R112), and the end of a fence's wait (R63).
-/

namespace Sys2Proof.Machine

/-! Verification. -/

/-- The comb of a lane as a counted unit. -/
def State.combUnit (s : State) (comb : Nat) : FaultUnit :=
  let x := s.placeOf comb
  .comb x.1 (x.2 / 64) (x.2 % 64)

/-- A mismatch abandons the activation; the fourth one without a commit between ends the record (R325). -/
def State.mismatch (s : State) (pc : Word) : State :=
  let c := (s.record s.ln.task).mism + 1
  let s1 := s.bump (s.combUnit (laneComb s.cur)) true
  if 4 ≤ c then
    s1.endAbandoned s.cur (fun r => { r with mism := c }) ⟨tSIGFAIL, pc, 0, true⟩
  else s1.abandonWith s.cur (fun r => { r with mism := c, st := .ready, since := s.time })

/-- BLOCK_VERIFY: parity says that the checker found a parity error in S or in its own copy of a word, in the block that
the last retired SIG ends. -/
def execBlockVerify (l : Nat) (parity : Bool) (s : State) : Host.Outcome State Fault Refusal :=
  let t := s.focusLane l
  let on := s.laneOn l && (t.ln.st == .run || t.ln.st == .finish || t.ln.st == .verify)
  if t.ln.mism.isSome || (parity && t.ln.lastSig.isSome) then event s on (t.mismatch (t.ln.mism.getD (t.ln.lastSig.getD 0)))
  else if parity then .next s
  else event s (on && t.ln.st == .verify && !t.commandsOf l) (t.onLn (fun x => { x with st := .drain }))

/-! Draining. -/

/-- The flits of a join: one for each element of a count join, one for each 64 bytes otherwise (R343). -/
def joinParts (t : LTy) (w : Wd) (va : Nat) (d : List Byte) : List Eff :=
  let n := if t = .count then wdBytes w else if d.length = 512 then 64 else d.length
  let parts := if n = 0 then [] else chunks n (d.length / n) d
  (mapFrom (fun i x => Eff.join t w (va + i * n) x) 0 parts)

/-- The flits of an effect. -/
def flitsOf : Eff → List Eff
  | .join t w va d => joinParts t w va d
  | .store va d o => if d.length = 512 then mapFrom (fun i x => Eff.store (va + i * 64) x o) 0 (chunks 64 8 d) else [.store va d o]
  | .window l off d => [.words l (storeWords off d) false]
  | e => [e]

/-- The bank of a record. -/
def State.bankEnd (s : State) (task : Nat) : End :=
  let r := s.record task
  ⟨lget s.pkgmap r.pkg 0, s.dieOf r.die, 0⟩

/-- The packages once a wake has left for the bank of a record. -/
def State.wakeSent (s : State) (task : Nat) (src : End) : Tab Pkg :=
  s.wire 5 (2 ^ 65 + s.time) src (s.bankEnd task)

/-- The Forager's acknowledgement of a wake leaves the bank (R344). -/
def State.wakeAcked (s : State) (w : Wake) : State := { s with hw := s.wire 2 (2 ^ 69 + s.time) (s.bankEnd w.task) ⟨w.src, 0, 0⟩ }

/-- A wake on its way to a run of a record (R106). -/
def State.wakeUp (s : State) (task run : Nat) (know : Know) (src : End) (res : WakeRes) (never : Bool) : State :=
  { s with
    k := { s.k with wakes := s.k.wakes ++ [⟨task, run, know, res, never, src.pkg, s.time, 0, none⟩] }
    hw := s.wakeSent task src }

/-- Waiters of a core's barrier whose phase is complete wake (R260). -/
def State.judgeBarrier (s : State) (lcore b : Nat) : State :=
  match tget? (s.core lcore).bars b with
  | none => s
  | some x =>
    let hit (w : BWaiter) : Bool := w.lcore == lcore && w.b == b && phaseDone x.p w.q
    let s1 := (s.k.bwaits.filter hit).foldl (fun s w => s.wakeUp w.task w.run (tget x.know w.q []) (s.combEnd lcore) .none false) s
    s1.onK (fun k => { k with bwaits := k.bwaits.filter (fun w => !hit w) })

/-- Waiters of a TWE channel whose id has passed wake (R245). -/
def State.judgeChan (s : State) (comb ch : Nat) : State :=
  let c := s.comb comb
  let y := tget c.chans ch Chan.init
  let d := y.doneId
  let hit (w : TWaiter) : Bool := w.ch == ch && w.id ≤ d
  let s1 := (c.twait.filter hit).foldl (fun s w => s.wakeUp w.task w.run (y.doneKnow w.id) (s.combEnd (4 * comb)) .none false) s
  s1.onComb comb (fun c => { c with twait := c.twait.filter (fun w => !hit w) })

/-- SETDL and SETBG on a record of the issuer's group or a descendant (R253); g changes the field, late notes it for the
record's next commit. -/
def State.setField (s : State) (gid task : Nat) (g : RecFields → RecFields) (late : Rec → Rec) : State :=
  let r := s.record task
  if !s.alive task || !s.within gid r.f.gid || (s.group r.f.gid).cancelling then s
  else match r.st with
    | .loc _ | .active _ | .fenced _ => s.onRec task late
    | .held => (s.onRec task (fun r => { r with f := g r.f })).releaseHeld task none
    | _ => s.onRec task (fun r => { r with f := g r.f })

/-- A new group under its parent; under a cancelling parent it is cancelling from the start (R250, R314). -/
def State.newGroup (s : State) (gid parent compl fault ov : Nat) : State :=
  let p := s.group parent
  let g : Group := { Group.init with
    parent := some parent, compl := compl, fault := fault, ov := ov, cancelling := p.cancelling, marks := p.marks
    status := if p.status = 2 then 2 else 0 }
  let s1 := s.onK (fun k => { k with groups := tset k.groups gid g })
  if p.status = 2 then s1.sendLine gid compl (toBytes 2 8 ++ List.replicate 56 0) [] else s1

/-- What an outbox entry does when it drains: some effects act here, the others leave for their homes. BINIT of a bound barrier
clears its mismatch flag (R258; DESIGN CHOICE, log entry 75). -/
def State.drainEff (s : State) (l : Nat) (e : Entry) : State :=
  let x := s.lane l
  let r := s.record x.task
  let lc := l / 8
  match e.eff with
  | .binit _ b sc n => (s.onCore lc (fun c => { c with bars := tset c.bars b ⟨sc, n, 0, false, []⟩ })).judgeBarrier lc b
  | .bwait _ b q =>
    (s.onK (fun k => { k with bwaits := k.bwaits.filter (fun w => w.task != x.task) ++ [⟨x.task, r.run, lc, b, q⟩] })).judgeBarrier lc b
  | .twwait c ch id => (s.onComb c (fun y => { y with twait := y.twait.filter (fun w => w.task != x.task) ++ [⟨x.task, r.run, ch, id⟩] })).judgeChan c ch
  | .hreg _ cls b =>
    if s.liveGroup b.gid ∧ !(s.group b.gid).cancelling then (s.onCore lc (fun c => { c with binds := tset c.binds cls b })).redeliver lc cls
    else s
  | .hdrop _ cls => s.onCore lc (fun c => { c with binds := terase c.binds cls })
  | .tret n pc => s.releaseHeld n (some pc)
  | .setdl n v => s.setField r.f.gid n (fun f => { f with deadline := v }) (fun r => { r with newDl := some v })
  | .setbg n v => s.setField r.f.gid n (fun f => { f with cbud := v }) (fun r => { r with newBg := some v })
  | .tgnew g p c f ov =>
    (if thas s.k.groups g then s else s.newGroup g p c f ov).onK (fun k =>
      { k with bound := tset k.bound (tagOf x.task r.f.actn e.seq) (g, s.time) })
  | .tgclose g o =>
    let s1 := s.onGroup g (fun y => { y with closed := true })
    if o = 0 ∨ (s.group g).cancelling then s1 else s1.onK (fun k => { k with objs := tmap k.objs o (fun y => { y with handed := true }) })
  | .cancel g =>
    let s1 := s.send e x.task r.f.actn r.f.gid lc
    if s.within g r.f.gid then s1.onLane l (fun y => { y with box := [], selfCancel := true }) else s1
  | .ofork o =>
    (s.onK (fun k => { k with objs := tmap k.objs o (fun y => { y with prov := false }) })).onLane l (fun y =>
      { y with rObj := ndel y.rObj o })
  | .spawn n _ _ _ =>
    ((s.send e x.task r.f.actn r.f.gid lc).onK (fun k =>
      { k with bound := tset k.bound (tagOf x.task r.f.actn e.seq) (n, s.time) })).onLane l (fun y => { y with rTask := ndel y.rTask n })
  | _ => (flitsOf e.eff).foldl (fun s f => s.send { e with eff := f } x.task r.f.actn r.f.gid lc) s

/-- Entries that act as they drain, once for their tag (R99, R227); the others that do are the same when they act again. -/
def direct : Eff → Bool
  | .binit .. | .hreg .. | .hdrop .. | .tret .. | .setdl .. | .setbg .. | .tgclose .. => true
  | _ => false

/-- Does an earlier effect of the lane's task hold an entry in the outbox: .sc for one that acts as it drains (R210, R357), a
BARR on its barrier for BINIT (R227)? A message waits for room in the spill region (R310). -/
def State.drainHeld (s : State) (l : Nat) (e : Entry) : Bool :=
  let any := s.undone (s.lane l).task s.k.nextFlit
  let strong := any (fun g => ordSc g.e.ord || s.deviceEff g.e.eff)
  match e.eff with
  | .msg m => s.spillBound m
  | .binit _ b _ _ => strong || any (fun g => match g.e.eff with
    | .barr _ c _ _ => c == b
    | _ => false)
  | .hreg .. | .hdrop .. | .tret .. | .setdl .. | .setbg .. | .tgnew .. | .tgclose .. | .ofork _ => strong
  | _ => false

/-- An outbox entry acts or leaves, but for one that has acted before. -/
def State.drainOne (s : State) (l : Nat) (e : Entry) : State :=
  let x := s.lane l
  let tag := tagOf x.task (s.record x.task).f.actn e.seq
  if direct e.eff then (if s.tagKnown tag then s else (s.noteTag tag).drainEff l e) else s.drainEff l e

/-- What the record's effects before a read number below: a read stands before the effect of a lane that is numbered q (R61 edge
1). -/
def State.markReads (s : State) (l q : Nat) : State :=
  if (s.lane l).reads.contains q then s.onRec (s.lane l).task (fun r => { r with mark := s.k.nextFlit }) else s

/-- What follows a .sc effect comes after it (R61 edge 1, R357). -/
def State.markStrong (s : State) (task : Nat) (e : Entry) : State :=
  if ordSc e.ord || s.deviceEff e.eff then s.onRec task (fun r => { r with mark := s.k.nextFlit }) else s

/-- COMMIT_DRAIN: the first outbox entry leaves (R98 step 2). -/
def execCommitDrain (l : Nat) (s : State) : Host.Outcome State Fault Refusal :=
  match (s.lane l).box with
  | [] => .next s
  | e :: rest => event s (s.laneOn l && (s.lane l).st == .drain && !s.drainHeld l e)
      ((((s.onLane l (fun x => { x with box := rest })).markReads l e.seq).drainOne l e).markStrong (s.lane l).task e)

/-! Saving and writing. -/

/-- COMMIT_SAVE: the live registers go to save area (ACTN + 1) mod 2, and the core's lines to the save region (R336). A page that is
not mapped is served first; one that cannot be served, or a frame with K = 1, takes the whole save with it, and is reported with the
lane's next PC (R98, R289, R295; DESIGN CHOICE, log entries 37 and 94). -/
def execCommitSave (l : Nat) (s : State) : Host.Outcome State Fault Refusal :=
  let t := s.focusLane l
  let r := t.rec_
  let on := s.laneOn l && t.ln.st == .drain && t.ln.box.isEmpty && t.ln.fin.isNone
  let saved (u : State) : State := (u.onLn (fun x => { x with st := .save })).writeBack (l / 8)
  match t.areaVa r.f (r.f.actn + 1) with
  | none => event s on (saved t)
  | some va => match t.writeSlots va (saveSlots t.ln) t.ln.pg (t.reportSave t.ln.task r.f.actn va t.ln.pc) (t.saveRegs va) with
    | .ok u => event s on (saved u)
    | .error m => event s on ((t.onLn (fun x => { x with pg := some (t.faultIdx m) })).postFault m)

/-- A record becomes READY, or LOCAL on its core when it is pinned and the queue of four has room (R95, R254, R301; DESIGN
CHOICE, log entry 68). -/
def State.settle (s : State) (task lcore : Nat) : State :=
  let r := s.record task
  if r.f.pin ∧ (s.core lcore).localq.length < 4 then
    (s.onRec task (fun r => { r with st := .loc lcore, since := s.time })).onCore lcore (fun c =>
      { c with localq := c.localq ++ [task] })
  else s.onRec task (fun r => { r with st := .ready, since := s.time })

/-- Has the mark of a cancel reached the package of a group's record (R312)? -/
def State.cancelledAt (s : State) (gid pkg : Nat) : Bool :=
  let g := s.group gid
  g.status == 2 || (g.cancelling && g.marks.contains pkg)

/-- The fields that a completed commit writes (Table 4-1, R95, R253). -/
def commitFields (l : Lane) (r : Rec) : RecFields :=
  { r.f with
    pc := pc60 l.pc, pre := l.preq.isSome, tpd := r.f.tpd || l.tpd, deadline := r.newDl.getD r.f.deadline
    cbud := r.newBg.getD r.f.cbud, cls := r.newCls.getD r.f.cls, vlive := l.liveV, mlive := l.liveM
    slive := l.liveS ||| 1, actn := (r.f.actn + 1) % 2 ^ 24 }

/-- RECORD_WRITE: step 4 of the commit, or the end of a record by its final trap (R98, R102). The trap registers of a handler are
clear in the activations that follow (R33; DESIGN CHOICE, log entry 81). -/
def execRecordWrite (l : Nat) (s : State) : Host.Outcome State Fault Refusal :=
  let x := s.lane l
  let n := x.task
  let r := s.record n
  let gone := s.cancelledAt r.f.gid r.pkg || x.selfCancel
  let idle (u : State) : State := ((u.release x.rTask x.rObj).dropCommands l).onLane l Lane.toIdle
  let drop (u : State) : State := (u.removeRec n).afterRemoved [n]
  match x.fin with
  | some t => event s (s.laneOn l && x.st == .drain && x.box.isEmpty)
      (if gone then drop (idle (s.writeBack (l / 8)))
      else ((idle ((s.writeBack (l / 8)).onRec n (fun r => { r with never := x.never }))).endByTrap n t).afterEnd n)
  | none =>
    let s1 := (idle (s.markReads l x.seqn)).onRec n (fun r => { r with
      f := commitFields x r, newCls := none, confirm := false, mism := 0, trap := none, newDl := none, newBg := none, never := x.never
      overPc := x.budgPc.getD r.overPc, core := l / 8, die := s.bankOf (l / 8), know := x.know })
    let s2 := s1.onK (fun k => { k with holds := if tget k.holds n (2 ^ 24) = r.f.actn then terase k.holds n else k.holds })
    event s (s.laneOn l && x.st == .save)
      (if gone then drop s2
      else match x.susp with
        | some .finish => (s2.countEnd n false x.never).afterEnd n
        | some (.park e) => s2.onRec n (fun r => { r with st := .parked (match e with
            | .bwait .. => .barrier
            | .twwait .. => .twe
            | _ => .watch) })
        | some (.fence sc) => s2.onRec n (fun r => { r with st := .fenced sc })
        | _ => if r.f.tpd || x.tpd then s2.overrun n else s2.settle n (l / 8))

/-- FENCE_RELEASE: the effects of the fence's commit are applied, and the fence has its place in the order of R63. -/
def execFenceRelease (task : Nat) (s : State) : Host.Outcome State Fault Refusal :=
  let r := s.record task
  match r.st with
  | .fenced sc => event s (!s.undone task s.k.nextFlit (fun _ => true))
      (let t := s.fenceDone task sc
      if r.f.tpd then t.overrun task else t.settle task r.core)
  | _ => .next s

/-- WAKE: the result goes into the save area, whose page it waits for, and the record is READY, HELD or ended (R106, R112). A
wake of another run of the record is dropped: the run that is parked has registered its own wait (R99). -/
def execWake (n : Nat) (s : State) : Host.Outcome State Fault Refusal :=
  match s.k.wakes[n]? with
  | none => .next s
  | some w =>
    let r := s.record w.task
    let s1 := (s.onK (fun k => { k with wakes := ldrop k.wakes n })).wakeAcked w
    let waits : Bool := match r.st with
      | .parked (.page ..) => false
      | .parked _ => true
      | _ => false
    if r.run ≠ w.run ∨ r.st = .ended then .next s1
    else match w.res with
    | .trap t => event s waits ((s1.endByTrapOf w.task r.f.lastActn t).afterEnd w.task)
    | res =>
      match s1.putSaved w.task res w.pg with
      | .error m => event s waits ((s.onK (fun k => { k with wakes := lset k.wakes n { w with pg := some (s.faultIdx m) } })).postFault m)
      | .ok t =>
        let s2 := t.onRec w.task (fun r => { r with
          know := Know.join r.know w.know
          never := match res with
            | .none => r.never
            | _ => w.never })
        event s waits (if r.f.tpd then s2.overrun w.task
          else s2.onRec w.task (fun r => { r with st := .ready, since := s.time }))

end Sys2Proof.Machine
end

