-- ==== Sys2Proof/Machine/Apply.lean ====
section
/-!
DEFINITION. Effects at their homes: joins of every type (R41 to R49), exclusive stores (R47, R215), caps (R48, R221),
window stores (R205), side logs (R212, R295), reports (R326), and the watches that a change wakes (R51 to R55).
-/

namespace Sys2Proof.Machine

/-- KEY of R41 is floatKey; the join of one element. -/
def joinElem (t : LTy) (w old new : Nat) : Nat :=
  match t with
  | .maxn => if old < new then new else old
  | .maxi => if sgn w old < sgn w new then new else old
  | .minn => if new < old then new else old
  | .mini => if sgn w new < sgn w old then new else old
  | .maxf => if floatKey 32 old < floatKey 32 new then new else old
  | .minf => if floatKey 32 new < floatKey 32 old then new else old
  | .union => old ||| new
  | .count => min (old + new) (2 ^ w - 1)
  | .arr => (addV fmtF32 .rne (unpackF fmtF32 old) (unpackF fmtF32 new)).1
  | _ => old

/-- A reported fault for an effect (R326). -/
def State.report (s : State) (f : Flit) (code va : Nat) : State :=
  s.writeRecord ⟨code, f.e.pc, BitVec.ofNat 64 va, true⟩ f.task f.actn f.gid

/-- The count tag of a flit with its address (R44). -/
def countKey (f : Flit) (va : Nat) : Nat :=
  ((f.task * 2 ^ 22 + f.actn % 2 ^ 22) * 2 ^ 10 + f.e.cseq % 2 ^ 10) * 2 ^ 60 + va

/-- Does the home still hold a count pair: not beyond 80 us, but for a hold set (R44)? -/
def State.pairSeen (s : State) (key : Nat) : Bool :=
  (tget? s.k.seen key).any (fun t => decide (s.time ≤ t + 80000) || s.heldAct (key / 2 ^ 70))

/-- A cache may keep what a line holds now, before an effect changes it (R57). -/
def State.keepCopy (s : State) (va : Nat) : State :=
  match s.phys? (va / 64 * 64) with
  | some a =>
    let o : Old := ⟨tget? s.mem.lines (a / 64), s.mem.readN a 64⟩
    s.onK (fun k => { k with copies := tset k.copies (va / 64) (tget k.copies (va / 64) [] ++ [o]) })
  | none => s

/-- One element (R41, R44, R49). -/
def State.joinOne (s : State) (f : Flit) (t : LTy) (w : Wd) (va new : Nat) : State :=
  match s.phys? va with
  | none => s
  | some a =>
    let n := wdBytes w
    let old := ofBytes (s.mem.readN a n)
    let res := joinElem t (wdBits w) old new
    if t = .count ∧ s.pairSeen (countKey f va) then s
    else
      let s1 := if t = .count then s.onK (fun k => { k with seen := tset k.seen (countKey f va) s.time }) else s
      if res = old then s1
      else if s.mem.capped.contains (a / 4096) then s1.report f tCAPVIOL va
      else { s1.keepCopy va with mem := s1.mem.writeL a (toBytes res n) }

/-- The elements of a flit in ascending order; a report for one leaves the others to be judged
(DEDUCED, log entry 35). -/
def State.joinElems (s : State) (f : Flit) (t : LTy) (w : Wd) (va : Nat) : List (List Byte) → State
  | [] => s
  | x :: r => (s.joinOne f t w va (ofBytes x)).joinElems f t w (va + wdBytes w) r

/-- FILLJOIN (R42), judged against a cap (R49). -/
def State.fillJoin (s : State) (f : Flit) (va : Nat) (d : List Byte) : State :=
  match s.phys? va with
  | none => s
  | some a =>
    let line := s.mem.lineAt a
    let same := decide (s.mem.readN a 64 = d)
    let setLine (x : LineState) : State := { s.keepCopy va with mem := { s.mem with lines := tset s.mem.lines (a / 64) x } }
    if s.mem.capped.contains (a / 4096) then
      match line with
      | .empty => s.report f tCAPVIOL va
      | .full => if same then s else s.report f tCAPVIOL va
      | .top => s.report f tFILLCONF va
    else match line with
      | .empty =>
        let t := setLine .full
        { t with mem := t.mem.writeL a d }
      | .full => if same then s else (setLine .top).report f tFILLCONF va
      | .top => s.report f tFILLCONF va

/-- LAPJOIN (R43), judged against a cap (R49). -/
def State.lapJoin (s : State) (f : Flit) (va : Nat) (d : List Byte) : State :=
  match s.phys? va with
  | none => s
  | some a =>
    let old := s.mem.readN a 64
    let lo := ofBytes (old.take 8)
    let ln := ofBytes (d.take 8)
    if lo < ln then
      if s.mem.capped.contains (a / 4096) then s.report f tCAPVIOL va else { s.keepCopy va with mem := s.mem.writeL a d }
    else if lo = ln ∧ old ≠ d then s.report f tFILLCONF va
    else s

/-! Watches. -/

/-- Answers a watch on a mapped address with what its home holds; none leaves it waiting. -/
def State.watchRes (s : State) (w : Watch) : Option (WakeRes × Bool) :=
  match s.translate w.va with
  | .at a k _ =>
    let t (code : Nat) : Option (WakeRes × Bool) := some (.trap ⟨code, w.pc, BitVec.ofNat 64 w.va, true⟩, false)
    if k then some (.trap ⟨tKRES, w.pc, BitVec.ofNat 64 w.va, false⟩, false)
    else if s.mem.poison.contains (a / 64) then t tUNCORR
    else match watchReply w (s.seen a w.va (watchLen w)) with
      | .wait => none
      | .trap code => t code
      | .index n => some (.scalar w.d (BitVec.ofNat 64 n), n == 15)
      | .data v nv => some (.vector w.d v, nv)
  | _ => none

/-- The wake that a watch's home sends. -/
def State.wakeWatch (s : State) (x : Waiter) (res : WakeRes) (never : Bool) : State :=
  s.wakeUp x.task x.w.run (s.watchKnow x.w (s.changes (x.w.va / 64))) ((s.homeEnd x.w.va).getD ⟨0, 0, 0⟩) res never

/-- Wakes the watches on n bytes at va that are answered now, and drops them. -/
def State.fire (s : State) (va n : Nat) : State :=
  let near (w : Waiter) : Bool := decide (w.w.va < va + n ∧ va < w.w.va + watchLen w.w)
  let hit (w : Waiter) : Bool := near w && (s.watchRes w.w).isSome
  let s1 := (s.k.watches.filter hit).foldl (fun u w => match s.watchRes w.w with
    | some (res, nv) => u.wakeWatch w res nv
    | none => u) s
  if s.k.watches.any hit then s1.onK (fun k => { k with watches := k.watches.filter (fun w => !hit w) }) else s1

/-! Side logs. -/

/-- Object, home and page index of an address, whether it is mapped or not. -/
def State.pageKey (s : State) (va : Nat) : Option Missed :=
  match objAt s.k.objs va with
  | none => none
  | some (o0, x0) =>
    let (o, x, v) := aliasWalk s.k.objs (s.k.objs.length + 1) o0 x0 va
    (s.homeOf v).map (fun h => ⟨o, h.pkg, h.die, (h.lo - s.loBase x.base) / 2 ^ pageShift x.ps, h.lo, .missing⟩)

/-- The fault that an effect on a page waits for: one being served, or one whose log still holds entries (R295). -/
def State.logOf (s : State) (va : Nat) : Option Nat :=
  match s.pageKey va with
  | none => none
  | some m =>
    (List.range s.k.faults.length).find? (fun (i : Nat) => match s.k.faults[i]? with
      | some x => x.isFor m && (!x.done || s.k.sideLog.any (fun g => g.n == i))
      | none => false)

/-- What an effect meets at its home. -/
inductive Meet where
  | apply
  | log (n : Nat) (s : State)
  | gone
  | report (code : Nat)
  deriving DecidableEq, Repr

/-- Has the object at an address been freed, though others still alias its bytes (R290, R291)? -/
def State.retired (s : State) (va : Nat) : Bool := (objAt s.k.objs va).any (fun x => x.2.ret)

/-- Do lines from an address on, that n bytes reach, hold poison (R327)? -/
def State.poisonOver (s : State) (a n : Nat) : Bool :=
  (List.range ((n + 63) / 64)).any (fun i => s.mem.poison.contains (a / 64 + i))

def State.meet (s : State) (va n : Nat) : Meet :=
  match s.logOf va with
  | some n => .log n s
  | none => if s.retired va then .gone else match s.translate va with
    | .at a k _ => if k then .report tKRES else if s.poisonOver a n then .report tUNCORR else .apply
    | .missing m => .log s.k.faults.length (s.postFault m)
    | .absent => .gone

/-! Applying. -/

/-- A join at its home. -/
def State.applyJoin (s : State) (f : Flit) (t : LTy) (w : Wd) (va : Nat) (d : List Byte) : State :=
  match t with
  | .fill => s.fillJoin f va d
  | .lap => s.lapJoin f va d
  | _ => s.joinElems f t w va (chunks (wdBytes w) (d.length / wdBytes w) d)

/-! Device registers. -/

/-- The register of an mmio block that an address names, as block * 2^16 + offset: the blocks of a launch are those of its first
package (R296, R351). -/
def State.mmioAt (s : State) (va : Nat) : Option Nat :=
  match objAt s.k.objs va with
  | some (o, x) =>
    if x.ty = .mmio then
      (findIdxFrom (fun b => b == o) 0 ((s.k.launch.map (fun l => l.blocks)).getD [])).map (fun i => i * 2 ^ 16 + (va - x.base) % 2 ^ 16)
    else none
  | none => none

/-- Changes a port whose register is at an offset. -/
def Pkg.onPortAt (p : Pkg) (off : Nat) (reg : Nat → BitVec 16) (f : Port → Port) : Pkg :=
  { p with ports := p.ports.map (fun e => if (reg e.1).toNat = off then (e.1, f e.2) else e) }

/-- A port with other good lanes or enables: a lane works that is good and enabled; a port in training stays there (R340, R351). -/
def Port.setLanes (p : Port) (good enables : BitVec 8) (now : Nat) : Port :=
  let lanes := good &&& enables
  let st := if p.st = 1 then 1 else portState lanes
  { p with good := good, enables := enables, lanes := lanes, st := st, downAt := if p.live && st == 0 then now else p.downAt }

/-- A port is put into training. -/
def Port.train (p : Port) (now : Nat) : Port := { p with st := 1, downAt := if p.live then now else p.downAt }

/-- What a register of a port in the Links block holds, where it is a port's lane enables. -/
def Pkg.enablesAt (p : Pkg) (off : Nat) : Option Nat :=
  (p.ports.find? (fun e => (Config.linkLanes e.1).toNat == off)).map (fun e => e.2.enables.toNat)

/-- A store of another value to a register of an mmio block: the PTP domain, a port's lane enables and training, and the power cap;
the sensors are read-only, and the flash configuration area keeps its words (R351; DESIGN CHOICE, log entry 9). -/
def Pkg.mmioStore (p : Pkg) (reg : Nat) (d : List Byte) (now : Nat) : Pkg :=
  let v := ofBytes d
  let off := reg % 2 ^ 16
  let kept := { p with mmio := tset p.mmio reg (BitVec.ofNat 64 v) }
  match reg / 2 ^ 16 with
  | 0 => if tget? p.mmio reg = some (BitVec.ofNat 64 v) then p
    else if off = Config.ptpDomain.toNat then { kept with domain := BitVec.ofNat 8 v } else kept
  | 1 => if tget? p.mmio reg = some (BitVec.ofNat 64 v) then p
    else (kept.onPortAt off Config.linkLanes (fun x => x.setLanes x.good (BitVec.ofNat 8 v) now)).onPortAt off Config.linkTrain (fun x => x.train now)
  | 2 => if off = Config.powerCap.toNat then p.setCap (BitVec.ofNat 64 (v % 4096)) else p
  | _ => { p with mmio := (chunks 4 (d.length / 4) d).zipIdx.foldl (fun t x => tset t (reg + 4 * x.2) (BitVec.ofNat 64 (ofBytes x.1))) p.mmio }

/-- What a register of an mmio block answers, n bytes at an address: the PTP domain, a port's lane enables and the power cap as
they stand, a word of the flash configuration area that has been stored, and else a free value of the register, what was last
stored there and the count of free values (R351; DESIGN CHOICE, log entry 9). -/
def State.mmioRead (s : State) (va n : Nat) : Option (List Byte) :=
  (s.mmioAt va).map (fun r =>
    let p := s.pkg (lget s.pkgmap 0 0)
    let free (q : Nat) : Word := Config.mmioRead q (tget p.mmio q 0) s.tick
    if r = Config.ptpDomain.toNat then toBytes p.domain.toNat n
    else if r = 2 * 2 ^ 16 + Config.powerCap.toNat then toBytes p.pwrcap.toNat n
    else if r / 2 ^ 16 = 1 ∧ (p.enablesAt (r % 2 ^ 16)).isSome then toBytes ((p.enablesAt (r % 2 ^ 16)).getD 0) n
    else if r / 2 ^ 16 = 3 then
      (List.range (n / 4)).flatMap (fun i => toBytes ((tget? p.mmio (r + 4 * i)).getD (free (r + 4 * i))).toNat 4)
    else toBytes (free r).toNat n)

/-- An exclusive store at its home; it clears the tags of its granules (R215). -/
def State.applyStore (s : State) (va : Nat) (d : List Byte) : State :=
  match s.mmioAt va with
  | some r => s.onPkg (lget s.pkgmap 0 0) (fun p => p.mmioStore r d s.time)
  | none => s.putData va d

/-- One block of a cap (R221). -/
def State.applyCap (s : State) (va : Nat) : State :=
  match s.phys? va with
  | some a => { s with mem := { s.mem with capped := nadd s.mem.capped (a / 4096) } }
  | none => s

/-- The bytes of memory that an effect, or the first block of a cap, changes where they are mapped. -/
def State.changeMem (s : State) (f : Flit) : State :=
  match f.e.eff with
  | .join t w va d => s.applyJoin f t w va d
  | .store va d _ => s.applyStore va d
  | .storeCap va c _ => s.putCap va c
  | .cap _ _ va _ => s.applyCap va
  | .payload _ _ (.mem va d) => match objAt s.k.objs va with
    | some (_, x) => if x.ty = .excl then s.putData va d else s.applyJoin f x.ty x.wc va d
    | none => s
  | _ => s

/-- An effect, or the first block of a cap, applied to memory that is mapped: the change, what comes after it (R61), and the watches
that it wakes (R55). -/
def State.applyEff (s : State) (f : Flit) : State :=
  let t := (s.changeMem f).noteApplied f
  match effSpan f.e.eff with
  | some (va, n) => if isStore f.e.eff then t else t.fire va (min n 4096)
  | none => t

/-- First address of an effect on memory. -/
def effVa (e : Eff) : Nat := match effSpan e with
  | some (a, _) => a
  | none => 0

/-- Bytes of an effect that its home judges at once: of a cap, one block (R221). -/
def effLen (e : Eff) : Nat := match effSpan e with
  | some (_, n) => min n 4096
  | none => 0

/-- Entries of the side logs of a die's 64 join units, by unit (R295). -/
def State.logUnits (s : State) (h : HomeAt) : List Nat :=
  s.k.sideLog.filterMap (fun g => match s.homeOf (effVa g.f.e.eff) with
    | some x => if x.pkg = h.pkg ∧ x.die = h.die then some x.unit else none
    | none => none)

/-- Are the side log of an address's join unit, of 8,192 entries, and its die's overflow region full (R295; DESIGN CHOICE,
log entry 33)? -/
def State.logFull (s : State) (va : Nat) : Bool :=
  decide (8192 ≤ s.k.sideLog.length) && match s.homeOf va with
    | some h =>
      let us := s.logUnits h
      let extra := ((List.range 64).map (fun (u : Nat) => us.count u - 8192)).sum
      decide (8192 ≤ us.count h.unit) && decide (2 ^ 26 / 128 ≤ extra)
    | none => false

/-- What comes of an effect at its home: applied, logged, discarded, or discarded with a report. -/
def State.atHome (s : State) (f : Flit) : State :=
  match s.meet (effVa f.e.eff) (effLen f.e.eff) with
  | .apply => s.applyEff f
  | .log n t => if s.logFull (effVa f.e.eff) then t.report f tPAGEFAULT (effVa f.e.eff) else t.onK (fun k => { k with sideLog := k.sideLog ++ [⟨n, f⟩] })
  | .gone => s
  | .report code => s.report f code (effVa f.e.eff)

/-- An effect that may still arrive: not done, free of holds, and no part of a merged flit (R343, R345). -/
def State.arriving? (s : State) (id : Nat) : Option Flit :=
  match s.flit? id with
  | some f =>
    if !f.done && !f.stop && !(s.constituents f).any s.held && !s.k.flits.any (fun g => g.pending && g.parts.contains id) then some f else none
  | none => none

/-- Would a flit raise a report? -/
def State.reports (s : State) (f : Flit) : Bool := (s.atHome f).k.flogHead != s.k.flogHead ||
  (s.atHome f).k.flogLost != s.k.flogLost

/-- Does one of some flits, applied in order, raise a report? -/
def State.anyReports (s : State) : List Flit → Bool
  | [] => false
  | f :: t => s.reports f || (s.atHome f).anyReports t

/-- JOIN_APPLY: a merged flit whose constituents would raise a report is left to SPLIT_RESPONSE (R343). -/
def execJoinApply (id : Nat) (s : State) : Host.Outcome State Fault Refusal :=
  match s.arriving? id with
  | none => .next s
  | some f => match f.e.eff with
    | .join .. =>
      let parts := s.constituents f
      if f.merged ∧ s.anyReports parts then .next s
      else .next ((parts.foldl (fun u g => (u.atHome g).doneFlit g.id) s).doneFlit id)
    | _ => .next s

/-- EXCL_STORE_APPLY. -/
def execExclStoreApply (id : Nat) (s : State) : Host.Outcome State Fault Refusal :=
  match s.arriving? id with
  | none => .next s
  | some f => if isStore f.e.eff then .next ((s.atHome f).doneFlit id) else .next s

/-- Does a block of a cap wait in a side log? The next one is not capped before it (R221). -/
def State.capLogged (s : State) (id : Nat) : Bool := s.k.sideLog.any (fun g => g.f.id == id)

/-- CAP_APPLY: one block, in ascending order; the last one ends the effect. -/
def execCapApply (id : Nat) (s : State) : Host.Outcome State Fault Refusal :=
  match s.arriving? id with
  | none => .next s
  | some f => match f.e.eff with
    | .cap t sc va len =>
      if s.capLogged id then .next s
      else if len ≤ 4096 then .next ((if len = 0 then s else s.atHome f).doneFlit id)
      else .next ((s.atHome { f with e := { f.e with eff := .cap t sc va 4096 } }).onFlit id (fun g =>
        { g with e := { g.e with eff := .cap t sc (va + 4096) (len - 4096), know := s.knowOf { f with e := { f.e with eff := .cap t sc va 4096 } } } }))
    | _ => .next s

/-- Some of the words of an effect land in a scratchpad, each with its full bit; those that are left stand in the effect, and it is
done when none is (R59, R206; DESIGN CHOICE, log entry 77). -/
def State.land (s : State) (id l : Nat) (ws : List (Nat × List Byte)) (full : Bool) (know : Know)
    (left : List (Nat × List Byte) → Eff) : State :=
  let p := someFree s.tick ws
  let t := (s.putWords l full know p.1).tickBy (ws.length / 64 + 1)
  if p.2.isEmpty then t.doneFlit id else t.onFlit id (fun f => { f with e := { f.e with eff := left p.2 } })

/-- WINDOW_STORE_APPLY: words, each with its full bit (R58, R205, R206). A store whose tag has been accepted is not applied again
(R98, R99). -/
def execWindowStoreApply (id : Nat) (s : State) : Host.Outcome State Fault Refusal :=
  match s.arriving? id with
  | none => .next s
  | some f => match f.e.eff with
    | .words l ws rest => event s (s.combRuns (combOf l))
        (if !rest && s.tagSeen f then s.doneFlit id else (s.acceptTag f).land id l ws true (s.knowOf f) (fun r => .words l r true))
    | _ => .next s

/-- TAG_EXPIRY: the n-th of the count pairs, then of the accepted tags, and then of the tags bound to an id goes 40 us after it was
applied, accepted or bound, unless a hold set keeps it (R44, R99, R247, R328). -/
def execTagExpiry (n : Nat) (s : State) : Host.Outcome State Fault Refusal :=
  match s.k.seen[n]?, s.k.accepted[n - s.k.seen.length]? with
  | some (key, t), _ => event s (decide (t + 40000 ≤ s.time) && !s.heldAct (key / 2 ^ 70)) (s.onK (fun k => { k with seen := terase k.seen key }))
  | none, some (tag, t) => event s (decide (t + 40000 < s.time) && !s.heldAct (tag / 2 ^ 20)) (s.onK (fun k =>
      { k with accepted := terase k.accepted tag }))
  | none, none => match s.k.bound[n - s.k.seen.length - s.k.accepted.length]? with
    | some (tag, _, t) => event s (decide (t + 40000 < s.time) && !s.heldAct (tag / 2 ^ 20)) (s.onK (fun k =>
        { k with bound := terase k.bound tag }))
    | none => .next s

/-! Registering watches. -/

/-- Watches of one join unit. -/
def State.watchCount (s : State) (h : HomeAt) : Nat :=
  (s.k.watches.filter (fun w => match s.homeOf w.w.va with
    | some g => g.pkg == h.pkg && g.die == h.die && g.unit == h.unit
    | none => false)).length

/-- A registration at its home (R55, R218): answered at once, kept, or refused when the table is full and FNMODE.WO
is 0 (R311). One of an earlier run of the record is dropped: the rerun registers its own (R99). So is one of a record that has
been removed (R312). -/
def State.register (s : State) (x : Waiter) : State :=
  if x.w.run ≠ (s.record x.task).run ∨ (s.record x.task).st = .ended then s
  else match s.watchRes x.w with
  | some (res, nv) => s.wakeWatch x res nv
  | none =>
    let full : Bool := match s.homeOf x.w.va with
      | some h => decide (16384 ≤ s.watchCount h)
      | none => false
    if full && s.fnField 3 == 0 then s.onK (fun k => { k with refused := k.refused ++ [(s.cyc + 256, x)] })
    else s.onK (fun k => { k with watches := k.watches.filter (fun w => w.task != x.task) ++ [x] })

/-- WATCH_REGISTER. -/
def execWatchRegister (id : Nat) (s : State) : Host.Outcome State Fault Refusal :=
  match s.due? id with
  | none => .next s
  | some f => match f.e.eff with
    | .watch w => .next ((s.doneFlit id).register ⟨f.task, w⟩)
    | _ => .next s

/-- WATCH_RETRY: the n-th refused registration is sent again. -/
def execWatchRetry (n : Nat) (s : State) : Host.Outcome State Fault Refusal :=
  match s.k.refused[n]? with
  | none => .next s
  | some (c, x) => event s (c ≤ s.cyc) ((s.onK (fun k => { k with refused := ldrop k.refused n })).register x)

/-- BARRIER_ARRIVAL: counted at the node of its scope instance; the one that brings the count to E completes the phase
(R259). -/
def execBarrierArrival (id : Nat) (s : State) : Host.Outcome State Fault Refusal :=
  match s.due? id with
  | none => .next s
  | some f => match f.e.eff with
    | .barr l b sc e =>
      if s.tagSeen f then .next (s.doneFlit id) else
      let key := (scopeNum sc * 128 + b) * 2 ^ 32 + scopeInst sc l
      let node := match tget? s.k.nodes key with
        | some n => n
        | none => ⟨0, e, []⟩
      let members := s.k.cores.filter (fun c => sameScope sc c.1 l && match tget? c.2.bars b with
        | some x => x.sc == sc
        | none => false)
      let each (u : State) (g : Barrier → Barrier) : State :=
        members.foldl (fun u c => u.onCore c.1 (fun y => { y with bars := tmap y.bars b g })) u
      let s1 := if node.e ≠ e then each s (fun x => { x with mm := true }) else s
      let know := Know.join node.know (s.knowOf f)
      let s2 := (s1.acceptTag f).doneFlit id
      if node.count + 1 = node.e then
        let s3 := (each s2 (fun x => { x with p := x.p + 1, know := tset x.know x.p.toNat know })).onK (fun k => { k with nodes := terase k.nodes key })
        .next (members.foldl (fun u c => u.judgeBarrier c.1 b) s3)
      else .next (s2.onK (fun k => { k with nodes := tset k.nodes key ⟨node.count + 1, node.e, know⟩ }))
    | _ => .next s

end Sys2Proof.Machine
end

