-- ==== Sys2Proof/Machine/VecMask.lean ====
section
/-!
DEFINITION. Majors 0x23 and 0x24: compares and masks (R182, R183).
-/

namespace Sys2Proof.Machine

/-- A mask from its bits, position 0 first. -/
def bitsOf : List Bool → Nat
  | [] => 0
  | b :: t => b2n b + 2 * bitsOf t

/-- The bits of a compare: cc holds the relations of eRel that make it true. -/
def cmpBits (m : Bool) (mask old cc : Nat) (l : List FRes) : List Bool :=
  mapFrom (fun i r => if active m mask i then r.1 &&& cc != 0 else old.testBit i) 0 l

/-- The compares; bits at or above n are written as zero. -/
def opCmp (i : Instr) (t : ETy) (n : Bool) (cc : Nat) (d : MReg) (a b : VSrc) (m : Bool) (s : State) :
    Host.Outcome State Fault Refusal :=
  let res := s.map2 t.width a b (eRel t n)
  issue i s (.ok (fun u =>
    (u.raiseFpc (orFlags (mergeE m s.m0 0 (res.map (fun _ => 0)) res))).wM d
      (BitVec.ofNat 1024 (bitsOf (cmpBits m s.m0 (s.rM d).toNat cc res)))))

def execVcmpeq (t : ETy) (n : Bool) (d : MReg) (a b : VSrc) (m : Bool) (s : State) :=
  opCmp (.vcmpeq t n d a b m) t n 2 d a b m s
def execVcmpne (t : ETy) (n : Bool) (d : MReg) (a b : VSrc) (m : Bool) (s : State) :=
  opCmp (.vcmpne t n d a b m) t n 13 d a b m s
def execVcmplt (t : ETy) (n : Bool) (d : MReg) (a b : VSrc) (m : Bool) (s : State) :=
  opCmp (.vcmplt t n d a b m) t n 1 d a b m s
def execVcmple (t : ETy) (n : Bool) (d : MReg) (a b : VSrc) (m : Bool) (s : State) :=
  opCmp (.vcmple t n d a b m) t n 3 d a b m s
def execVcmpgt (t : ETy) (n : Bool) (d : MReg) (a b : VSrc) (m : Bool) (s : State) :=
  opCmp (.vcmpgt t n d a b m) t n 4 d a b m s
def execVcmpge (t : ETy) (n : Bool) (d : MReg) (a b : VSrc) (m : Bool) (s : State) :=
  opCmp (.vcmpge t n d a b m) t n 6 d a b m s

/-- m0 selects; position i takes a where its bit is set. -/
def execVsel (t : ETy) (d : VReg) (a b : VSrc) (s : State) :=
  opE (.vsel t d a b) t false d
    (mapFrom (fun i (x : Nat × Nat) => plain (if s.m0.testBit i then x.1 else x.2)) 0
      ((s.eV t.width a.r).zip (s.eV t.width b.r))) s

/-- Writes a mask over the n positions of a type. -/
def opM (i : Instr) (t : ETy) (d : MReg) (x : Nat) (s : State) : Host.Outcome State Fault Refusal :=
  issue i s (.ok (fun u => u.wM d (BitVec.ofNat 1024 (low (tyCount t) x))))

def execMand (t : ETy) (d : MReg) (a b : MSrc) (s : State) :=
  opM (.mand t d a b) t d ((s.rM a.r).toNat &&& (s.rM b.r).toNat) s
def execMor (t : ETy) (d : MReg) (a b : MSrc) (s : State) :=
  opM (.mor t d a b) t d ((s.rM a.r).toNat ||| (s.rM b.r).toNat) s
def execMxor (t : ETy) (d : MReg) (a b : MSrc) (s : State) :=
  opM (.mxor t d a b) t d ((s.rM a.r).toNat ^^^ (s.rM b.r).toNat) s
def execMnot (t : ETy) (d : MReg) (a : MSrc) (s : State) := opM (.mnot t d a) t d (~~~(s.rM a.r)).toNat s

/-- Writes a scalar that a V-format field names. -/
def opVS (i : Instr) (d : VReg) (x : Word) (s : State) : Host.Outcome State Fault Refusal :=
  issue i s (.ok (fun u => u.wS (Fin.ofNat 64 d.val) x))

def execMpop (t : ETy) (d : VReg) (a : MSrc) (s : State) :=
  opVS (.mpop t d a) d (BitVec.ofNat 64 (popCount (tyCount t) (s.rM a.r).toNat)) s
def execMfirst (t : ETy) (d : VReg) (a : MSrc) (s : State) :=
  opVS (.mfirst t d a) d (BitVec.ofNat 64 (firstSet (tyCount t) 0 (s.rM a.r).toNat)) s
/-- The first min(s[A], n) bits. -/
def execMset (t : ETy) (d : MReg) (a : VSrc) (s : State) :=
  opM (.mset t d a) t d (2 ^ min (s.sV a).toNat (tyCount t) - 1) s

end Sys2Proof.Machine
end

