-- ==== Sys2Proof/Machine/VecSpecial.lean ====
section
/-!
DEFINITION. Majors 0x2B to 0x2D: special functions, random numbers and trit packing (R195 to R199).
-/

namespace Sys2Proof.Machine

/-- A unary function on f32. -/
def opF32 (i : Instr) (d : VReg) (a : VSrc) (m : Bool) (f : Nat → FRes) (s : State) := opE i .f32 m d (s.map1 32 a f) s

def execVrcp (d : VReg) (a : VSrc) (m : Bool) (s : State) := opF32 (.vrcp d a m) d a m rcpF s
def execVrsq (d : VReg) (a : VSrc) (m : Bool) (s : State) := opF32 (.vrsq d a m) d a m rsqF s
def execVsqrt (d : VReg) (a : VSrc) (rm : RSel) (m : Bool) (s : State) :=
  opF32 (.vsqrt d a rm m) d a m (fun x => sqrtF fmtF32 (s.rmode rm) (unpackF fmtF32 x)) s
def execVexp2 (d : VReg) (a : VSrc) (m : Bool) (s : State) := opF32 (.vexp2 d a m) d a m exp2F s
def execVlog2 (d : VReg) (a : VSrc) (m : Bool) (s : State) := opF32 (.vlog2 d a m) d a m log2F s
def execVtanh (d : VReg) (a : VSrc) (m : Bool) (s : State) := opF32 (.vtanh d a m) d a m tanhF s

/-- T = s[A], c0 = s[B]. -/
def execVrand (n : Bool) (d : VReg) (a b : VSrc) (m : Bool) (s : State) :=
  opE (.vrand n d a b m) .i32 m d ((randWords s.seed (s.sV a).toNat (s.sV b).toNat).map plain) s

/-! Trits. -/

/-- Slots of a register that VPACKT and VUNPKT use. -/
def tritSlots (t : ETy) : Nat := tyCount t / 256

/-- A packed byte from five trits (R84). -/
def packTrits : List Nat → List Nat
  | a :: b :: c :: d :: e :: t => (a + 3 * b + 9 * c + 27 * d + 81 * e) :: packTrits t
  | _ => []

/-- The 64 bytes of a slot from its 256 trit codes, scale zero (R197). -/
def packSlot (l : List Nat) : List Nat := packTrits (l.take 255) ++ [lget l 255 0] ++ List.replicate 12 0

/-- The code of an element: 1 add, 0 skip, 2 subtract. -/
def tritCode (w x : Nat) : Nat := if 0 < sgn w x then 1 else if sgn w x < 0 then 2 else 0

def execVpackt (t : ETy) (d : VReg) (a : VSrc) (s : State) : Host.Outcome State Fault Refusal :=
  let codes := (s.eV t.width a.r).map (tritCode t.width)
  issue (.vpackt t d a) s (.ok (fun u => u.wV d (vecOf 8 ((chunks 256 (tritSlots t) codes).flatMap packSlot))))

/-- Does a slot's bytes break Table 3-8 (R198)? -/
def slotBad (b : List Nat) : Bool :=
  (b.take 51).any (fun x => 242 < x) || 2 < lget b 51 0 || (b.drop 56).any (fun x => x != 0)

/-- The five trits of a packed byte. -/
def unpackTrits (x : Nat) : List Nat := [x % 3, x / 3 % 3, x / 9 % 3, x / 27 % 3, x / 81 % 3]

/-- The 256 trit codes of a slot. -/
def slotTrits (b : List Nat) : List Nat := (b.take 51).flatMap unpackTrits ++ [lget b 51 0]

/-- The value of a trit code. -/
def tritVal (c : Nat) : Int := if c = 1 then 1 else if c = 2 then -1 else 0

def execVunpkt (t : ETy) (d : VReg) (a : VSrc) (s : State) : Host.Outcome State Fault Refusal :=
  let slots := chunks 64 (tritSlots t) (s.eV 8 a.r)
  issue (.vunpkt t d a) s (if slots.any slotBad then .trap tTRITBYTE 0
    else .ok (fun u => u.wV d (vecOf t.width ((slots.flatMap slotTrits).map (fun c => ofInt t.width (tritVal c))))))

/-- Bit h is set when slot h fails. It never traps on the bytes, as R199 says, although R84 has every check trap (DESIGN CHOICE,
log entry 90). -/
def execVtchk (d : VReg) (a : VSrc) (s : State) :=
  opVS (.vtchk d a) d (BitVec.ofNat 64 (bitsOf ((chunks 64 8 (s.eV 8 a.r)).map slotBad))) s

end Sys2Proof.Machine
end

