-- ==== Sys2Proof/Machine/Array.lean ====
section
/-!
DEFINITION. Major 0x79: the ternary array (R228 to R239), with the exact accumulator and the drain (R85 to R89).
A command is accepted with the operands of its issue, and does its work piece by piece in the queue.
-/

namespace Sys2Proof.Machine

/-- The comb of the lane in focus, and a change of it. -/
def State.ownComb (s : State) : CombSt := s.comb (combOf s.lcore)
def State.onOwnComb (s : State) (f : CombSt → CombSt) : State := s.onComb (combOf s.lcore) f

/-- Does a core hold the lease of its comb (R228)? After the 64th command, and at the end of its slot, none is left. -/
def State.leaseHeld (s : State) : Bool :=
  match s.ownComb.lease with
  | some x => x.core == s.lcore % 4 && x.left != 0 && s.slotUsed s.ownComb < 2048
  | none => false

/-- A tile buffer by its number. -/
def CombSt.bufOf (c : CombSt) (b : Bool) : Buf := if b then c.buf1 else c.buf0
def CombSt.setBuf (c : CombSt) (b : Bool) (x : Buf) : CombSt := if b then { c with buf1 := x } else { c with buf0 := x }

/-- Does a TLDW into a buffer among some commands wait to start (R232)? -/
def loadAhead (l : List ArrCmd) (b : Bool) : Bool := l.any (fun q => q.load && q.buf == some b && q.pend.isSome)

/-- Is a buffer still loading? -/
def CombSt.loadingBuf (c : CombSt) (b : Option Bool) : Bool :=
  match b with
  | none => false
  | some b => match (c.bufOf b).st with
    | .loading _ => true
    | _ => false

/-- Does a compute command wait for its tile, behind some others (R233)? -/
def CombSt.tileWaits (c : CombSt) (before : List ArrCmd) (q : ArrCmd) : Bool :=
  c.loadingBuf q.buf || q.buf.any (loadAhead before)

/-- Commands that have not started: all but the first on each path, which starts once it waits for no tile and for no other use of
its buffer; four fill the queue (R239). -/
def CombSt.queueFull (c : CombSt) : Bool :=
  let jobs := c.queue.filter (fun q => !q.load)
  let loads := c.queue.filter (fun q => q.load)
  let begun := if (jobs.head?).any (c.tileWaits (c.queue.takeWhile (fun q => q.load))) then 0 else 1
  let going := if (loads.head?).any (fun q => q.pend.isSome) then 0 else 1
  4 ≤ (loads.length - going) + (jobs.length - begun)

/-- The array accepts a command: it counts towards the 64 (R228). -/
def State.accept (s : State) (load : Bool) (buf : Option Bool) (job : Option Job) (pend : Option Nat) : State :=
  s.onOwnComb (fun c => { c with
    lease := c.lease.map (fun x => { x with left := x.left - 1, tasks := nadd x.tasks s.ln.task })
    queue := c.queue ++ [⟨load, some s.cur, s.ln.task, s.lcore % 4, s.ln.pc, buf, job, s.ln.box.length, pend⟩] })

/-- A command that needs a lease (R230). -/
def State.leased (s : State) (d : Do) : Do := if s.leaseHeld then d else .trap tLEASE 0

/-! The exact accumulator. -/

/-- UNITS of an element under a format context (R86); none for an infinity or a NaN. -/
def unitsOf (f : ArrFmt) (x : Nat) : Option Int :=
  match f with
  | .narrow r => nfUnits r (low (nfW r) x)
  | .i4 => some (sgn 4 x)
  | _ => some (sgn 8 x)

/-- LSBEXP of a format context (R86). -/
def lsbOf (f : ArrFmt) : Int :=
  match f with
  | .narrow r => nfLsb r
  | _ => 0

/-- All units of a row, or none. -/
def rowUnits (f : ArrFmt) : List Byte → Option (List Int)
  | [] => some []
  | x :: t => match unitsOf f x.toNat with
    | none => none
    | some u => (rowUnits f t).map (fun l => u :: l)

/-- The columns of a tile as trit values (R85). -/
def tileCols (data : List Byte) : List (List Int) :=
  (chunks 64 128 data).map (fun c => (slotTrits (c.map BitVec.toNat)).map tritVal)

/-- Sum of products. -/
def dotI : List Int → List Int → Int
  | a :: l, b :: r => a * b + dotI l r
  | _, _ => 0

/-- An activation row into an accumulator row, and whether SAT64 clamped (R88). -/
def accRow (cols : List (List Int)) (lsb : Int) (u : List Int) (x : Row) : Row × Bool :=
  let sums := List.zipWith (fun (a : BitVec 64) c => a.toInt + dotI c u) x.vals cols
  (⟨sums.map (fun i => BitVec.ofInt 64 (clampInt false 64 i)), some lsb⟩,
    sums.any (fun i => clampInt false 64 i != i))

def State.accOf (s : State) (lc row : Nat) : Row := tget (s.core lc).acc row Row.init
def State.putAcc (s : State) (lc row : Nat) (x : Row) : State :=
  s.onCore lc (fun c => { c with acc := tset c.acc row x })

/-- DRAIN of one accumulator (R89). -/
def drainVal (fmt : FFmt) (acc : BitVec 64) (lsb : Int) (sigma : Nat) : Nat :=
  match unpackF fmtF32 sigma with
  | .nan _ => fmt.nanBits
  | .inf neg => if acc = 0 then fmt.nanBits else (infRes fmt (neg != acc.msb)).1
  | .fin neg m e =>
    if m = 0 ∨ acc = 0 then 0 else (roundE fmt .rne (neg != acc.msb) (m * acc.toInt.natAbs) (e + lsb)).1

/-- Words of a drained row. -/
def drainCols (bf : Bool) : Nat := if bf then 64 else 128

/-- The scale of a column: bytes 52 to 55 of the tile's slot, or a word of the scale vector (R235). -/
def State.scale (s : State) (data : List Byte) (lc : Nat) (vec : Option Nat) (n : Nat) : Nat :=
  match vec with
  | none => ofBytes ((data.drop (64 * n + 52)).take 4)
  | some v => ofBytes (s.scratch lc (v + 4 * n) 4)

/-- Word i of a TDRAIN, counted over its rows: one column, or two of a .bf16 drain; the accumulate form reads the word first (R89,
R235). -/
def State.drainWord (s : State) (data : List Byte) (lc row off : Nat) (bf acc : Bool) (vec : Option Nat) (i : Nat) : State :=
  let x := s.accOf lc (row + i / drainCols bf)
  let col (fmt : FFmt) (n : Nat) : Nat := drainVal fmt (lget x.vals n 0) (x.weight.getD 0) (s.scale data lc vec n)
  let j := i % drainCols bf
  let v := col fmtF32 j
  let v := if acc then (addV fmtF32 .rne (unpackF fmtF32 (ofBytes (s.scratch lc (off + 4 * i) 4))) (unpackF fmtF32 v)).1 else v
  s.putScratch lc (off + 4 * i)
    (if bf then toBytes (col fmtBF16 (2 * j)) 2 ++ toBytes (col fmtBF16 (2 * j + 1)) 2 else toBytes v 4)

/-! Buffers. -/

/-- A tile buffer as R233 judges it, for the lane in focus, behind some commands. -/
def State.onBuf (s : State) (b : Bool) (before : List ArrCmd) (wait : Do) (f : List Byte → Do) : Do :=
  if loadAhead before b then wait
  else match (s.ownComb.bufOf b).st with
  | .loaded => f (s.ownComb.bufOf b).data
  | .loading _ => wait
  | .invalid => .trap tLEASE 0
  | .bad code va => .trap code (BitVec.ofNat 64 va)
  | .faulted va => match s.unmapped? va with
    | some m => .stay (fun t => t.parkPage t.cur m t.ln.pc (BitVec.ofNat 64 va))
    | none => .stay (fun t => t.abandon t.cur)

/-- Has one of m rows a recorded weight other than the format's (R87)? -/
def State.weightClash (s : State) (lc row m : Nat) (f : ArrFmt) : Bool :=
  (List.range m).any (fun (i : Nat) => match (s.accOf lc (row + i)).weight with
    | some w => w != lsbOf f
    | none => false)

/-- TZERO's rows become zero and unset, and poison in them goes (R236). -/
def State.zeroRows (s : State) (lc row m : Nat) : State :=
  let inside (r : Nat) : Bool := decide (row ≤ r ∧ r < row + m)
  s.onCore lc (fun c => { c with acc := c.acc.filter (fun e => !inside e.1), badR := c.badR.filter (fun r => !inside r) })

/-- Bytes that a drain of m rows writes. -/
def drainLen (bf : Bool) (m : Nat) : Nat := (if bf then 256 else 512) * m

/-- The first poison that a piece of a job meets: of its row, then of the words that it reads, by the offset that the record names;
ws are the words of a drain that it takes (R327; DEDUCED, log entry 31). -/
def State.jobPoison (s : State) (j : Job) (ws : List Nat) : Option Nat :=
  match j with
  | .mma lc row _ off _ => if (s.core lc).badR.contains row then some 0 else if s.scratchBad lc off 256 then some off else none
  | .drain lc row off bf acc vec _ =>
    if ws.any (fun i => (s.core lc).badR.contains (row + i / drainCols bf)) then some 0
    else if acc && ws.any (fun i => s.scratchBad lc (off + 4 * i) 4) then some off
    else vec.bind (fun v => if s.scratchBad lc v 512 then some v else none)
  | _ => none

/-- What a piece of a job leaves: the state, whether a value was clamped, the rows and lines that it has written, as Lane.wrote
names them, and the rest of the job, none when it is done, or the code and the VA of the trap that poison, an element or a recorded
weight raises. -/
structure Piece where
  s : State
  clamp : Bool
  wrote : List Nat
  rest : Except (Nat × Nat) (Option Job)

/-- A piece that traps. -/
def State.noPiece (s : State) (code va : Nat) : Piece := ⟨s, false, [], .error (code, va)⟩

/-- The next piece of a job: a row of a TMMA (R234), some of the words of a TDRAIN, as free bits say (R235, R358), or all of a TFMT
or TZERO. -/
def State.piece (s : State) (data : List Byte) (j : Job) : Piece :=
  match j with
  | .mma lc row m off f =>
    if s.weightClash lc row m f then s.noPiece tFORMAT 0
    else match s.jobPoison j [] with
      | some va => s.noPiece tUNCORR va
      | none => match rowUnits f (s.scratch lc off 256) with
        | none => s.noPiece tFORMAT 0
        | some u =>
          let r := accRow (tileCols data) (lsbOf f) u (s.accOf lc row)
          ⟨s.putAcc lc row r.1, r.2, [2 ^ 14 + row], .ok (if m ≤ 1 then none else some (.mma lc (row + 1) (m - 1) (off + 256) f))⟩
  | .drain lc row off bf acc vec left =>
    let p := someFree s.tick left
    match s.jobPoison j p.1 with
    | some va => s.noPiece tUNCORR va
    | none => ⟨(p.1.foldl (fun t i => t.drainWord data lc row off bf acc vec i) s).tickBy (left.length / 64 + 1), false,
        p.1.flatMap (fun i => linesOf (off + 4 * i) 4), .ok (if p.2.isEmpty then none else some (.drain lc row off bf acc vec p.2))⟩
  | .fmt lc f => ⟨s.onCore lc (fun c => { c with fmt := f }), false, [], .ok none⟩
  | .zero lc row m => ⟨s.zeroRows lc row m, false, (List.range m).map (fun i => 2 ^ 14 + row + i), .ok none⟩

/-- What the activation of the lane in focus takes of a piece of its command at PC pc: what has been written (R336), ACCOVF for a
clamp (R234), and the trap. -/
def State.takePiece (s : State) (pc : Word) (p : Piece) : State :=
  let t := s.onLn (fun l => (if p.clamp then l.accOvf else l).noteWrite p.wrote)
  match p.rest with
  | .ok _ => t
  | .error (code, va) => t.takeTrap ⟨code, pc, BitVec.ofNat 64 va, rptOf code⟩

/-- A compute command that is accepted and keeps its lane: a TMMA until its rows are read, a TDRAIN that takes its scales from a tile
until the tile is judged (R233, R234). -/
def State.queueJob (b : Bool) (j : Job) (t : State) : State :=
  (t.accept false (some b) (some j) none).onLn (fun l => { l with acc := true })

/-- A compute command without a tile: it is accepted when there is room (R239). -/
def State.compute (s : State) (j : Job) : Do :=
  if s.ownComb.queueFull then .stay id else .ok (fun t => t.accept false none (some j) none)

/-- A compute command with a tile, by what its buffer is: a TMMA stays outstanding, and a TDRAIN while the tile loads (R233). -/
def State.withTile (s : State) (b mma : Bool) (j : Job) : Do :=
  let full := s.ownComb.queueFull
  let out : Do := if full then .stay id else .stay (State.queueJob b j)
  s.onBuf b s.ownComb.queue out (fun _ => if mma then out
    else if full then .stay id else .ok (fun t => t.accept false (some b) (some j) none))

/-- Commands before the last compute command of the lane in focus, and that command. -/
def State.ownJob (s : State) : Option (List ArrCmd × ArrCmd) :=
  let q := s.ownComb.queue
  ((List.range q.length).filterMap (fun i => match q[i]? with
    | some x => if !x.load && x.lane == some s.cur then some (q.take i, x) else none
    | none => none)).getLast?

/-- An outstanding command: its tile raises its trap when it is judged; a TMMA retires once its rows are read, a TDRAIN once its tile
is there (R233, R234). -/
def State.resumeJob (s : State) (mma : Bool) : Do :=
  let go : Do := .ok (fun t => t.onLn (fun l => { l with acc := false }))
  match s.ownJob with
  | some (before, q) => match q.job, q.buf with
    | some _, some b => s.onBuf b before (.stay id) (fun _ => if mma then .stay id else go)
    | _, _ => go
  | none => go

/-- The format context of the lane's core once the commands that wait have run. -/
def State.fmtSoon (s : State) : ArrFmt :=
  s.ownComb.queue.foldl (fun f q => match q.job with
    | some (.fmt lc g) => if lc = s.lcore then g else f
    | _ => f) (s.core s.lcore).fmt

/-! Instructions. -/

/-- TLEASE: the lane stays, noted as asking, until its core holds a lease (R229). -/
def execTlease (lk : Fin 16) (s : State) : Host.Outcome State Fault Refusal :=
  issue (.tlease lk) s (if s.leaseHeld then
      .ok (fun t => t.onOwnComb (fun c => { c with
        asking := ndel c.asking s.cur
        lease := c.lease.map (fun x => { x with tasks := nadd x.tasks s.ln.task }) }))
    else .stay (fun t => t.onOwnComb (fun c => { c with asking := nadd c.asking s.cur })))

/-- TREL: at once when nothing is queued, else when the commands accepted before it have completed (R229). -/
def execTrel (lk : Fin 16) (s : State) : Host.Outcome State Fault Refusal :=
  issue (.trel lk) s (.ok (fun t => if !s.leaseHeld then t
    else t.onOwnComb (fun c => if c.queue.isEmpty then { c with lease := none }
      else { c with lease := c.lease.map (fun x => { x with ending := some (x.ending.getD c.queue.length) }) })))

/-- TFMT; a narrow format must be valid with E at most 5 (R231). LEASE comes before FORMAT (DEDUCED, log entry 28). -/
def execTfmt (lk : Fin 16) (kind : Fin 4) (k : Fin 8) (s : State) : Host.Outcome State Fault Refusal :=
  let r := s.ln.fmt[k.val]
  let set (f : ArrFmt) : Do := s.compute (.fmt s.lcore f)
  issue (.tfmt lk kind k) s (s.leased (
    if kind.val = 0 then (if !nfValid r || 5 < nfE r then .trap tFORMAT 0 else set (.narrow r))
    else if kind.val = 1 then set .i8
    else if kind.val = 2 then set .i4
    else .trap tILLEGAL 0))

/-- Type and owner for TLDW (R232). -/
def State.tileTy (s : State) (c : CReg) (x : Obj) : Option Nat :=
  if x.ty = .fill ∧ x.wc = .w64 then none else s.exclTy c x

/-- TLDW: the tile loads until TLDW_LOAD_END (DEDUCED, log entry 28). While a command before it names its buffer it waits on the
load path, accepted (R232, R239; DESIGN CHOICE, log entry 79). The lease is a check of its own, after those of R40,
and comes before NOTCAPPED (DESIGN CHOICE, log entry 66). -/
def execTldw (lk : Fin 16) (g : GAddr) (buf : Bool) (s : State) : Host.Outcome State Fault Refusal :=
  let ea := s.ea g
  let load : Do :=
    if s.ownComb.queueFull then .stay id
    else if s.ownComb.queue.any (fun q => q.buf == some buf) then .ok (fun t => t.accept true (some buf) none (some ea))
    else .ok (fun t => (t.accept true (some buf) none none).onOwnComb (fun c => c.setBuf buf ⟨.loading ea, []⟩))
  issue (.tldw lk g buf) s (s.reach (s.rC g.c.r) ea 8192 rR (aligned ea 64) (s.tileTy g.c.r) (fun x => s.leased (
      if x.ty = .fill ∧ !s.rangeCapped ea 8192 then
        (if s.undone s.ln.task s.k.nextFlit (fun h => effMeets h.e.eff ea 8192) then .stay id
          else .trap tNOTCAPPED (BitVec.ofNat 64 ea))
      else load)))

/-- The checks of M, the lease and the rows, which TMMA, TDRAIN and TZERO share (R234 to R236). -/
def State.rowsChk (s : State) (row m : Nat) (d : Do) : Do :=
  if m < 1 ∨ 64 < m then .trap tILLEGAL 0
  else s.leased (if s.accRows < row + m then .trap tCAPBOUND 0 else d)

/-- TMMA (R234). -/
def execTmma (lk : Fin 16) (d : SReg) (a b : SSrc) (imm : BitVec 8) (buf : Bool) (s : State) :
    Host.Outcome State Fault Refusal :=
  let row := (s.rS d).toNat
  let m := (s.rS b.r).toNat
  let off := arrayOff (s.rS a.r) imm
  let f := s.fmtSoon
  issue (.tmma lk d a b imm buf) s (if s.ln.acc then s.resumeJob true
    else s.rowsChk row m (match s.scratchChk off (256 * m) 4 with
      | some c => .trap c (BitVec.ofNat 64 off)
      | none =>
        if f = .unset then .trap tFORMAT 0
        else s.withTile buf true (.mma s.lcore row m off f)))

/-- The checks of TDRAIN's destination and scale vector: CAPBOUND of both, then ALIGN of both (R235). -/
def State.drainChk (s : State) (off n : Nat) (vec : Option Nat) : Option (Nat × Nat) :=
  let bad (c : Nat) (o : Nat) (k : Nat) : Option (Nat × Nat) := if s.scratchChk o k 4 = some c then some (c, o) else none
  let scale (c : Nat) : Option (Nat × Nat) := vec.bind (fun o => bad c o 512)
  (bad tCAPBOUND off n).or ((scale tCAPBOUND).or ((bad tALIGN off n).or (scale tALIGN)))

/-- TDRAIN (R235). -/
def execTdrain (lk : Fin 16) (bf acc : Bool) (d : SReg) (a b : SSrc) (imm : BitVec 8) (vecScale buf : Bool) (s : State) :
    Host.Outcome State Fault Refusal :=
  let row := (s.rS d).toNat
  let m := (s.rS b.r).toNat
  let off := arrayOff (s.rS a.r) imm
  let n := drainLen bf m
  let vec := (s.rN (b.r.val + 1)).toNat
  issue (.tdrain lk bf acc d a b imm vecScale buf) s (if s.ln.acc then s.resumeJob false
    else s.rowsChk row m (match s.drainChk off n (if vecScale then some vec else none) with
      | some (c, o) => .trap c (BitVec.ofNat 64 o)
      | none =>
        let job (v : Option Nat) : Job := .drain s.lcore row off bf acc v (List.range (m * drainCols bf))
        if vecScale then s.compute (job (some vec)) else s.withTile buf false (job none)))

/-- TZERO (R236). -/
def execTzero (lk : Fin 16) (d : SReg) (b : SSrc) (s : State) : Host.Outcome State Fault Refusal :=
  let row := (s.rS d).toNat
  let m := (s.rS b.r).toNat
  issue (.tzero lk d b) s (s.rowsChk row m (s.compute (.zero s.lcore row m)))

/-- A buffer's code in TSTAT. -/
def BufState.code : BufState → Nat
  | .invalid => 0 | .loading _ => 1 | .loaded => 2 | _ => 3

/-- TSTAT (R237). -/
def State.tstat (s : State) (k : Nat) : Nat :=
  let c := s.ownComb
  let u := s.slotUsed c
  match k with
  | 0 => (if s.leaseHeld then 1 else 0) + (if c.asking.any (fun l => l / 8 == s.lcore) then 2 else 0) +
      16 * (if s.leaseHeld then (c.lease.map (fun x => x.left)).getD 0 else 0) + 65536 * ((c.slot + u / 2048) % 16)
  | 1 => c.buf0.st.code + 4 * c.buf1.st.code
  | _ => 2048 - u % 2048

def execTstat (lk : Fin 16) (d : SReg) (k : Fin 4) (s : State) : Host.Outcome State Fault Refusal :=
  issue (.tstat lk d k) s (if k.val = 3 then .trap tILLEGAL 0
    else .ok (fun t => t.wS d (BitVec.ofNat 64 (s.tstat k.val))))

end Sys2Proof.Machine
end

