-- ==== Sys2Proof/Machine/Kill.lean ====
section
/-!
DEFINITION. What a launch held goes: at its end, with the objects once its completion entry is posted (R322), and at a kill
of its context (R280).
-/

namespace Sys2Proof.Machine

/-- The objects of a launch go, with its ranges and pools of OIDs (R291, R322). -/
def State.freeObjs (s : State) : State :=
  (s.k.objs.foldl (fun s e => s.freeObj e.1) s).onK (fun k => { k with
    objs := [], roots := [], owns := [], rooms := [], nextOid := 1, pools := [], nextVa := 0, endAt := 0 })

/-- What stays of cores: the poison of their pools (R327). -/
def poisonOf (cs : Tab CoreSt) : Tab CoreSt :=
  (cs.filter (fun e => !(e.2.badW.isEmpty && e.2.badR.isEmpty))).map (fun e => (e.1, { CoreSt.init with badW := e.2.badW, badR := e.2.badR }))

/-- What runs under a launch goes: its records, groups, effects, watches and logs. -/
def State.clearRun (s : State) : State :=
  { s with
    cur := 0
    ln := Lane.init
    k := { s.k with
      launch := none, recs := [], groups := [], lanes := [], cores := poisonOf s.k.cores, combs := [], flits := [], seen := []
      accepted := [], bound := [], holds := [], watches := [], refused := [], bwaits := [], nodes := [], wakes := []
      faults := [], sideLog := [], copies := [], rels := [], fenceKnow := [] } }

/-- What stays of a core and of a comb when their launch has ended: registers and rows that the next start finds, and channels that
move no more (R11). -/
def CoreSt.rest (c : CoreSt) : CoreSt :=
  { CoreSt.init with full := c.full, acc := c.acc, fmt := c.fmt, bars := c.bars, badW := c.badW, badR := c.badR, saved := c.saved }
def CombSt.rest (c : CombSt) : CombSt :=
  { c with
    lease := none, asking := [], queue := [], twait := []
    chans := c.chans.map (fun e => (e.1, if e.2.st = .halted then e.2 else { e.2 with st := .idle, row := none, gate := false })) }

/-- The end of a launch: its effects, watches and logs go, and its records, groups, cores and combs stand as they are until the next
start (R11). -/
def State.endRun (s : State) : State :=
  let t := s.clearRun
  t.onK (fun k => { k with
    recs := s.k.recs, groups := s.k.groups, cores := s.k.cores.map (fun e => (e.1, e.2.rest)), combs := s.k.combs.map (fun e => (e.1, e.2.rest)) })

/-- Everything that a launch holds goes. -/
def State.clearLaunch (s : State) : State := s.freeObjs.clearRun

/-- A kill begins: everything is discarded, and the running launch is to end with status 0x02 (R280) (DESIGN CHOICE, log
entry 41). -/
def State.killCtx (s : State) : State :=
  let e := s.k.killing.getD (s.k.launch.map (fun l => cqEntry l.cmd 0x02 l.tt 0 0 0))
  s.clearLaunch.onK (fun k => { k with killing := some e })

/-- The end of a kill: the completion entry of the launch that ran. -/
def State.killDone (s : State) : State :=
  let t := s.onK (fun k => { k with killing := none })
  match s.k.killing with
  | some (some e) => t.complete e
  | _ => t

end Sys2Proof.Machine
end

