-- ==== Sys2Proof/Machine/Reads.lean ====
section
/-!
DEFINITION. Global reads: at their home (R210, R211, R214, R215, R220, R289, R327), back at the lane, and without an
answer (R345).
-/

namespace Sys2Proof.Machine

/-- Bytes at an address with the stores of an outbox over them, the latest last (R214). -/
def overlay (va : Nat) : List Byte → List Entry → List Byte
  | b, [] => b
  | b, e :: t => match e.eff with
    | .store a d _ => overlay va (overOne va b a d) t
    | .storeCap a c _ => overlay va (overOne va b a (toBytes c.toNat 16)) t
    | _ => overlay va b t

/-- The tag of a granule with an outbox's stores over it (R215). -/
def overTag (va : Nat) : Bool → List Entry → Bool
  | b, [] => b
  | b, e :: t => match e.eff with
    | .storeCap a _ _ => overTag va (b || a == va) t
    | .store a d _ => overTag va (b && !decide (a < va + 16 ∧ va < a + d.length)) t
    | _ => overTag va b t

/-- Is a read an exact one? -/
def ReadKind.exact : ReadKind → Bool
  | .xrd .. | .vxrd .. => true
  | _ => false

/-- Does a fill line of the range stand at top? -/
def State.anyTop (s : State) (va n : Nat) : Bool :=
  (List.range ((va + n + 63) / 64 - va / 64)).any (fun (i : Nat) => match s.phys? ((va / 64 + i) * 64) with
    | some a => s.mem.lineAt a == .top
    | none => false)

/-- What a read gains that acquires: where its own outbox does not give the bytes (R61). A device page makes every read acquire at
SYS (R65). -/
def State.readKnow (s : State) (q : ReadReq) (box : List Entry) (reader : Nat) : Know :=
  let own (a : Nat) : Bool := box.any (fun e => isStore e.eff && effMeets e.eff a 1)
  match if s.device q.va then some .sys else q.acq with
  | some sc => s.gained q.va q.len (s.changes (q.va / 64)) own sc reader
  | none => []

/-- The answer of mapped memory to a read. A device register answers as mmioRead says. An exact read that meets both a block
without a cap and a line at top raises NOTCAPPED (R50; DESIGN CHOICE, log entry 72). -/
def State.answer (s : State) (q : ReadReq) (box : List Entry) (reader : Nat) : Answer :=
  let know := s.readKnow q box reader
  let trap (code : Nat) : Answer := .trap ⟨code, q.pc, BitVec.ofNat 64 q.va, rptOf code⟩
  if s.poisonedAt q.va q.len then trap tUNCORR
  else match s.mmioRead q.va q.len with
  | some b => .data (overlay q.va b box) false know
  | none => if q.kind.exact then
    if !s.rangeCapped q.va q.len then trap tNOTCAPPED
    else if s.anyTop q.va q.len then trap tFILLCONF
    else .data (s.readV q.va q.len) false know
  else .data (overlay q.va (s.readV q.va q.len) box) (overTag q.va (s.tagAt q.va) box) know

/-- READ_REQUEST: once the task's own earlier effects on the bytes are applied, and no neighbour holds the request (R332), the
home answers, or the read meets a page that is not mapped, or a kernel frame (R211, R289). -/
def execReadRequest (l : Nat) (s : State) : Host.Outcome State Fault Refusal :=
  let x := s.lane l
  match x.rd with
  | none => .next s
  | some q =>
    let on := s.laneOn l && q.ans.isNone && !s.readHeld x.task q.va q.len && !s.muted (laneComb l) (2 * (l + 2 ^ 32 * q.t0) + 1) && (objAt s.k.objs q.va).isSome
    match (s.firstUnmapped q.va q.len).bind (fun a => s.unmapped? a) with
    | some m => event s on (s.parkPage l m q.pc (BitVec.ofNat 64 q.va))
    | none =>
      event s (on && (s.firstUnmapped q.va q.len).isNone)
        (if s.kernelAt q.va q.len then
          s.endAbandoned l id ⟨tKRES, q.pc, BitVec.ofNat 64 q.va, false⟩
        else { s.ticked.onLane l (fun x => { x with rd := some { q with ans := some (s.answer q x.box (l / 8)) } }) with
          hw := s.answerHome (l / 8) q.va })

/-- Writes what a read returns (R214, R215, R220). -/
def State.writeRead (s : State) (q : ReadReq) (b : List Byte) (tag : Bool) : State :=
  match q.kind with
  | .ldx _ => s.wS (Fin.ofNat 64 q.d) (extend false b)
  | .vldx => s.wVn q.d (bytesVec b)
  | .ldc => s.wC (Fin.ofNat 16 q.d) (if tag then BitVec.ofNat 128 (ofBytes b) else 0)
  | .xrd t _ => s.wS (Fin.ofNat 64 q.d) (extend (t == .maxi || t == .mini) b)
  | .vxrd _ _ => s.wVn q.d (bytesVec b)

/-- READ_RESPONSE. -/
def execReadResponse (l : Nat) (s : State) : Host.Outcome State Fault Refusal :=
  let t := s.focusLane l
  match t.ln.rd with
  | none => .next s
  | some q => match q.ans with
    | none => .next s
    | some (.trap i) => event s (s.laneOn l) (t.takeTrap i)
    | some (.data b tag know) => event s (s.laneOn l) (((t.onLn (fun x => { x with rd := none })).gain know).writeRead q b tag)

/-- READ_TIMEOUT: 20 us without a response, be it on its way, abandon the activation (R345). -/
def execReadTimeout (l : Nat) (s : State) : Host.Outcome State Fault Refusal :=
  match (s.lane l).rd with
  | none => .next s
  | some q => event s (s.laneOn l && decide (q.t0 + 20000 ≤ s.time)) (s.abandon l)

end Sys2Proof.Machine
end

