-- ==== Sys2Proof/Machine/PageServe.lean ====
section
/-!
DEFINITION. The fault processor: serving a page in hardware or by the Skep, a page that cannot be served, and the
replay of side logs with the waking of parked records (R211, R292 to R295).
-/

namespace Sys2Proof.Machine

/-- Changes a fault by its index. -/
def State.onFault (s : State) (n : Nat) (f : Fault292 → Fault292) : State :=
  s.onK (fun k => { k with faults := match k.faults[n]? with
    | some x => lset k.faults n (f x)
    | none => k.faults })

/-- A fault has been served: mapped, or found unserviceable. FLTCNT counts it (Table 16-7). -/
def State.servedFault (s : State) (n : Nat) (f : Fault292) (failed : Bool) : State :=
  (s.onFault n (fun x => { x with done := true, failed := failed })).onK (fun k =>
    { k with fltcnt := tset k.fltcnt f.page.pkg (tget k.fltcnt f.page.pkg 0 + 1) })

/-- Is a fault's object gone? It then needs no page, and what waits on it is discarded (R291). -/
def State.faultGone (s : State) (f : Fault292) : Bool := (tget? s.k.objs f.page.oid).isNone

/-- PAGE_FAULT_SERVICE: the hardware walker maps a missing page with bottom (R293). -/
def execPageFaultService (n : Nat) (s : State) : Host.Outcome State Fault Refusal :=
  match s.k.faults[n]? with
  | none => .next s
  | some f => event s (!f.done && !f.skep)
      (if s.faultGone f then s.servedFault n f false
      else if f.page.cause ≠ .missing then s.servedFault n f true
      else match s.mapPage f.page.oid f.page.pkg f.page.die f.page.pg with
        | some t => t.servedFault n f false
        | none => s.servedFault n f true)

/-- A present leaf of a page, with its place: the Skep keeps its frame (R292). -/
def State.leafOf (s : State) (m : Missed) : Option (Nat × Nat) :=
  match rootOf s.k.roots m.oid m.pkg m.die with
  | none => none
  | some r => match s.walkDirs m.pkg m.pg (r.lv - 1) r.top with
    | .ok t =>
      let leaf := s.tableEntry m.pkg t (m.pg % 512)
      if leaf % 2 = 1 then some (t + 8 * (m.pg % 512), leaf) else none
    | .error _ => none

/-- What the Skep writes for a page: a new mapping, or a leaf set right with its frame kept and its contents as they stand
(R292, R294); none when the frame or the memory type is not one that the page may have. -/
def State.skepMap (s : State) (m : Missed) (fr mt : Nat) : Option State :=
  match tget? s.k.objs m.oid with
  | none => none
  | some x =>
    if 4 ≤ mt ∨ !mtOk x.ty mt then none
    else match s.leafOf m with
      | none => s.mapPageAt m.oid m.pkg m.die m.pg mt (some fr)
      | some (a, leaf) =>
        if leaf / 65536 % 2 ^ 24 ≠ fr then none
        else
          let new := fr * 65536 + ltyNum x.ty * 16 + mt * 4 + (if s.kAt m.pkg (fr * 65536) then 2 else 0) + 1
          some { s with mem := s.mem.writeL (physAddr m.pkg a) (toBytes new 8) }

/-- SKEP_FAULT_RESUME: within 100 ms the Skep writes the tables and resumes the page, declines, or kills the context whose
tables it cannot keep (R292, R294). -/
def execSkepFaultResume (n : Nat) (ans : SkepAnswer) (s : State) : Host.Outcome State Fault Refusal :=
  match s.k.faults[n]? with
  | none => .next s
  | some f =>
    let on := !f.done && f.skep && decide (s.time < f.t0 + 100000000)
    if s.faultGone f then event s on (s.servedFault n f false)
    else match ans with
      | .decline => event s on (s.servedFault n f true)
      | .kill => event s (on && f.page.cause == .table) s.killCtx
      | .resume fr mt => match s.skepMap f.page fr mt with
        | some t => event s on (t.servedFault n f false)
        | none => .next s

/-- FAULT_SERVICE_TIMEOUT: 100 ms without the Skep's answer. -/
def execFaultServiceTimeout (n : Nat) (s : State) : Host.Outcome State Fault Refusal :=
  match s.k.faults[n]? with
  | none => .next s
  | some f => event s (!f.done && f.skep && decide (f.t0 + 100000000 ≤ s.time)) (s.servedFault n f (!s.faultGone f))

/-- A logged effect, applied to memory that is mapped now, or discarded with its report (R295). -/
def State.replayOne (s : State) (f : Flit) (failed : Bool) : State :=
  let va := effVa f.e.eff
  if s.retired va then s else match s.translate va with
    | .at a k _ =>
      if failed then s.report f tPAGEFAULT va
      else if k then s.report f tKRES va
      else if s.poisonOver a (effLen f.e.eff) then s.report f tUNCORR va
      else s.applyEff f
    | .absent => s
    | .missing _ => s.report f tPAGEFAULT va

/-- The records parked on a page go on, or end with PAGEFAULT (R211). -/
def State.wakePage (s : State) (f : Fault292) (tasks : List (Nat × Rec)) : State :=
  tasks.foldl (fun s r => match r.2.st with
    | .parked (.page _ pc va) =>
      if f.failed then
        ((s.onRec r.1 (fun x => { x with never := x.pnever })).endByTrap r.1 ⟨tPAGEFAULT, pc, va, false⟩).afterEnd r.1
      else s.onRec r.1 (fun x => { x with st := .ready, since := s.time })
    | _ => s) s

/-- Records parked on the page of a fault. -/
def State.parkedOn (s : State) (n : Nat) : List (Nat × Rec) :=
  s.k.recs.filter (fun r => match r.2.st with
    | .parked (.page m _ _) => m == n
    | _ => false)

/-- SIDE_LOG_REPLAY: the next logged effect of the page, in arrival order; when none is left, the records that wait on
the page. -/
def execSideLogReplay (n : Nat) (s : State) : Host.Outcome State Fault Refusal :=
  match s.k.faults[n]? with
  | none => .next s
  | some f =>
    match s.k.sideLog.find? (fun g => g.n == n) with
    | some g =>
      event s f.done ((s.onK (fun k => { k with sideLog := dropFirst (fun x => x.n == n) k.sideLog })).replayOne g.f f.failed)
    | none => event s f.done (s.wakePage f (s.parkedOn n))

end Sys2Proof.Machine
end

