-- ==== Sys2Proof/Machine/Task.lean ====
section
/-!
DEFINITION. Majors 0x77 and 0x78: records and groups (R247 to R253), messages and handlers (R255 to R257).
-/

namespace Sys2Proof.Machine

/-- Is a group the issuer's, a descendant of it, or reserved by this activation, a child of it (R250)? -/
def State.ownGroup (s : State) (g : Nat) : Bool := s.ln.rGid.contains g || s.within s.gid g

/-- The same, and live. -/
def State.groupOk (s : State) (g : Nat) : Bool := s.ln.rGid.contains g || (s.liveGroup g && s.within s.gid g)

/-- Is o the group g or an ancestor of it? -/
def State.ownerOver (s : State) (o g : Nat) : Bool := if s.ln.rGid.contains g then s.within o s.gid else s.within o g

/-- The checks of a frame, or of a pool of frames, of n bytes for group g (R94, R247, R256). -/
def State.frameChk (s : State) (c : Cap) (n g : Nat) : Option Nat :=
  match s.obj? (capOid c) with
  | none => some tCAPBOUND
  | some x =>
    let w := capWindow c x
    if w.2 - w.1 < n then some tCAPBOUND
    else if !capHas c rR || !capHas c rW then some tCAPRIGHT
    else if x.ty ≠ .excl then some tTYPEMIS
    else if !s.ownerOver x.owner g then some tEXCLOWN
    else if g ≠ s.gid ∧ !capHas c rG then some tCAPRIGHT
    else none

/-- The tag of the effect that the lane in focus issues next (R99). -/
def State.tag (s : State) : Nat := tagOf s.ln.task s.rec_.f.actn s.ln.seqn

/-- ALLOC as al selects it (R247). -/
def State.allocOf (s : State) (al : Nat) : Nat := if al = 0 then s.alloc else 8 * al

/-- A spawned record's fields (R249). -/
def State.spawned (s : State) (pc : Word) (g cls al : Nat) (pin : Bool) (l : Nat) (frame : Cap) : RecFields :=
  { RecFields.init with
    pc := pc60 pc, pin := pin, gid := g, deadline := s.rec_.f.deadline, cbud := s.rec_.f.cbud, cls := cls
    alloc := s.allocOf al, pcore := if pin then l % 2048 else 0, frame := frame }

/-- Reserves a record, which counts as READY in its group (R247). -/
def State.reserve (s : State) (n : Nat) (f : RecFields) : State :=
  (s.onK (fun k => { k with
    recs := tset k.recs n { Rec.init with f := f, st := .reserved }
    nextTask := n + 1 })).onLn (fun l => { l with rTask := l.rTask ++ [n] })

/-- Records of the pool that are free: those of a group are in use until it is freed, ENDED ones too (Table 4-3), reserved
ones are, and each binding holds 16 (R305) (DESIGN CHOICE, log entry 33). -/
def State.poolFree (s : State) : Nat :=
  s.k.pool - (((s.k.groups.filter (fun e => e.2.status == 0)).map (fun e => e.2.used)).sum +
    (s.k.recs.filter (fun e => e.2.st == .reserved)).length +
    16 * (s.k.cores.map (fun e => e.2.binds.length)).sum)

/-- The id that a tag names, while R328 keeps the tag (R247, R250). -/
def State.boundId (s : State) (tag : Nat) : Option Nat :=
  match tget? s.k.bound tag with
  | some (n, t) => if s.time ≤ t + 40000 ∨ s.heldAct (tag / 2 ^ 20) = true then some n else none
  | none => none

/-- SPAWN and SPAWNAT. A tag that already names a record reserves nothing; with an empty pool the lane stalls (R305). -/
def State.spawn (s : State) (d : SReg) (a b : SReg) (c : CReg) (cls al : Nat) (pin : Bool) (release : Option Word) :
    Do :=
  let x := (s.rS b).toNat
  let g := x % 2 ^ 32
  let l := x / 2 ^ 32 % 2 ^ 29
  let f := s.spawned (s.rS a) g cls al pin l (s.rC c)
  if (if pin then 2 ^ 61 ≤ x else 2 ^ 32 ≤ x) then .trap tILLEGAL 0
  else if 2 ^ 60 ≤ (s.rS a).toNat ∨ (pin ∧ s.lcount ≤ l) then .trap tCAPBOUND 0
  else if !s.groupOk g then .trap tPRIV 0
  else if s.valloc < f.alloc then .trap tREGBOUND 0
  else match s.frameChk f.frame (2 * areaBytes f.alloc) g with
    | some code => .trap code 0
    | none =>
      let n := (s.boundId s.tag).getD s.k.nextTask
      if (s.boundId s.tag).isNone && s.poolFree == 0 then .stay id
      else s.effect (.spawn n f (if pin then some l else none) release) .relaxed (fun t =>
        (if (s.boundId s.tag).isSome then t else t.reserve n f).wS d (BitVec.ofNat 64 n))

def execSpawn (lk : Fin 16) (d : SReg) (a b : SSrc) (c : CSrc) (cls : Fin 16) (al : Fin 8) (pin : Bool) (s : State) :
    Host.Outcome State Fault Refusal :=
  issue (.spawn lk d a b c cls al pin) s
    (if 4 < al.val then .trap tILLEGAL 0 else s.spawn d a.r b.r c.r cls.val al.val pin none)

/-- The release time is s[A + 1] (R248). -/
def execSpawnat (lk : Fin 16) (d : SReg) (a b : SSrc) (c : CSrc) (cls : Fin 16) (al : Fin 8) (pin : Bool) (s : State) :
    Host.Outcome State Fault Refusal :=
  issue (.spawnat lk d a b c cls al pin) s
    (if 4 < al.val ∨ a.r.val = 63 then .trap tILLEGAL 0
    else s.spawn d a.r b.r c.r cls.val al.val pin (some (s.rN (a.r.val + 1))))

/-- TGNEW reserves the id of a child of the issuer's group (R250). -/
def execTgnew (lk : Fin 16) (d : SReg) (g : GAddr) (ov : Fin 64) (s : State) : Host.Outcome State Fault Refusal :=
  let ea := s.ea g
  let n := (s.boundId s.tag).getD s.k.nextGid
  issue (.tgnew lk d g ov) s (s.reach (s.rC g.c.r) ea 128 rJ (aligned ea 64) (s.latTy .join .fill .w64) (fun _ =>
    s.effect (.tgnew n s.gid ea (ea + 64) ov.val) .relaxed (fun t =>
      ((t.onK (fun k => if (s.boundId s.tag).isSome then k else { k with nextGid := n + 1 })).onLn (fun l =>
        { l with rGid := nadd l.rGid n })).wS d (BitVec.ofNat 64 n))))

/-- The checks of TGCLOSE (R251), in an order that the rule leaves open: the root group's PRIV, the absent object, the right, the
owner (DESIGN CHOICE, log entry 96). -/
def State.tgcloseChk (s : State) (g : Nat) (c : CReg) : Option Nat :=
  if !s.ownGroup g then some tPRIV
  else if c = 0 then none
  else if s.k.launch.any (fun l => l.root == g) then some tPRIV
  else match s.obj? (capOid (s.rC c)) with
    | none => some tCAPBOUND
    | some x =>
      if !capHas (s.rC c) rG then some tCAPRIGHT
      else if x.owner ≠ g then some tEXCLOWN
      else none

def execTgclose (lk : Fin 16) (a : SSrc) (c : CSrc) (s : State) : Host.Outcome State Fault Refusal :=
  let g := (s.rS a.r).toNat
  issue (.tgclose lk a c) s (match s.tgcloseChk g c.r with
    | some code => .trap code 0
    | none => s.effect (.tgclose g (if c.r = 0 then 0 else capOid (s.rC c.r))) .relaxed id)

def execCancel (lk : Fin 16) (a : SSrc) (s : State) : Host.Outcome State Fault Refusal :=
  let g := (s.rS a.r).toNat
  issue (.cancel lk a) s (if !s.ownGroup g then .trap tPRIV 0 else s.effect (.cancel g) .relaxed id)

/-- SETDL and SETBG judge their record at commit (R253). -/
def execSetdl (lk : Fin 16) (a b : SSrc) (s : State) : Host.Outcome State Fault Refusal :=
  issue (.setdl lk a b) s (s.effect (.setdl (s.rS a.r).toNat (s.rS b.r)) .relaxed id)
def execSetbg (lk : Fin 16) (a b : SSrc) (s : State) : Host.Outcome State Fault Refusal :=
  let v := (s.rS b.r).toNat
  issue (.setbg lk a b) s (if 2 ^ 32 ≤ v then .trap tILLEGAL 0
    else s.effect (.setbg (s.rS a.r).toNat v) .relaxed id)

/-- MSG (R255); classes 0 to 3 raise PRIV before this. -/
def execMsg (lk : Fin 16) (a b : SSrc) (cls : Fin 64) (s : State) : Host.Outcome State Fault Refusal :=
  let dst := (s.rS a.r).toNat
  let body := [s.rN b.r.val, s.rN (b.r.val + 1), s.rN (b.r.val + 2), s.rN (b.r.val + 3)]
  issue (.msg lk a b cls) s (if 60 < b.r.val then .trap tILLEGAL 0
    else if s.lcount ≤ dst then .trap tCAPBOUND 0
    else s.effect (.msg ⟨s.lcore, dst, cls.val, body, none, []⟩) .relaxed id)

/-- Does HREG wait for 16 records of the pool (R305)? A class that is bound gives its own back. -/
def State.poolWait (s : State) (cls : Nat) : Bool :=
  decide (s.poolFree < 16) && !thas (s.core s.lcore).binds cls

/-- HREG (R256), its checks in an order that the rule leaves open: the fields' ILLEGAL, the group's PRIV, REGBOUND, then the pool as
a frame (DESIGN CHOICE, log entry 97). -/
def execHreg (lk : Fin 16) (a b : SSrc) (c : CSrc) (cls : Fin 64) (s : State) : Host.Outcome State Fault Refusal :=
  let x := (s.rS b.r).toNat
  let g := x % 2 ^ 32
  let al := x / 2 ^ 36 % 8
  let pool := s.rC c.r
  issue (.hreg lk a b c cls) s
    (if 2 ^ 39 ≤ x ∨ al = 0 ∨ 4 < al ∨ a.r.val = 63 then .trap tILLEGAL 0
    else if !s.groupOk g then .trap tPRIV 0
    else if s.valloc < 8 * al then .trap tREGBOUND 0
    else match s.frameChk pool (16 * (2 * areaBytes (8 * al))) g with
      | some code => .trap code 0
      | none => if s.poolWait cls.val then .stay id else s.effect (.hreg s.lcore cls.val
          ⟨s.rS a.r, s.rN (a.r.val + 1), g, x / 2 ^ 32 % 16, 8 * al, pool, s.rec_.f.cbud, []⟩) .relaxed id)

/-- HDROP (R257). -/
def execHdrop (lk : Fin 16) (cls : Fin 64) (s : State) : Host.Outcome State Fault Refusal :=
  issue (.hdrop lk cls) s (s.effect (.hdrop s.lcore cls.val) .relaxed id)

end Sys2Proof.Machine
end

