-- ==== Sys2Proof/Machine/Twe.lean ====
section
/-!
DEFINITION. Major 0x76: the instructions of the tile-walk engine (R243 to R245). Any lane of a comb uses any channel.
-/

namespace Sys2Proof.Machine

/-! The transfer record (Table 10-3). -/

/-- n bits of a record from bit lo. -/
def recBits (x : Line) (lo n : Nat) : Nat := (x.extractLsb' lo n).toNat

def trNext (x : Line) : Nat := recBits x 0 60
def trO (x : Line) : Bool := x.getLsbD 63
def trSrc (x : Line) : Nat := recBits x 64 60
def trSsp (x : Line) : Nat := recBits x 124 4
def trDst (x : Line) : Nat := recBits x 128 60
def trDsp (x : Line) : Nat := recBits x 188 4
def trRows (x : Line) : Nat := recBits x 192 16
def trRb (x : Line) : Nat := recBits x 208 16
def trSstr (x : Line) : Int := (x.extractLsb' 224 32).toInt
def trDstr (x : Line) : Int := (x.extractLsb' 256 32).toInt
def trMcast (x : Line) : Nat := recBits x 320 64
def trCa (x : Line) : Nat := recBits x 384 62
def trCk (x : Line) : Nat := recBits x 446 2
def trId (x : Line) : Nat := recBits x 448 32
def trWf (x : Line) : Bool := x.getLsbD 480
def trPg (x : Line) : Bool := x.getLsbD 481
def trFj (x : Line) : Bool := x.getLsbD 482

/-- Is a record under way: a row is due, or its completion? -/
def Chan.moving (c : Chan) : Bool := c.st == .walking || c.st == .waiting

/-- Is a flit payload of a channel? -/
def Flit.payloadOf (f : Flit) (comb ch : Nat) : Bool :=
  match f.e.eff with
  | .payload a b _ => a == comb && b == ch
  | _ => false

/-- Does memory payload of a channel wait in a side log (R61 edge 6, R212)? -/
def State.loggedPayload (s : State) (comb ch : Nat) : Bool := s.k.sideLog.any (fun g => g.f.payloadOf comb ch)

/-- Is payload of a channel on its way? -/
def State.paying (s : State) (comb ch : Nat) : Bool := s.k.flits.any (fun f => f.payloadOf comb ch && f.pending)

/-- TWGO; the channel starts or is kicked at commit. -/
def execTwgo (lk : Fin 16) (ch : Fin 8) (g : GAddr) (s : State) : Host.Outcome State Fault Refusal :=
  issue (.twgo lk ch g) s (s.reach (s.rC g.c.r) (s.ea g) 64 rR (aligned (s.ea g) 64) (s.exclTy g.c.r) (fun _ =>
    s.effect (.twgo (combOf s.lcore) ch.val (s.ea g)) .relaxed id))

/-- TWPERM. -/
def execTwperm (lk : Fin 16) (ch : Fin 8) (b : SSrc) (s : State) : Host.Outcome State Fault Refusal :=
  let n := (s.rS b.r).toNat
  issue (.twperm lk ch b) s (if 65535 < n then .trap tILLEGAL 0
    else s.effect (.twperm (combOf s.lcore) ch.val n) .relaxed id)

def ChanState.code : ChanState → Nat
  | .idle => 0 | .walking => 1 | .waiting => 2 | .halted => 3

/-- What TWSTAT reads (R244). -/
def Chan.status (c : Chan) (k : Nat) : Nat :=
  match k with
  | 0 => c.doneId
  | 1 => c.permits
  | 2 => c.head
  | _ => c.st.code + 256 * c.err

def execTwstat (lk : Fin 16) (d : SReg) (ch : Fin 8) (k : Fin 4) (s : State) : Host.Outcome State Fault Refusal :=
  issue (.twstat lk d ch k) s (.ok (fun t =>
    t.wS d (BitVec.ofNat 64 ((s.chan (combOf s.lcore) ch.val).status k.val))))

/-- TWWAIT goes on when DONEID has reached s[B]; else it parks. -/
def execTwwait (lk : Fin 16) (ch : Fin 8) (b : SSrc) (s : State) : Host.Outcome State Fault Refusal :=
  let n := (s.rS b.r).toNat
  issue (.twwait lk ch b) s (if 2 ^ 32 ≤ n then .trap tILLEGAL 0
    else if n ≤ (s.chan (combOf s.lcore) ch.val).doneId then .ok (fun t => t.gain ((s.chan (combOf s.lcore) ch.val).doneKnow n))
    else s.parkOn (.twwait (combOf s.lcore) ch.val n))

end Sys2Proof.Machine
end

