-- ==== Sys2Proof/Machine/Groups.lean ====
section
/-!
DEFINITION. Records and groups from birth to end: accepted spawns (R247), timers (R315), completion (R108, R120), the
end of a launch (R322, R337), cancels (R109, R312 to R314), reclaim (R313), freed task ids (R93), and kills (R280).
-/

namespace Sys2Proof.Machine

/-- Release tick of a time (R315). -/
def releaseTick (t : Word) : Nat := (t.toNat + 99) / 100

/-- Where a record with release tick T goes in the wheel at tick now (R315). -/
def wheelPlace (T now : Nat) : WheelPos :=
  let d := T - now
  if T < now then ⟨5, 0, now⟩
  else if d < 2 ^ 8 then ⟨0, T % 256, now⟩
  else if d < 2 ^ 16 then ⟨1, T / 2 ^ 8 % 256, now⟩
  else if d < 2 ^ 24 then ⟨2, T / 2 ^ 16 % 256, now⟩
  else if d < 2 ^ 32 then ⟨3, T / 2 ^ 24 % 256, now⟩
  else ⟨4, 0, now⟩

/-- The tick at which a place comes due: of its slot, of the next turn of level 3 for the overflow list, the next one for a time
already past. -/
def WheelPos.due (p : WheelPos) (T : Nat) : Nat :=
  if p.level ≤ 3 then T / 2 ^ (8 * p.level) * 2 ^ (8 * p.level)
  else if p.level = 4 then (p.at' / 2 ^ 32 + 1) * 2 ^ 32
  else p.at' + 1

/-- Its records are placed again as slots of the higher levels come due until tick now; n bounds the moves. -/
def WheelPos.turn (p : WheelPos) (T now : Nat) : Nat → WheelPos
  | 0 => p
  | n + 1 => if 1 ≤ p.level ∧ p.level ≤ 4 ∧ p.due T ≤ now then (wheelPlace T (p.due T)).turn T now n else p

/-- Is a place's record released at tick now? -/
def WheelPos.released (p : WheelPos) (T now : Nat) : Bool := (p.level == 0 || p.level == 5) && decide (p.due T ≤ now)

/-- A TIMED record at tick now: it moves in the wheel, and is READY when its slot of level 0 comes due. -/
def Rec.tick (r : Rec) (t : Word) (now ns : Nat) : Rec :=
  let T := releaseTick t
  let p := r.wheel.turn T now (5 + now / 2 ^ 32)
  if p.released T now then { r with st := .ready, since := ns, wheel := p } else { r with wheel := p }

/-- SPAWN_ACCEPT: the reserved record becomes READY or TIMED in its bank; into a cancelled group it is discarded, and
a tag that was accepted before is dropped (R99, R247, R300, R314). -/
def execSpawnAccept (id : Nat) (s : State) : Host.Outcome State Fault Refusal :=
  match s.due? id with
  | none => .next s
  | some f => match f.e.eff with
    | .spawn n _ lc release =>
      let r := s.record n
      let c := lc.getD f.lcore
      let s1 := s.doneFlit id
      if s.tagSeen f ∨ r.st ≠ .reserved then .next s1
      else if s.cancelledAt r.f.gid (c / 2048) ∨ !thas s.k.groups r.f.gid then
        .next ((s1.acceptTag f).onRec n (fun r => { r with st := .ended, doneAt := some s.time }))
      else .next (((s1.acceptTag f).onGroup r.f.gid (fun g => { g with used := g.used + 1 })).onRec n (fun r => { r with
        pkg := c / 2048, die := s.bankOf c, since := s.time, f := { r.f with cls := s.classFor r.f.gid r.f.cls }
        first := some ([], []), know := s.knowOf f
        wheel := match release with
          | some t => wheelPlace (releaseTick t) (s.timeAt c / 100)
          | none => r.wheel
        st := match release with
          | some t => .timed t
          | none => .ready }))
    | _ => .next s

/-- WHEEL_TICK: the timer wheel of a bank turns to the tick of its package's TIME (R118, R315, R316). The records that a step of
TIME passes are released with it (DEDUCED, log entry 40). -/
def execWheelTick (pkg die : Nat) (s : State) : Host.Outcome State Fault Refusal :=
  .next (s.onK (fun k => { k with recs := k.recs.map (fun e => match e.2.st with
    | .timed t => if e.2.pkg = pkg ∧ e.2.die = die then (e.1, e.2.tick t (s.timeOn (lget s.pkgmap pkg 0) / 100) s.time) else e
    | _ => e) }))

/-- The groups of a subtree. -/
def State.subtree (s : State) (g : Nat) : List Nat := (s.k.groups.map (fun e => e.1)).filter (fun x => s.within g x)

/-- A line of Table 4-6. -/
def completionLine (status ended trapped nevers : Nat) : List Byte :=
  toBytes status 8 ++ toBytes ended 8 ++ toBytes trapped 8 ++ toBytes nevers 8 ++ List.replicate 32 0

/-- The bindings of some groups end, on the cores that p selects (R114). -/
def State.endBindings (s : State) (p : Nat → Bool) (gs : List Nat) : State :=
  s.onK (fun k => { k with cores := k.cores.map (fun e =>
    if p e.1 then (e.1, { e.2 with binds := e.2.binds.filter (fun b => !gs.contains b.2.gid) }) else e) })

/-- The objects of a group at its completion: handed ones go to the parent, which keeps them through a cancel of its own (R313), the
others are freed (R108, R251). -/
def State.endObjects (s : State) (g : Nat) (parent : Option Nat) : State :=
  (s.k.objs.filter (fun e => e.2.owner == g && !e.2.ret)).foldl (fun s e => match parent with
    | some p =>
      if e.2.handed then s.onK (fun k => { k with objs := tmap k.objs e.1 (fun x => { x with owner := p, handed := false, kept := true }) })
      else s.freeObj e.1
    | none => s.freeObj e.1) s

/-! The manifest. -/

/-- A number put into n bytes at a place of the manifest (R337). -/
def putField (m : BitVec 2048) (at' n v : Nat) : BitVec 2048 :=
  let mask : BitVec 2048 := BitVec.ofNat 2048 ((2 ^ (8 * n) - 1) * 2 ^ (8 * at'))
  (m &&& ~~~mask) ||| BitVec.ofNat 2048 (v % 2 ^ (8 * n) * 2 ^ (8 * at'))

/-- What the end of a launch adds: SHAPE from a full line, RFCOUNT, FENCES, FINAL (R337, R338). -/
def State.finalManifest (s : State) : BitVec 2048 :=
  let shape := match s.k.launch.bind (fun l => l.shape) with
    | some va => match s.phys? va with
      | some a => if s.mem.lineAt a = .full then ofBytes (s.readV va 64) else 0
      | none => 0
    | none => 0
  let m := putField s.k.manifest 128 64 shape
  let m := putField m 216 8 s.k.rfcount
  let m := putField m 224 8 s.k.fences
  m ||| BitVec.ofNat 2048 (2 ^ (8 * 64 + 8))

/-- The end of a launch: the manifest, the completion entry, and the end of what it held; its objects stay until the entry
is posted. Of a cancelled launch the root line's counts are zero (R109, R320, R322). -/
def State.endLaunch (s : State) (status : Nat) : State :=
  match s.k.launch with
  | none => s
  | some l =>
    let g := s.group l.root
    let e := if status = 0 then cqEntry l.cmd status l.tt g.ended g.trapped g.nevers else cqEntry l.cmd status l.tt 0 0 0
    let t := (s.onK (fun k => { k with manifest := s.finalManifest })).complete e
    (t.onK (fun k => { k with endAt := k.host.waiting.length })).endRun

/-! Completion. -/

/-- Is a group closed: by TGCLOSE, or the root group by the end of the root record (R108, R322)? -/
def State.isClosed (s : State) (g : Nat) : Bool :=
  (s.group g).closed || s.k.launch.any (fun l => l.root == g && !s.alive l.rootTask)

/-- Is each effect of a subtree applied, and acknowledged or reported lost (R120, R345)? -/
def State.settledEffects (s : State) (g : Nat) : Bool :=
  !s.k.flits.any (fun f => !f.lost && !f.e.eff.engine && s.within g f.gid) && !s.k.sideLog.any (fun e => !e.f.e.eff.engine && s.within g e.f.gid)

/-- Is a channel at the end of a record: its completion action is done, and nothing of it is on its way (R242)? -/
def State.chanEnds (s : State) (comb ch : Nat) (c : Chan) : Bool :=
  c.moving && !s.paying comb ch && !s.loggedPayload comb ch && c.row == some (if trCk c.line = 0 then trRows c.line else trRows c.line + 1)

/-- Does a channel still have to leave a record that is done? -/
def State.chansEnd (s : State) : Bool := s.k.combs.any (fun e => e.2.chans.any (fun x => s.chanEnds e.1 x.1 x.2))

/-- Is a group the root group of the running launch? -/
def State.isRoot (s : State) (g : Nat) : Bool := s.k.launch.any (fun l => l.root == g)

/-- GROUP_COMPLETE (R108); the root group's completion, once its line is joined and the TWE channels have left the records that are
done (R242, R271), ends the launch. -/
def execGroupComplete (gid : Nat) (s : State) : Host.Outcome State Fault Refusal :=
  let g := s.group gid
  let live := s.k.recs.any (fun r => r.2.f.gid == gid && r.2.st != .ended)
  let kids := s.k.groups.any (fun e => e.2.parent == some gid && e.2.status == 0)
  let on := s.liveGroup gid && s.isClosed gid && !g.cancelling && !live && !kids && s.settledEffects gid
  let s1 := (s.onGroup gid (fun x => { x with status := 1 })).sendLine gid g.compl
    (completionLine 1 g.ended g.trapped g.nevers) (s.groupKnow gid)
  if s.isRoot gid ∧ g.status = 1 then event s (s.settledEffects gid && !s.chansEnd) (s.endLaunch 0)
  else event s on (if s.isRoot gid then s1 else (s1.endBindings (fun _ => true) [gid]).endObjects gid g.parent)

/-- TASK_ID_FREE: the record has ended, its effects are acknowledged or lost, no hold set names it, and a further 100 us
have passed: its id is free (R93). -/
def execTaskIdFree (task : Nat) (s : State) : Host.Outcome State Fault Refusal :=
  match tget? s.k.recs task with
  | none => .next s
  | some r => event s (r.st == .ended && r.doneAt.any (fun t => decide (t + 100000 ≤ s.time)) &&
        !s.k.flits.any (fun f => f.task == task && !f.lost) && !thas s.k.holds task)
      (s.onK (fun k => { k with recs := terase k.recs task }))

/-! Cancels. -/

/-- A record that a cancel's mark removes: it holds no lane (R312 step 2). -/
def RecState.queued : RecState → Bool
  | .timed _ | .ready | .loc _ | .parked _ | .fenced _ | .held => true
  | _ => false

/-- Channels of cancelled owners halt when they stand at a record boundary or wait (R245, R312; DEDUCED, log entry 24). -/
def CombSt.haltOwned (c : CombSt) (gs : List Nat) : CombSt :=
  { c with chans := c.chans.map (fun e =>
    if gs.contains e.2.owner && e.2.row.isNone && !e.2.gate && e.2.st != .idle then (e.1, { e.2 with st := .halted }) else e) }

/-- A CANCEL of a group that is on its way and may arrive. -/
def State.cancelDue? (s : State) (gid : Nat) : Option Flit :=
  s.k.flits.find? (fun f => f.e.eff == .cancel gid && (s.due? f.id).isSome)

/-- A CANCEL that is due reaches the node of SYS: a group that is live is marked cancelling there (R252, R312). -/
def State.cancelArrives (s : State) (gid : Nat) : State :=
  match s.cancelDue? gid with
  | some f =>
    let t := s.doneFlit f.id
    if t.liveGroup gid then t.onGroup gid (fun y => { y with cancelling := true }) else t
  | none => s

/-- CANCEL_MARK: a CANCEL on its way is taken, and the mark reaches a package; queued records, bindings, channels and leases of
the subtree end there. -/
def execCancelMark (gid pkg : Nat) (u : State) : Host.Outcome State Fault Refusal :=
  let s := u.cancelArrives gid
  let came := (u.cancelDue? gid).isSome
  let gs := s.subtree gid
  let g := s.group gid
  let here (c : Nat) : Bool := c / 2048 == pkg
  let s1 := gs.foldl (fun s x => s.onGroup x (fun y => { y with cancelling := true, marks := nadd y.marks pkg })) s
  let recs := s.k.recs.filter (fun r => gs.contains r.2.f.gid && r.2.pkg == pkg && r.2.st.queued)
  let s2 := recs.foldl (fun s r => s.removeRec r.1) s1
  let s3 := (s2.endBindings here gs).onK (fun k => { k with combs := k.combs.map (fun e =>
    if e.1 / 512 = pkg then (e.1, e.2.haltOwned gs) else e) })
  if came && !s.liveGroup gid then .next s
  else event u (s.liveGroup gid && g.cancelling && (came || !g.marks.contains pkg || !recs.isEmpty) && decide (pkg < s.npkg))
    (s3.afterRemoved (recs.map (fun r => r.1)))

/-- The states of a lane before its commit point (Table 4-5). -/
def LaneState.cancels : LaneState → Bool
  | .load | .run | .finish | .verify => true
  | _ => false

/-- A lane meets a cancel before its commit point: the record goes with a CANCELLED record (Table 4-5, R252)
(DEDUCED, log entry 17). -/
def State.cancelLane (s : State) (l : Nat) : State :=
  let x := s.lane l
  let r := s.record x.task
  if x.st.cancels then ((s.abandonWith l id).removeRec x.task).writeRecord ⟨tCANCELLED, x.pc, 0, false⟩ x.task r.f.actn r.f.gid
  else s

/-- CANCEL_REQUEST: the class-2 message reaches a core. -/
def execCancelRequest (gid lcore : Nat) (s : State) : Host.Outcome State Fault Refusal :=
  let g := s.group gid
  let hit (l : Nat) : Bool := (s.lane l).st.cancels && s.within gid (s.record (s.lane l).task).f.gid
  let ls := (s.coreLanes lcore).filter hit
  event s (g.cancelling && g.marks.contains (lcore / 2048) && s.laneOn (lcore * 8))
    ((ls.foldl (fun s l => s.cancelLane l) s).afterRemoved (ls.map (fun l => (s.lane l).task)))

/-- CANCEL_FINISH: steps 1 to 4 are done and every effect that the subtree committed is applied, and its empty completion
lines take status 2 (R109, R120, R312); the launch ends with its root group. A reserved record holds nothing up: its
SPAWN has not committed, and is discarded when it arrives (R314). -/
def execCancelFinish (gid : Nat) (s : State) : Host.Outcome State Fault Refusal :=
  let gs := s.subtree gid
  let g := s.group gid
  let left := s.k.recs.any (fun r => gs.contains r.2.f.gid && r.2.st != .ended && r.2.st != .reserved)
  let walks := s.k.combs.any (fun e => e.2.chans.any (fun c => gs.contains c.2.owner &&
    (c.2.st == .walking || c.2.st == .waiting)))
  let marked := (List.range s.npkg).all (fun p => g.marks.contains p)
  let s1 := (gs.filter (fun x => (s.group x).status == 0)).foldl (fun s x =>
    (s.sendLine x (s.group x).compl (completionLine 2 0 0 0) (s.groupKnow x)).onGroup x (fun y => { y with status := 2 })) s
  if s.isRoot gid ∧ g.status = 2 then event s (s.settledEffects gid) (s.endLaunch 1)
  else event s (s.liveGroup gid && g.cancelling && marked && !left && !walks && s.settledEffects gid) s1

/-- The nearest group above another that is not being cancelled; n bounds the depth. -/
def State.above (s : State) : Nat → Nat → Option Nat
  | 0, _ => none
  | n + 1, g => match (s.group g).parent with
    | none => none
    | some p => if (s.group p).cancelling then s.above n p else some p

/-- RECLAIM: the objects of a cancelled subtree are freed, but for those that TGCLOSE handed up, or had handed up to it, before the
cancel (R313),
which go to the nearest group above that no cancel takes (DESIGN CHOICE, log entry 69). -/
def execReclaim (gid : Nat) (s : State) : Host.Outcome State Fault Refusal :=
  let gs := s.subtree gid
  event s ((s.group gid).status == 2 && thas s.k.groups gid)
    ((s.k.objs.filter (fun e => gs.contains e.2.owner && !e.2.ret)).foldl (fun s e =>
      match s.above (s.k.groups.length + 1) e.2.owner with
      | some p =>
        if e.2.handed || e.2.kept then s.onK (fun k => { k with objs := tmap k.objs e.1 (fun x => { x with owner := p, handed := false, kept := true }) })
        else s.freeObj e.1
      | none => s.freeObj e.1) s)

end Sys2Proof.Machine
end

