-- ==== Sys2Proof/Machine/TweRun.lean ====
section
/-!
DEFINITION. The tile-walk engine at work (R240 to R243, R245, R246): starts and permits, the transfer record, its rows,
its completion, and halts.
-/

namespace Sys2Proof.Machine

/-- TWE_START: an idle or halted channel starts, another one is kicked (R243). -/
def execTweStart (id : Nat) (s : State) : Host.Outcome State Fault Refusal :=
  match s.due? id with
  | none => .next s
  | some f => match f.e.eff with
    | .twgo comb ch va =>
      if s.tagSeen f then .next (s.doneFlit id)
      else .next (((s.acceptTag f).doneFlit id).onChan comb ch (fun c => match c.st with
        | .idle | .halted => { c with
            head := va, owner := f.gid, pc := f.e.pc, task := f.task, actn := f.actn, lcore := f.lcore, err := 0, st := .walking, row := none, gate := false, pg := none, know := [] }
        | .waiting => { c with st := .walking, gate := false }
        | .walking => c))
    | _ => .next s

/-- The first permit, with what its TWPERM came after, and the others. -/
def takePermit : List (Nat × Know) → Know × List (Nat × Know)
  | [] => ([], [])
  | (n, k) :: t => (k, if n ≤ 1 then t else (n - 1, k) :: t)

/-- A channel goes on to the rows of the record that it holds; one that is gated takes a permit, the oldest, and comes after the
TWPERM that posted it (R121, R242). -/
def Chan.enter (c : Chan) : Chan :=
  let p := if trPg c.line then takePermit c.perms else ([], c.perms)
  { c with row := some 0, gate := false, st := .walking, perms := p.2, know := p.1 }

/-- n permits of a TWPERM, as far as 65,535 in all (R243). -/
def Chan.permit (c : Chan) (n : Nat) (know : Know) : Chan :=
  if min n (65535 - c.permits) = 0 then c else { c with perms := c.perms ++ [(min n (65535 - c.permits), know)] }

/-- TWE_PERMIT: permits saturate at 65,535; a channel that waits for one goes on with its record. -/
def execTwePermit (id : Nat) (s : State) : Host.Outcome State Fault Refusal :=
  match s.due? id with
  | none => .next s
  | some f => match f.e.eff with
    | .twperm comb ch n =>
      if s.tagSeen f then .next (s.doneFlit id)
      else .next (((s.acceptTag f).doneFlit id).onChan comb ch (fun c =>
        let c := c.permit n (s.knowOf f)
        if c.gate && c.permits != 0 then c.enter else c))
    | _ => .next s

/-- A reserved field that is not zero, or a reserved space code (R241, R242; DEDUCED, log entry 18). -/
def trReserved (x : Line) : Bool :=
  recBits x 60 3 != 0 || recBits x 288 32 != 0 || recBits x 483 29 != 0 || 2 < trSsp x || 2 < trDsp x ||
    (trSsp x == 2 && trSrc x / 2 ^ 49 != 0) || (trDsp x == 2 && trDst x / 2 ^ 49 != 0) ||
    (match trCk x with
    | 0 => trCa x != 0
    | 1 => trCa x / 2 ^ 50 != 0
    | _ => trCa x / 2 ^ 60 != 0)

/-- The checks of a record, with the halt code. -/
def trChk (x : Line) (doneId : Nat) : Option Nat :=
  if trReserved x || trId x < doneId then some tILLEGAL
  else if trRows x != 0 && (trRb x == 0 || trRb x % 4 != 0) then some tALIGN
  else if trMcast x != 0 && trDsp x != 2 then some tILLEGAL
  else none

/-- HALT(code): the channel stops, and a trap record is written for the owner group (R242) (DEDUCED, log entry 39). -/
def State.halt (s : State) (comb ch code : Nat) : State :=
  let c := s.chan comb ch
  (s.onChan comb ch (fun c => { c with st := .halted, err := code, row := none, gate := false })).writeRecord
    ⟨code, c.pc, BitVec.ofNat 64 c.head, false⟩ c.task c.actn c.owner

/-- Is the owner group of a channel gone? -/
def State.ownerGone (s : State) (c : Chan) : Bool := (s.group c.owner).status == 2 || (s.group c.owner).cancelling

/-- What the engine meets at n bytes of global memory. -/
inductive Reach where
  | ok (x : Obj)
  | halt (code : Nat)
  | wait (m : Missed)

/-- Presence, kernel frames, and pages, which are served at the engine's pace or fail (R242); pg is the fault that the channel has
waited for. lattice selects the space that the record names (DESIGN CHOICE, log entry 38). -/
def State.tweReach (s : State) (pg : Option Nat) (va : Int) (n : Nat) (lattice : Bool) (ok : Obj → Option Nat) : Reach :=
  let a := va.toNat
  match objAt s.k.objs a with
  | none => .halt tCAPBOUND
  | some (_, x) =>
    if va < 0 || x.ret || x.base + x.len * 4096 < a + n then .halt tCAPBOUND
    else if s.kernelAt a n then .halt tKRES
    else if (x.ty == .excl) == lattice then .halt tTYPEMIS
    else match ok x with
      | some code => .halt code
      | none => match (s.firstUnmapped a n).bind (fun b => s.unmapped? b) with
        | some m =>
          if s.failedFor pg m then .halt tPAGEFAULT else .wait m
        | none => .ok x

/-- The same for a read, which poison halts; effects on a poisoned line are judged at their home (R327). -/
def State.tweRead (s : State) (pg : Option Nat) (va : Int) (n : Nat) (lattice : Bool) (ok : Obj → Option Nat) : Reach :=
  match s.tweReach pg va n lattice ok with
  | .ok x => if s.poisonedAt va.toNat n then .halt tUNCORR else .ok x
  | r => r

/-- A channel waits for a page, which is being served (R292). -/
def State.chanPage (s : State) (comb ch : Nat) (m : Missed) : State :=
  (s.onChan comb ch (fun c => { c with pg := some (s.faultIdx m) })).postFault m

/-- TWE_RECORD_READ: the record at HEAD is read and checked. The owner group owns its object; a HEAD that NEXT gave and that is
not aligned to 64 halts with ALIGN (R241, R242; DESIGN CHOICE, log entry 38). -/
def execTweRecordRead (comb ch : Nat) (s : State) : Host.Outcome State Fault Refusal :=
  let c := s.chan comb ch
  let on := c.st == .walking && c.row.isNone && s.combRuns comb && !s.engineMuted comb (comb * 8 + ch)
  if s.ownerGone c then event s on (s.onChan comb ch (fun c => { c with st := .halted }))
  else match s.tweRead c.pg c.head 64 false (fun x => if x.owner ≠ c.owner then some tEXCLOWN else if c.head % 64 ≠ 0 then some tALIGN else none) with
    | .halt code => event s on (s.halt comb ch code)
    | .wait m => event s on (s.chanPage comb ch m)
    | .ok _ =>
      let x : Line := BitVec.ofNat 512 (ofBytes (s.readV c.head 64))
      let stay : State := s.onChan comb ch (fun c => { c with st := .waiting, since := s.cyc })
      event s on ((if !trO x then stay
        else match trChk x c.doneId with
          | some code => s.halt comb ch code
          | none =>
            if trPg x && c.permits == 0 then s.onChan comb ch (fun c => { c with st := .waiting, line := x, gate := true })
            else s.onChan comb ch (fun c => { c with line := x }.enter)).fetched c.lcore c.head)

/-- TWE_POLL: after 4,096 cycles a channel that found O clear reads its record again. -/
def execTwePoll (comb ch : Nat) (s : State) : Host.Outcome State Fault Refusal :=
  let c := s.chan comb ch
  event s (c.st == .waiting && c.row.isNone && !c.gate && c.since + 4096 ≤ s.cyc && s.combRuns comb)
    (if s.ownerGone c then s.onChan comb ch (fun c => { c with st := .halted })
    else s.onChan comb ch (fun c => { c with st := .walking }))

/-! Rows. -/

/-- Fields of a scratchpad operand: offset and logical core. -/
def spOff (x : Nat) : Nat := x % 2 ^ 20
def spCore (x : Nat) : Nat := x / 2 ^ 20 % 2 ^ 29

/-- Destination cores: the named one, or the core at its position in each marked comb of its die (R242). -/
def trCores (x : Line) : List Nat :=
  let l := spCore (trDst x)
  if trMcast x = 0 then [l]
  else ((List.range 64).filter (fun j => (trMcast x).testBit j)).map (fun j => l / 256 * 256 + j * 4 + l % 4)

/-- Does a range lie inside a core's scratchpad? -/
def State.spOk (s : State) (off : Int) (n : Nat) : Bool := decide (0 ≤ off ∧ off.toNat + n ≤ s.scratchSize)

/-- Lines of a fill source that the engine still waits for, and lines at top (R242). -/
def State.lineStates (s : State) (va n : Nat) : List (FillSt × Bool) :=
  (List.range ((va + n + 63) / 64 - va / 64)).map (fun (i : Nat) => match s.phys? ((va / 64 + i) * 64) with
    | some a => (s.mem.lineAt a, s.mem.capped.contains (a / 4096))
    | none => (.empty, false))

/-- The bytes of a source row, a halt code, or a wait. -/
inductive Got where
  | bytes (d : List Byte)
  | halt (code : Nat)
  | wait (m : Option Missed)

/-- The source row. -/
def State.tweSrc (s : State) (comb : Nat) (c : Chan) (r : Nat) : Got :=
  let x := c.line
  let n := trRb x
  if trSsp x = 2 then
    let off : Int := spOff (trSrc x) + r * trSstr x
    let l := spCore (trSrc x)
    if l / 4 ≠ comb ∨ !s.spOk off n then .halt tCAPBOUND
    else if s.scratchBad l off.toNat n then .halt tUNCORR
    else .bytes (s.scratch l off.toNat n)
  else
    let va : Int := trSrc x + r * trSstr x
    let a := va.toNat
    let ok (o : Obj) : Option Nat :=
      if o.ty = .excl then (if o.owner ≠ c.owner then some tEXCLOWN else none)
      else if (o.ty == .fill && trWf x) || s.rangeCapped a n then none
      else some tNOTCAPPED
    match s.tweRead c.pg va n (trSsp x == 1) ok with
    | .halt code => .halt code
    | .wait m => .wait (some m)
    | .ok o =>
      let ls := if o.ty = .fill then s.lineStates a n else []
      if ls.any (fun y => y.1 == .top) then .halt tFILLCONF
      else if trWf x && ls.any (fun y => y.1 == .empty && !y.2) then .wait none
      else .bytes (s.readV a n)

/-- What the engine sends next, a halt code, or a wait. -/
inductive Aim where
  | send (l : List PayTo)
  | halt (code : Nat)
  | wait (m : Missed)

/-- Bytes cut at the lines of memory; n bounds the pieces. -/
def lineParts : Nat → Nat → List Byte → List (Nat × List Byte)
  | _, _, [] => []
  | 0, _, _ => []
  | n + 1, va, x :: d =>
    let k := 64 - va % 64
    (va, (x :: d).take k) :: lineParts n (va + k) ((x :: d).drop k)

/-- A row's payload, by destination (R242). A destination core that is outside the channel's package or at or above
LCOUNT halts with CAPBOUND (DESIGN CHOICE, log entry 88). -/
def State.tweDst (s : State) (comb : Nat) (c : Chan) (r : Nat) (d : List Byte) : Aim :=
  let x := c.line
  let n := trRb x
  if trDsp x = 2 then
    let off : Int := spOff (trDst x) + r * trDstr x
    let cores := trCores x
    if cores.any (fun l => l / 2048 != comb / 512 || s.lcount ≤ l) || !s.spOk off n then .halt tCAPBOUND
    else if trFj x then .halt tTYPEMIS
    else .send (cores.map (fun l => .scratch l (storeWords off.toNat d) true false))
  else
    let va : Int := trDst x + r * trDstr x
    let a := va.toNat
    let ok (o : Obj) : Option Nat :=
      if o.ty = .excl then (if o.owner ≠ c.owner then some tEXCLOWN else if trFj x then some tTYPEMIS else none)
      else if (o.ty != .fill && o.ty != .lap) || !trFj x then some tTYPEMIS
      else if n % 64 ≠ 0 ∨ a % 64 ≠ 0 then some tALIGN
      else none
    match s.tweReach c.pg va n (trDsp x == 1) ok with
    | .halt code => .halt code
    | .wait m => .wait m
    | .ok _ => .send ((lineParts n a d).map (fun p => .mem p.1 p.2))

/-- A channel that waits inside a record, where nothing but its own progress halts it (R245; DEDUCED, log entry 24). -/
def State.chanWait (s : State) (comb ch : Nat) (m : Option Missed) : State :=
  let t := s.onChan comb ch (fun c => { c with st := .waiting })
  match m with
  | some m => t.chanPage comb ch m
  | none => t

/-- Payload flits of a channel, with the PC and TASK of its TWGO (R242, R344). -/
def State.tweSend (s : State) (comb ch : Nat) (l : List PayTo) : State :=
  let c := s.chan comb ch
  l.foldl (fun s p => s.send ⟨.payload comb ch p, .relaxed, c.pc, 0, 0, c.know⟩ c.task c.actn c.owner c.lcore) s

/-- Does payload go to n bytes at an offset of a core's scratchpad, or of memory? -/
def Eff.paysTo (e : Eff) (core : Option Nat) (a n : Nat) : Bool :=
  match e, core with
  | .payload _ _ (.scratch l ws ..), some k => l == k && ws.any (fun w => meets a n w.1 4)
  | .payload _ _ (.mem va d), none => meets a n va d.length
  | _, _ => false

/-- Does payload of a channel that has not landed meet n bytes? -/
def State.payMeets (s : State) (comb ch : Nat) (core : Option Nat) (a n : Nat) : Bool :=
  s.k.flits.any (fun f => f.payloadOf comb ch && f.pending && f.e.eff.paysTo core a n) ||
    s.k.sideLog.any (fun g => g.f.payloadOf comb ch && g.f.e.eff.paysTo core a n)

/-- Must a row wait for an earlier one to land, because it reads or writes bytes of it (R242)? -/
def State.rowWaits (s : State) (comb ch r : Nat) : Bool :=
  let x := (s.chan comb ch).line
  let n := trRb x
  let at' (base : Nat) (str : Int) : Nat := ((base : Int) + r * str).toNat
  (if trSsp x = 2 then s.payMeets comb ch (some (spCore (trSrc x))) (at' (spOff (trSrc x)) (trSstr x)) n
    else s.payMeets comb ch none (at' (trSrc x) (trSstr x)) n) ||
  if trDsp x = 2 then (trCores x).any (fun l => s.payMeets comb ch (some l) (at' (spOff (trDst x)) (trDstr x)) n)
  else s.payMeets comb ch none (at' (trDst x) (trDstr x)) n

/-- A payload flit at its destination: words of a scratchpad, some at a time, once its comb runs (R24, R59), bytes of memory as
any effect there. -/
def State.payloadLand (s : State) (f : Flit) : Option State :=
  match f.e.eff with
  | .payload comb ch (.scratch l ws full _) =>
    if s.combRuns (l / 4) then some (s.land f.id l ws full f.e.know (fun r => .payload comb ch (.scratch l r full true))) else none
  | .payload _ _ (.mem ..) => some ((s.atHome f).doneFlit f.id)
  | _ => none

/-- Takes what the engine sends: the row moves on by one, and the channel walks. -/
def State.tweGo (s : State) (comb ch r : Nat) : Aim → State
  | .send l => (s.tweSend comb ch l).onChan comb ch (fun c => { c with row := some (r + 1), st := .walking, pg := none })
  | .halt code => s.halt comb ch code
  | .wait m => s.chanWait comb ch (some m)

/-- Sends the next row of the record at work. -/
def State.tweRow (s : State) (comb ch r : Nat) : State :=
  let c := s.chan comb ch
  match s.tweSrc comb c r with
  | .halt code => s.halt comb ch code
  | .wait m => s.chanWait comb ch m
  | .bytes d =>
    let t := s.tweGo comb ch r (s.tweDst comb c r d)
    if trSsp c.line = 2 then t else t.fetched c.lcore ((trSrc c.line : Int) + r * trSstr c.line).toNat

/-- TWE_PAYLOAD_WRITE: with a number, that payload lands, be it late after it was given up (R345); rows land in any order, word by
word (R59). With none, the next row is read and sent. -/
def execTwePayloadWrite (comb : Nat) (what : PayStep) (s : State) : Host.Outcome State Fault Refusal :=
  let ch := what.ch
  let c := s.chan comb ch
  match what.id with
  | some n => match s.flit? n with
    | some f => event s (f.payloadOf comb ch && !f.done && !f.stop && !s.mutedFlit f) ((s.payloadLand f).getD s)
    | none => .next s
  | none => match c.row with
    | none => .next s
    | some r =>
      event s (c.moving && decide (r < trRows c.line) && s.combRuns comb && !s.rowWaits comb ch r &&
        (trSsp c.line == 2 || !s.engineMuted comb (comb * 8 + ch))) (s.tweRow comb ch r)

/-! Completion. -/

/-- What the completion action sends (R241, R242). -/
def State.tweAction (s : State) (c : Chan) : Aim :=
  let x := c.line
  let joined (t : LTy) (v : Nat) : Aim :=
    let va : Nat := trCa x % 2 ^ 60
    match s.tweReach c.pg (va : Int) 4 true (fun o => if o.ty ≠ t ∨ o.wc ≠ .w32 then some tTYPEMIS
        else if va % 4 ≠ 0 then some tALIGN else none) with
    | .halt code => .halt code
    | .wait m => .wait m
    | .ok _ => .send [.mem va (toBytes v 4)]
  match trCk x with
  | 0 => .send []
  | 1 =>
    let cores := if trDsp x = 2 then trCores x else [c.lcore]
    if !s.spOk (4 * (trCa x % 2 ^ 18) : Nat) 4 || cores.any (fun l => s.lcount ≤ l) then .halt tCAPBOUND
    else .send (cores.map (fun l => .scratch l [(4 * (trCa x % 2 ^ 18), toBytes (trCa x / 2 ^ 18 % 2 ^ 32) 4)] false false))
  | 2 => joined .maxn (trId x)
  | _ => joined .union (2 ^ (trId x % 32))

/-- Clears O of the record at HEAD: bit 63 of its first quadword. -/
def State.clearO (s : State) (va : Nat) : State :=
  s.putData (va + 7) (toBytes (ofBytes (s.readV (va + 7) 1) % 128) 1)

/-- The record is complete: DONEID, O, and the next record; waiters whose id has passed wake (R242, R245). -/
def State.tweNext (s : State) (comb ch : Nat) : State :=
  let c := s.chan comb ch
  let x := c.line
  let next := trNext x
  ((s.clearO c.head).onChan comb ch (fun c => { c with
    doneId := trId x + 1, done := c.done ++ [(trId x, c.know)], know := [], row := none, pg := none, st := if next = 0 then .idle else .walking
    head := if next = 0 then c.head else next })).judgeChan comb ch

/-- TWE_TRANSFER_DONE: once the last payload has landed the completion action is sent, and once that has landed the record is
complete. -/
def execTweTransferDone (comb ch : Nat) (s : State) : Host.Outcome State Fault Refusal :=
  let c := s.chan comb ch
  let rows := trRows c.line
  let on := c.moving && !s.paying comb ch && !s.loggedPayload comb ch && s.combRuns comb
  if trCk c.line ≠ 0 ∧ c.row = some rows then event s on (s.tweGo comb ch rows (s.tweAction c))
  else event s (s.chanEnds comb ch c && s.combRuns comb) (s.tweNext comb ch)

end Sys2Proof.Machine
end

