-- ==== Sys2Proof/Machine/ArrayRun.lean ====
section
/-!
DEFINITION. The array's own steps: granting and ending leases (R228), the slot table (R297), the end of tile loads and of
commands (R232, R238, R239), and time slices (R24).
-/

namespace Sys2Proof.Machine

/-- The owner of a comb's slot: a core position, or 4 for a free slot (R228). -/
def State.slotOwner (s : State) (c : CombSt) : Nat := s.k.slotNow.toNat / 8 ^ c.slot % 8

/-- Core positions with a stalled TLEASE. -/
def CombSt.askers (c : CombSt) : List Nat := c.asking.map (fun l => l / 8 % 4)

/-- The first of the positions from r upwards, modulo 4, that asks. -/
def firstAsker (ask : List Nat) (r : Nat) : Option Nat := ((List.range 4).map (fun j => (r + j) % 4)).find? ask.contains

/-- LEASE_GRANT (R228). -/
def execLeaseGrant (comb : Nat) (s : State) : Host.Outcome State Fault Refusal :=
  let c := s.comb comb
  let free := s.slotOwner c == 4
  let who := if free then firstAsker c.askers c.rr else c.askers.find? (fun k => k == s.slotOwner c)
  match who with
  | none => .next s
  | some k => event s (c.lease.isNone && c.queue.isEmpty && s.slotUsed c < 2048 && s.combRuns comb)
      (s.onComb comb (fun c => { c with
        lease := some ⟨k, 64, none, []⟩, rr := if free then (k + 1) % 4 else c.rr, buf0 := Buf.init, buf1 := Buf.init }))

/-- A lease ends: at once when nothing is queued, else it takes no further command. -/
def CombSt.endLease (c : CombSt) : CombSt :=
  { c with lease := if c.queue.isEmpty then none else c.lease.map (fun x => { x with left := 0 }) }

/-- A comb's slots move on by the array cycles that it has used. -/
def CombSt.roll (c : CombSt) (used now : Nat) : CombSt :=
  { c with slot := (c.slot + used / 2048) % 16, used := used % 2048, since := c.since.map (fun _ => now) }

/-- SLOT_END: the slot's lease ends with it. A slot of a comb that shares its host ends with its slice (R24). -/
def execSlotEnd (comb : Nat) (s : State) : Host.Outcome State Fault Refusal :=
  let u := s.slotUsed (s.comb comb)
  event s (decide (2048 ≤ u) && decide (comb < 512 * s.npkg) && !s.sharedComb comb) (s.onComb comb (fun c => (c.roll u s.cyc).endLease))

/-- The period of 32,768 cycles of the launch (DEDUCED, log entry 46). -/
def State.period32k (s : State) : Nat :=
  match s.k.launch with
  | some l => (s.cyc - l.cyc0) / 32768
  | none => 0

/-- SLOTTAB_APPLY: at the next boundary of the period, or at once when no launch runs (R297). -/
def execSlottabApply (s : State) : Host.Outcome State Fault Refusal :=
  match s.k.slotPend with
  | none => .next s
  | some p => event s (s.k.launch.isNone || p < s.period32k)
      (s.onK (fun k => { k with slotNow := k.slottab, slotPend := none }))

/-- The first bad slot of a tile, counted from i (Table 3-8). -/
def badSlotFrom : Nat → List (List Byte) → Option Nat
  | _, [] => none
  | i, x :: t => if slotBad (x.map BitVec.toNat) then some i else badSlotFrom (i + 1) t

/-- The condition of a buffer whose load from va ends, and its bytes (DEDUCED, log entry 47). -/
def State.judgeTile (s : State) (va : Nat) (box : List Entry) : Buf :=
  match s.firstUnmapped va 8192 with
  | some a => ⟨.faulted a, []⟩
  | none =>
    let d := overlay va (s.readV va 8192) box
    if s.kernelAt va 8192 then ⟨.bad tKRES va, []⟩
    else if s.poisonedAt va 8192 then ⟨.bad tUNCORR va, []⟩
    else if s.anyTop va 8192 then ⟨.bad tFILLCONF va, []⟩
    else match badSlotFrom 0 (chunks 64 128 d) with
      | some i => ⟨.bad tTRITBYTE (va + 64 * i), []⟩
      | none => ⟨.loaded, d⟩

/-- The first command on the load path. -/
def CombSt.loadHead (c : CombSt) : Option ArrCmd := c.queue.find? (fun q => q.load)

/-- TLDW_LOAD_END: the lane's earlier stores are seen, those of its outbox and those on their way (R214). -/
def execTldwLoadEnd (comb : Nat) (buf : Bool) (s : State) : Host.Outcome State Fault Refusal :=
  let c := s.comb comb
  match c.loadHead, (c.bufOf buf).st with
  | some q, .loading va =>
    let box := match q.lane with
      | some l => (s.lane l).box.take q.sees
      | none => []
    event s (q.buf == some buf && q.pend.isNone && !s.readHeld q.task va 8192 && s.combRuns comb && !s.engineMuted comb (2 ^ 64 + comb))
      ((s.onComb comb (fun c => c.setBuf buf (s.judgeTile va box))).fetched (4 * comb) va)
  | _, _ => .next s

/-- The tile that a command reads, once it is loaded; of a command without one, nothing. -/
def CombSt.tileOf (c : CombSt) (q : ArrCmd) : Option (List Byte) :=
  match q.buf with
  | none => some []
  | some b => if (c.bufOf b).st = .loaded then some (c.bufOf b).data else none

/-- May a command go on or end, behind some others: its load has ended, or its work is done, or it waits for no tile and finds it
good, or nobody's lane waits for it (R233, R238)? -/
def CombSt.canMove (c : CombSt) (before : List ArrCmd) (q : ArrCmd) : Bool :=
  !(q.load && (c.loadingBuf q.buf || q.pend.isSome)) && (q.job.isNone || (!c.tileWaits before q && ((c.tileOf q).isSome || q.lane.isNone)))

/-- The place of the next command to move: the first one on each path may, the compute path's before the load path's when
it stands earlier. -/
def CombSt.nextMove (c : CombSt) : Option Nat :=
  (List.range c.queue.length).find? (fun (i : Nat) => match c.queue[i]? with
    | some q => !(c.queue.take i).any (fun p => p.load == q.load) && c.canMove (c.queue.take i) q
    | none => false)

/-- Gives the command at a place another job. -/
def CombSt.setJob (c : CombSt) (i : Nat) (j : Option Job) : CombSt :=
  { c with queue := match c.queue[i]? with
    | some q => lset c.queue i { q with job := j }
    | none => c.queue }

/-- A piece of the command at place i is done, and its lane's activation takes what comes of it. Of a command whose activation has
been abandoned nobody does, and one that finds no good tile does nothing (R238) (DEDUCED, log entry 29). -/
def State.movePiece (s : State) (comb i : Nat) (q : ArrCmd) (j : Job) : State :=
  match (s.comb comb).tileOf q with
  | none => s.onComb comb (fun c => c.setJob i none)
  | some data =>
    let p := s.piece data j
    let t := p.s.onComb comb (fun c => c.setJob i (p.rest.toOption.join))
    match q.lane with
    | some l => (t.focusLane l).takePiece q.pc p
    | none => t

/-- The command at place i has ended: a lease that takes no further command ends with the last one, a released lease with the
last one that TREL found (R228, R229) (DEDUCED, log entry 27). -/
def CombSt.settleLease (c : CombSt) (i : Nat) : CombSt :=
  { c with lease := match c.lease with
    | some x =>
      let n := x.ending.map (fun n => if i < n then n - 1 else n)
      if n == some 0 || (c.queue.isEmpty && x.left == 0) then none else some { x with ending := n }
    | none => none }

/-- The first TLDW of some commands that waits for its buffer while none before it names that (R232): the buffer, the VA, and the
commands once it has started. -/
def startLoads (before : List ArrCmd) : List ArrCmd → Option (Bool × Nat × List ArrCmd)
  | [] => none
  | q :: t =>
    let later := (startLoads (before ++ [q]) t).map (fun r => (r.1, r.2.1, q :: r.2.2))
    match q.pend, q.buf with
    | some va, some b => if before.any (fun p => p.buf == some b) then later else some (b, va, { q with pend := none } :: t)
    | _, _ => later

/-- A waiting TLDW starts, if one may. -/
def CombSt.startLoad (c : CombSt) : CombSt :=
  match startLoads [] c.queue with
  | some (b, va, l) => { c with queue := l }.setBuf b ⟨.loading va, []⟩
  | none => c

/-- ARRAY_COMMAND_END: the next command does a piece of its work or, once nothing is left, ends (R239). -/
def execArrayCommandEnd (comb : Nat) (s : State) : Host.Outcome State Fault Refusal :=
  let c := s.comb comb
  match c.nextMove.bind (fun i => (c.queue[i]?).map (fun q => (i, q))) with
  | none => .next s
  | some (i, q) => event s (s.combRuns comb) (match q.job with
    | some j => s.movePiece comb i q j
    | none => s.onComb comb (fun c => ({ c with queue := ldrop c.queue i }.settleLease i).startLoad))

/-! Time slices. -/

/-- The logical combs that a physical comb serves for the context in focus (R23, R278). -/
def State.served (s : State) (pkg phys : Nat) : List Nat :=
  (List.range s.npkg).flatMap (fun (q : Nat) =>
    if lget s.pkgmap q 0 = pkg then
      ((List.range 512).map (fun (c : Nat) => q * 512 + c)).filter (fun c => s.placeOf c == (pkg, phys))
    else [])

/-- The comb after x in a list, the first one after the last. -/
def nextIn (l : List Nat) (x : Nat) : Nat :=
  match l.filter (fun y => decide (x < y)) with
  | y :: _ => y
  | [] => l.headD x

/-- TIME_SLICE_SWITCH: at a slot boundary the next logical comb takes its slice; a lease ends at the switch (R24). -/
def execTimeSliceSwitch (site : Site) (s : State) : Host.Outcome State Fault Refusal :=
  let l := s.served site.pkg (site.die * 64 + site.comb)
  match l.find? (fun c => (s.comb c).since.isSome) with
  | none => event s (!l.isEmpty) (s.onComb (l.headD 0) (fun c => { c with since := some s.cyc }))
  | some x =>
    let u := s.slotUsed (s.comb x)
    let y := nextIn l x
    event s (decide (2 ≤ l.length) && decide (2048 ≤ u))
      ((s.onComb x (fun c => { c.roll u s.cyc with since := none }.endLease)).onComb y (fun c => { c with since := some s.cyc }))

end Sys2Proof.Machine
end

