-- ==== Sys2Proof/Machine/Capability.lean ====
section
/-!
DEFINITION. Majors 0x05 and 0x10: capabilities (R160, R161).
-/

namespace Sys2Proof.Machine

/-- Writes a capability register. -/
def opC (i : Instr) (d : CReg) (x : Cap) (s : State) : Host.Outcome State Fault Refusal :=
  issue i s (.ok (fun t => t.wC d x))

/-- c with another cursor. -/
def withCursor (c : Cap) (t : Nat) : Cap := mkCap t (capOid c) (capRights c) (capWoff c) (capWlen c)

def execCmov (d : CReg) (a : CSrc) (s : State) := opC (.cmov d a) d (s.rC a.r) s

/-- CURSOR + inc; a cursor of 2^60 or more raises CAPBOUND. -/
def incCursor (c : Cap) (inc : Word) : Option Cap :=
  let t := (BitVec.ofNat 64 (capCursor c) + inc).toNat
  if 2 ^ 60 ≤ t then none else some (withCursor c t)

/-- CINC and CINCI. They access no memory, so VA is 0, as it is for CBOUND and CRIGHTS (DESIGN CHOICE, log entry 95). -/
def opInc (i : Instr) (d : CReg) (c : Cap) (inc : Word) (s : State) : Host.Outcome State Fault Refusal :=
  issue i s (match incCursor c inc with
    | some x => .ok (fun t => t.wC d x)
    | none => .trap tCAPBOUND 0)

def execCinc (d : CReg) (a : CSrc) (b : SSrc) (s : State) := opInc (.cinc d a b) d (s.rC a.r) (s.rS b.r) s
def execCinci (d : CReg) (a : CSrc) (imm : BitVec 12) (s : State) := opInc (.cinci d a imm) d (s.rC a.r) (sext imm) s

/-- The narrower window of R161: the new capability, or the trap. len is the object's length in 4 KiB units. -/
def boundTo (c : Cap) (len x : Nat) : Except Nat Cap :=
  if !capHas c rD then .error tCAPRIGHT
  else if 2 ^ 36 ≤ x then .error tCAPBOUND
  else
    let nwoff := x % 2 ^ 20
    let nwlen := x / 2 ^ 20
    let oldend := if capWlen c = 0 then len else min (capWoff c + capWlen c) len
    let newend := if nwlen = 0 then len else nwoff + nwlen
    if nwoff < capWoff c ∨ oldend < newend then .error tCAPBOUND
    else .ok (mkCap (capCursor c) (capOid c) (capRights c) nwoff nwlen)

def execCbound (d : CReg) (a : CSrc) (b : SSrc) (s : State) : Host.Outcome State Fault Refusal :=
  issue (.cbound d a b) s (match s.obj? (capOid (s.rC a.r)) with
    | none => .trap tCAPBOUND 0
    | some x => match boundTo (s.rC a.r) x.len (s.rS b.r).toNat with
      | .error c => .trap c 0
      | .ok y => .ok (fun t => t.wC d y))

def execCrights (d : CReg) (a : CSrc) (b : SSrc) (s : State) : Host.Outcome State Fault Refusal :=
  let c := s.rC a.r
  issue (.crights d a b) s (if capHas c rD then
      .ok (fun t => t.wC d (mkCap (capCursor c) (capOid c) (capRights c &&& (s.rS b.r).toNat % 256) (capWoff c) (capWlen c)))
    else .trap tCAPRIGHT 0)

/-- Field k of a capability: CURSOR, OID, RIGHTS, WOFF, WLEN. -/
def capField (c : Cap) (k : Nat) : Nat :=
  match k with
  | 0 => capCursor c | 1 => capOid c | 2 => capRights c | 3 => capWoff c | _ => capWlen c

def execCget (d : SReg) (a : CSrc) (k : Fin 64) (s : State) : Host.Outcome State Fault Refusal :=
  issue (.cget d a k) s (.ok (fun t => t.wS d (BitVec.ofNat 64 (capField (s.rC a.r) k.val))))

/-- 1 when s[B] bytes at CURSOR pass the bounds check of R37. -/
def execCtest (d : SReg) (a : CSrc) (b : SSrc) (s : State) : Host.Outcome State Fault Refusal :=
  let c := s.rC a.r
  issue (.ctest d a b) s (.ok (fun t =>
    t.wS d (if (s.boundsOf c (capCursor c) (s.rS b.r).toNat).isSome then 1 else 0)))

end Sys2Proof.Machine
end

