-- ==== Sys2Proof/Machine/Control.lean ====
section
/-!
DEFINITION. Majors 0x16 to 0x1D: branches, jumps, LOOP, SIG, NOP (R162 to R166), YIELD and END (R254).
-/

namespace Sys2Proof.Machine

/-- A conditional branch to PC + SEXT(OFF) * 4. -/
def opB (i : Instr) (off : BitVec 15) (taken : Bool) (s : State) : Host.Outcome State Fault Refusal :=
  issue i s (.jump (if taken then s.ln.pc + sext off * 4 else s.ln.pc + 4) taken id)

def execBeqz (a : SSrc) (off : BitVec 15) (s : State) := opB (.beqz a off) off (s.rS a.r == 0) s
def execBnez (a : SSrc) (off : BitVec 15) (s : State) := opB (.bnez a off) off (s.rS a.r != 0) s
def execBltz (a : SSrc) (off : BitVec 15) (s : State) := opB (.bltz a off) off ((s.rS a.r).slt 0) s
def execBgez (a : SSrc) (off : BitVec 15) (s : State) := opB (.bgez a off) off (!(s.rS a.r).slt 0) s
def execBgtz (a : SSrc) (off : BitVec 15) (s : State) := opB (.bgtz a off) off ((0 : Word).slt (s.rS a.r)) s
def execBlez (a : SSrc) (off : BitVec 15) (s : State) := opB (.blez a off) off (!(0 : Word).slt (s.rS a.r)) s

def execJ (off : BitVec 25) (s : State) : Host.Outcome State Fault Refusal :=
  issue (.j off) s (.jump (s.ln.pc + sext off * 4) true id)
/-- Links s63. -/
def execJal (off : BitVec 25) (s : State) : Host.Outcome State Fault Refusal :=
  issue (.jal off) s (.jump (s.ln.pc + sext off * 4) true (fun t => t.wS 63 (s.ln.pc + 4)))
/-- Reads s[A] before it writes the link. -/
def execJalr (d : SReg) (a : SSrc) (imm : BitVec 12) (s : State) : Host.Outcome State Fault Refusal :=
  issue (.jalr d a imm) s (.jump (s.rS a.r + sext imm) true (fun t => t.wS d (s.ln.pc + 4)))
/-- t = s[A] - 1 is written and decides the branch. -/
def execLoop (a : SReg) (off : BitVec 15) (s : State) : Host.Outcome State Fault Refusal :=
  let x := s.rS a - 1
  issue (.loop a off) s (.jump (if x ≠ 0 then s.ln.pc + sext off * 4 else s.ln.pc + 4) (x != 0) (fun t => t.wS a x))

/-- SIG: Lane.endBlock does its work when it retires. -/
def execSig (v : BitVec 20) (s : State) : Host.Outcome State Fault Refusal := issue (.sig v) s (.ok id)
def execNop (s : State) : Host.Outcome State Fault Refusal := issue .nop s (.ok id)

def execYield (s : State) : Host.Outcome State Fault Refusal := issue .yield s (.ok (fun t => t.suspend .yield))
def execEnd (s : State) : Host.Outcome State Fault Refusal := issue .endOp s (.ok (fun t => t.suspend .finish))

end Sys2Proof.Machine
end

