-- ==== Sys2Proof/Machine/FloatOps.lean ====
section
/-!
DEFINITION. Major 0x04: FP32 scalar arithmetic (R158, R159).
-/

namespace Sys2Proof.Machine

/-- Bits [31:0] of a source as a value. -/
def State.fS (s : State) (a : SReg) : FVal := unpackF fmtF32 ((s.rS a).toNat % 2 ^ 32)
def State.lowS (s : State) (a : SReg) : Nat := (s.rS a).toNat % 2 ^ 32

/-- Writes a result and sets its flags. -/
def opF (i : Instr) (d : SReg) (r : FRes) (s : State) : Host.Outcome State Fault Refusal :=
  issue i s (.ok (fun t => (t.raiseFpc r.2).wS d (BitVec.ofNat 64 r.1)))

def execFadd (d : SReg) (a b : SSrc) (s : State) := opF (.fadd d a b) d (addV fmtF32 s.fpcMode (s.fS a.r) (s.fS b.r)) s
def execFsub (d : SReg) (a b : SSrc) (s : State) :=
  opF (.fsub d a b) d (addV fmtF32 s.fpcMode (s.fS a.r) (s.fS b.r).negate) s
def execFmul (d : SReg) (a b : SSrc) (s : State) := opF (.fmul d a b) d (mulF fmtF32 s.fpcMode (s.fS a.r) (s.fS b.r)) s
/-- One rounding; the old destination is the addend. -/
def execFma (d : SReg) (a b : SSrc) (s : State) :=
  opF (.fma d a b) d (fmaF fmtF32 s.fpcMode (s.fS a.r) (s.fS b.r) (s.fS d)) s
def execFdiv (d : SReg) (a b : SSrc) (s : State) := opF (.fdiv d a b) d (divF fmtF32 s.fpcMode (s.fS a.r) (s.fS b.r)) s
def execFsqrt (d : SReg) (a : SSrc) (rm : RSel) (s : State) :=
  opF (.fsqrt d a rm) d (sqrtF fmtF32 (s.rmode rm) (s.fS a.r)) s
def execFmin (d : SReg) (a b : SSrc) (s : State) := opF (.fmin d a b) d (minmaxF fmtF32 false (s.lowS a.r) (s.lowS b.r)) s
def execFmax (d : SReg) (a b : SSrc) (s : State) := opF (.fmax d a b) d (minmaxF fmtF32 true (s.lowS a.r) (s.lowS b.r)) s
def execFcmp (d : SReg) (a b : SSrc) (s : State) := opF (.fcmp d a b) d (relF fmtF32 (s.lowS a.r) (s.lowS b.r)) s
/-- To i64, all 64 bits written. -/
def execFcvti (d : SReg) (a : SSrc) (rm : RSel) (s : State) :=
  opF (.fcvti d a rm) d (toIntF (s.rmode rm) false 64 (s.fS a.r)) s
/-- From i64 in all of s[A]. -/
def execIcvtf (d : SReg) (a : SSrc) (rm : RSel) (s : State) :=
  opF (.icvtf d a rm) d (roundV fmtF32 (s.rmode rm) (intV (s.rS a.r).toInt)) s
def execFclass (d : SReg) (a : SSrc) (s : State) := opF (.fclass d a) d (classF fmtF32 (s.lowS a.r), 0) s

end Sys2Proof.Machine
end

