-- ==== Sys2Proof/Machine/Links.lean ====
section
/-!
DEFINITION. Effects on the links: acknowledgement, resends and LINKLOST (R344, R345), merging and splitting of joins
(R46, R343), and the Krytay ports (R340 to R342).
-/

namespace Sys2Proof.Machine

/-- Effects that a home acknowledges and that LINKLOST may give up (R344); the others are never lost (R345), or do not leave their
comb (DEDUCED, log entry 49). -/
def acked : Eff → Bool
  | .join .. | .store .. | .storeCap .. | .cap .. | .payload .. | .spawn .. | .msg _ | .cancel _ => true
  | _ => false

/-- Is an effect a part of a merged flit? -/
def State.partOf (s : State) (id : Nat) : Bool := s.k.flits.any (fun g => g.merged && g.parts.contains id)

/-- Tasks of an effect: its own, and those of the constituents of a merged one. -/
def State.tasksOf (s : State) (f : Flit) : List Nat :=
  f.task :: (s.k.flits.filter (fun g => f.parts.contains g.id)).map (fun g => g.task)

/-- An effect of ended records is settled: the 100 us of R93 begin anew. -/
def State.restamp (s : State) (tasks : List Nat) : State :=
  s.onK (fun k => { k with recs := k.recs.map (fun e =>
    if tasks.contains e.1 ∧ e.2.st = .ended then (e.1, { e.2 with doneAt := some s.time }) else e) })

/-- An effect's flit, and the constituents of a merged one, go. -/
def State.dropFlit (s : State) (f : Flit) : State :=
  (s.onK (fun k => { k with flits := k.flits.filter (fun g => g.id != f.id && !f.parts.contains g.id) })).restamp (s.tasksOf f)

/-- The home's acknowledgements of a flit, or of each of its constituents, have left it (R344). -/
def State.acksSent (s : State) (f : Flit) : State := if acked f.e.eff then (s.constituents f).foldl State.ackSent s else s

/-- JOIN_ACK: an applied, logged or dropped effect is acknowledged; a constituent only with its merged flit. -/
def execJoinAck (id : Nat) (s : State) : Host.Outcome State Fault Refusal :=
  match s.flit? id with
  | none => .next s
  | some f => event s (f.done && !s.partOf id) ((s.acksSent f).dropFlit f)

/-- Times of the resends after the first send, in ns. -/
def resendAt (n : Nat) : Nat := if n = 0 then 2000 else if n = 1 then 6000 else 14000

/-- An effect's flit is sent once more (R344, R345). -/
def State.resend (s : State) (f : Flit) : State :=
  { s.onFlit f.id (fun f => { f with resends := f.resends + 1 }) with hw := s.wired f }

/-- JOIN_RESEND: the requester sends an unacknowledged effect again, unchanged. -/
def execJoinResend (id : Nat) (s : State) : Host.Outcome State Fault Refusal :=
  match s.flit? id with
  | none => .next s
  | some f => event s (acked f.e.eff && !f.lost && decide (f.resends < 3) && !s.partOf id && decide (f.t0 + resendAt f.resends ≤ s.time))
      (s.resend f)

/-- An effect is given up: its record is written, and it counts as applied for what waits on it (R345). A spawn's
reserved record goes with it (DEDUCED, log entry 36). -/
def State.loseFlit (s : State) (f : Flit) : State :=
  let s1 := s.report f tLINKLOST (effVa f.e.eff)
  if f.done then s1.dropFlit f
  else
    let s2 := (s1.onFlit f.id (fun f => { f with lost := true })).restamp [f.task]
    match f.e.eff with
    | .spawn n .. => s2.onRec n (fun r => if r.st = .reserved then { r with st := .ended, doneAt := some s.time } else r)
    | _ => s2

/-- LINKLOST: 20 us after the first send, for each constituent. A message that finds the spill region full is held, and not lost
(R310), and neither is a cap that waits behind a block in a side log (R221). -/
def execLinklost (id : Nat) (s : State) : Host.Outcome State Fault Refusal :=
  match s.flit? id with
  | none => .next s
  | some f =>
    let s1 := (s.constituents f).foldl State.loseFlit s
    let waits := match f.e.eff with
      | .msg m => s.spillFull m
      | .cap .. => s.capLogged id
      | _ => false
    event s (acked f.e.eff && !f.lost && !s.partOf id && !waits && decide (f.t0 + 20000 ≤ s.time))
      (if f.merged then
        if f.done then s1.dropFlit f else s1.onFlit id (fun f => { f with lost := true })
      else s1)

/-- SPLIT_RESPONSE: a merged flit that would raise a report is not applied; its constituents are sent on their own. -/
def execSplitResponse (id : Nat) (s : State) : Host.Outcome State Fault Refusal :=
  match s.arriving? id with
  | none => .next s
  | some f => event s (f.merged && s.anyReports (s.constituents f))
      (((s.constituents f).foldl (fun s g => { s with hw := s.wired g }) s).onK (fun k => { k with flits := (k.flits.filter (fun g => g.id != id)).map (fun g =>
        if f.parts.contains g.id then { g with t0 := s.time, resends := 0 } else g) }))

/-! Merging. -/

/-- The bytes of two joins as one flit carries them, where their combination raises no fault of its own (R46). -/
def mergeData (t : LTy) (w : Wd) (a b : List Byte) : Option (List Byte) :=
  match t with
  | .fill => if a = b then some a else none
  | .lap =>
    let la := ofBytes (a.take 8)
    let lb := ofBytes (b.take 8)
    if la = lb ∧ a ≠ b then none else some (if la < lb then b else a)
  | .count => some a  -- each part travels by itself (State.flitPayload)
  | .arr | .excl | .code | .mmio => none
  | _ =>
    let n := wdBytes w
    some ((List.zipWith (fun x y => toBytes (joinElem t (wdBits w) (ofBytes x) (ofBytes y)) n)
      (chunks n (a.length / n) a) (chunks n (b.length / n) b)).flatten)

/-- A merged join of two relaxed ones with equal type, width, address and length; a count flit holds at most four parts
(R343). -/
def mergeEff (f g : Flit) (parts : Nat) : Option Eff :=
  match f.e.eff, g.e.eff, f.e.ord, g.e.ord with
  | .join t w va d, .join t' w' va' d', .relaxed, .relaxed =>
    if t = t' ∧ w = w' ∧ va = va' ∧ d.length = d'.length ∧ (t = .count → parts ≤ 4) then
      (mergeData t w d d').map (fun x => .join t w va x)
    else none
  | _, _, _, _ => none

/-- What stands for a flit among the constituents of another. -/
def Flit.stands (f : Flit) : List Nat := if f.merged then f.parts else [f.id]

/-- A router merges two joins on their way and sends the merged flit; the constituents stay listed until it is acknowledged. -/
def State.merge (s : State) (x y : Nat) : State :=
  match s.flit? x, s.flit? y with
  | some f, some g =>
    let parts := f.stands ++ g.stands
    let free (h : Flit) : Bool := h.pending && (s.constituents h).all (fun c => !s.held c) && !s.partOf h.id
    match mergeEff f g parts.length with
    | none => s
    | some e =>
      if x = y || !free f || !free g then s
      else
        let m := { f with id := s.k.nextFlit, e := { f.e with eff := e }, t0 := s.time, resends := 0, parts := parts, merged := true }
        let t := s.onK (fun k => { k with
          flits := k.flits.filter (fun h => !(h.merged && (h.id == x || h.id == y))) ++ [m], nextFlit := k.nextFlit + 1 })
        { t with hw := t.wired m }
  | _, _ => s

/-! Ports. -/

/-- Changes a port of a package. -/
def State.onPort (s : State) (pkg port : Nat) (f : Port → Port) : State :=
  s.onPkg pkg (fun p => { p with ports := tset p.ports port (f (tget p.ports port Port.init)) })
def State.port (s : State) (pkg port : Nat) : Port := tget (s.pkg pkg).ports port Port.init

/-- Does a 32-bit sequence come after another? -/
def seqAfter (a b : BitVec 32) : Bool := a != b && decide ((a - b).toNat < 2 ^ 31)

/-- Fields of a flit (Table 19-1). -/
def flitSeq (x : BitVec 1024) : BitVec 32 := x.extractLsb' 64 32
def flitLack (x : BitVec 1024) : BitVec 32 := x.extractLsb' 96 32

/-- Are the reserved bits of a join's payload zero: above VA and PC, byte 119, the byte mask of a type that has none, and count parts
of 5 to 7 (Table 19-2)? -/
def joinGood (x : BitVec 1024) : Bool :=
  let ty := (x.extractLsb' 192 4).toNat
  x.extractLsb' 188 4 == 0 && x.extractLsb' 892 4 == 0 && x.extractLsb' 952 8 == 0 && decide ((x.extractLsb' 204 3).toNat ≤ 4) &&
    (!(8 ≤ ty && ty ≤ 10) || x.extractLsb' 768 64 == 0)

/-- Is a flit good: no reserved KIND, no reserved bit set, the right CRC (R341)? -/
def flitGood (x : BitVec 1024) : Bool :=
  decide ((x.extractLsb' 0 4).toNat ≤ 8) && x.extractLsb' 7 1 == 0 && x.extractLsb' 10 6 == 0 &&
    (x.extractLsb' 0 4 != 1 || joinGood x) && (x.extractLsb' 960 64).toNat == crc64 (toBytes x.toNat 120)

/-- What a good flit does at its receiver: LACK empties the replay buffer of the other direction, and the sequence after the
last accepted one is accepted. -/
def Port.accept (p : Port) (q a : BitVec 32) : Port :=
  { p with lack := if q = p.lack + 1 then q else p.lack, replay := p.replay.filter (fun r => seqAfter (flitSeq r.1) a) }

/-- The other end of a port's link: the ports of two packages to each other pair in order (DESIGN CHOICE, log entry 48). -/
def State.farEnd (s : State) (pkg port : Nat) : Option (Nat × Nat) :=
  let peer := (s.port pkg port).peer.toNat
  let mine := (List.range port).countP (fun j => (s.port pkg j).peer.toNat == peer)
  (((List.range 32).filter (fun j => (s.port peer j).peer.toNat == pkg))[mine]?).map (fun j => (peer, j))


/-- FLIT_RECEIVE of 128 bytes, the first 16 and the rest: of a bad flit nothing is used, and its sender sends again; one that
was accepted before is dropped; the router behind the port may merge two joins (R341 to R343). -/
def execFlitReceive (pkg port : Nat) (head : BitVec 128) (rest : BitVec 896) (merge : Option (Nat × Nat))
    (s : State) : Host.Outcome State Fault Refusal :=
  let flit : BitVec 1024 := rest ++ head
  let q := flitSeq flit
  let ok := flitGood flit
  let s1 := match s.farEnd pkg port with
    | some x => if ok then s else s.onPort x.1 x.2 (fun p => { p with nak := true })
    | none => s
  let s2 := if ok then s1.onPort pkg port (fun p => p.accept q (flitLack flit)) else s1
  event s (thas s.hw pkg && (s.port pkg port).live) (match ok && q == (s.port pkg port).lack + 1, merge with
    | true, some (x, y) => s2.merge x y
    | _, _ => s2)

/-- Adds WC to a counter n times. -/
def State.bumpN (s : State) (u : FaultUnit) : Nat → State
  | 0 => s
  | n + 1 => (s.bump u false).bumpN u n

/-- LINK_REPLAY: on an error, or 1 us after a send, every unacknowledged flit of the link is sent again in order, and each adds
WC to the port's lane (R342). -/
def execLinkReplay (pkg port : Nat) (s : State) : Host.Outcome State Fault Refusal :=
  let p := s.port pkg port
  event s (thas s.hw pkg && p.live && (p.replay.head?).any (fun r => p.nak || decide (r.2 + 1000 ≤ s.time)))
    ((s.bumpN (.serdes pkg (port / 4) (port % 4 * 8)) p.replay.length).onPort pkg port (fun p =>
      { p with nak := false, replay := p.replay.map (fun r => (r.1, s.time)) }))

/-- PORT_LANE_FAILURE: one to four failed lanes leave the port at half rate, more bring it down. -/
def execPortLaneFailure (pkg port : Nat) (failed : BitVec 8) (s : State) : Host.Outcome State Fault Refusal :=
  event s (thas s.hw pkg && (s.port pkg port).live) (s.onPort pkg port (fun p => p.setLanes (p.good &&& ~~~failed) p.enables s.time))

/-- PORT_TRAINING_DONE: a port has been trained, its enabled lanes work, and its peer is known. -/
def execPortTrainingDone (pkg port : Nat) (lanesUp : BitVec 8) (peer : BitVec 18) (s : State) :
    Host.Outcome State Fault Refusal :=
  event s (thas s.hw pkg && decide (port < 32) && (s.port pkg port).st == 1)
    (s.onPort pkg port (fun p => { p with
      st := 0, peer := peer, lseq := 0, lack := 0, replay := [], nak := false }.setLanes lanesUp p.enables s.time))

/-- Has a package a port to another that is up, or was within the last 100 us? -/
def State.portTo (s : State) (a b : Nat) : Bool :=
  (s.pkg a).ports.any (fun e => e.2.peer.toNat == b && (e.2.live || decide (s.time < e.2.downAt + 100000)))

/-- The packages that links join to some; n bounds the path. -/
def State.joined (s : State) : Nat → List Nat → List Nat
  | 0, l => l
  | n + 1, l => s.joined n (l ++ (s.hw.map (fun e => e.1)).filter (fun q => !l.contains q && l.any (fun a => s.portTo a q && s.portTo q a)))

/-- Does a path join two packages? -/
def State.path (s : State) (a b : Nat) : Bool := (s.joined s.hw.length [a]).contains b

/-- The read request of a lane. -/
def State.readOf (s : State) (l : Nat) : Option ReadReq := (s.lane l).rd

/-- Is the fence of a comb still being told, because the comb has not acted on the notice? -/
def Wag.telling (w : Wag) : Bool := w.st == .fenced && !w.failed && !w.refused

/-- CONTROL_RESEND: what is never lost is sent again every 8 us for as long as a path exists: effects that no home acknowledges, wakes,
read requests, and a fence's notice and hold set (R345). A heartbeat is followed by the next one in 2 us. -/
def execControlResend (what : Resent) (s : State) : Host.Outcome State Fault Refusal :=
  let due (t0 resends : Nat) : Bool := decide (t0 + 8000 * (resends + 1) ≤ s.time)
  match what with
  | .flit id => match s.flit? id with
    | none => .next s
    | some f =>
      let a := s.pkgOf f.lcore
      event s (!acked f.e.eff && f.leaves && f.pending && due f.t0 f.resends && s.path a ((s.target f).map (fun e => e.pkg) |>.getD a)) (s.resend f)
  | .wake n => match s.k.wakes[n]? with
    | none => .next s
    | some w =>
      event s (due w.t0 w.resends && s.path w.src (lget s.pkgmap (s.record w.task).pkg 0))
        { s.onK (fun k => { k with wakes := lset k.wakes n { w with resends := w.resends + 1 } }) with
          hw := s.wakeSent w.task ⟨w.src, 0, 0⟩ }
  | .control x =>
    let w := (s.pkg x.pkg).wagOf (x.die * 64 + x.comb)
    event s (thas s.hw x.pkg && w.telling && due w.since w.resends)
      ((s.onPkg x.pkg (fun p => { p with wag := tset p.wag (x.die * 64 + x.comb) { w with resends := w.resends + 1 } })).tellAll x)
  | .read l => match s.readOf l with
    | none => .next s
    | some q =>
      let a := s.pkgOf (l / 8)
      event s (s.laneOn l && q.ans.isNone && due q.t0 q.resends && s.path a ((s.homeEnd q.va).map (fun e => e.pkg) |>.getD a))
        { s.onLane l (fun x => { x with rd := some { q with resends := q.resends + 1 } }) with hw := s.askHome (l / 8) q.va }

/-- PACKAGE_UNREACHABLE: the Skep kills the context whose launch spans a package that no path has reached for 100 us (R340)
(DESIGN CHOICE, log entry 50). -/
def execPackageUnreachable (pkg : Nat) (s : State) : Host.Outcome State Fault Refusal :=
  let near := s.joined s.hw.length [pkg]
  event s (s.k.launch.any (fun l => l.pkgmap.contains pkg && decide (2 ≤ l.npkg) &&
    !l.pkgmap.any (fun q => q != pkg && near.contains q))) s.killCtx

end Sys2Proof.Machine
end

