-- ==== Sys2Proof/Machine/Waggle.lean ====
section
/-!
DEFINITION. Waggle: heartbeats, accusations, fences, self-tests and appeals (R331 to R334), what a fence does to records
and combs (R328, R335), and errors that ECC finds (R327, R329).
-/

namespace Sys2Proof.Machine

/-- A site as die * 64 + comb. -/
def siteNo (x : Site) : Nat := x.die * 64 + x.comb
def State.wag (s : State) (x : Site) : Wag := (s.pkg x.pkg).wagOf (siteNo x)
def State.onWag (s : State) (x : Site) (f : Wag → Wag) : State :=
  s.onPkg x.pkg (fun p => { p with wag := tset p.wag (siteNo x) (f (p.wagOf (siteNo x))) })

/-- What a neighbour has seen of a comb's heartbeats. -/
def State.beat (s : State) (x y : Site) : Beat := tget (s.pkg x.pkg).beats (siteNo x * 512 + siteNo y) Beat.init
def State.onBeat (s : State) (x y : Site) (f : Beat → Beat) : State :=
  s.onPkg x.pkg (fun p => { p with beats := tset p.beats (siteNo x * 512 + siteNo y) (f (s.beat x y)) })

/-- Does Waggle run on a package (Table 19-6)? -/
def Pkg.wagOn (p : Pkg) : Bool := p.state == 2 || (p.state == 1 && 5 ≤ p.step)

/-- Is y a live neighbour of x on a package where Waggle runs? -/
def State.nbOf (s : State) (x y : Site) : Bool :=
  x.pkg == y.pkg && thas s.hw x.pkg && (s.pkg x.pkg).wagOn && decide (x.die < 8 ∧ x.comb < 64 ∧ y.die < 8 ∧ y.comb < 64) &&
    ((s.pkg x.pkg).liveNb (siteNo x)).contains (siteNo y)

/-- Does a comb send heartbeats: is it neither fenced nor under test? -/
def Wag.beats (w : Wag) : Bool := w.st == .active || w.st == .appeal || w.st == .readmitted

/-- HEARTBEAT: one every 2 us (R332). -/
def execHeartbeat (x : Site) (s : State) : Host.Outcome State Fault Refusal :=
  event s (thas s.hw x.pkg && (s.pkg x.pkg).wagOn && (s.wag x).beats && decide ((s.wag x).beat + 2000 ≤ s.time))
    (s.onWag x (fun w => { w with seq := w.seq + 1, beat := s.time }))

/-! Votes and fences. -/

/-- Accusers that Table 18-4 asks for. -/
def votesFor (live : Nat) : Nat := if live = 4 then 3 else if live = 1 then 1 else 2

/-- Does a context own a die of a package (R276)? -/
def Ctx.ownsDie (k : Ctx) (pkg die : Nat) : Bool := k.pkgs.contains pkg && k.d0 ≤ die && die < k.d0 + 2 ^ k.logn

/-- One more fence during the launch of a context that owns the die (R337) (DESIGN CHOICE, log entry 51). -/
def Ctx.fenceOn (x : Site) (k : Ctx) : Ctx :=
  if k.ownsDie x.pkg x.die ∧ k.launch.isSome then { k with fences := k.fences + 1 } else k

/-- The context that owns the die of a physical comb, if one does. -/
def State.ownerOf (s : State) (x : Site) : Option Ctx :=
  if s.k.ownsDie x.pkg x.die then some s.k else (s.others.find? (fun e => e.2.ownsDie x.pkg x.die)).map (fun e => e.2)

/-- Is the context that owns the die in focus, or no context its owner? -/
def State.onOwner (s : State) (x : Site) : Bool := s.k.ownsDie x.pkg x.die || (s.ownerOf x).isNone

/-- The logical combs that a physical comb serves for its owner. -/
def State.servedAt (s : State) (x : Site) : List Nat :=
  match s.ownerOf x with
  | some k => ({ s with k := k } : State).served x.pkg (siteNo x)
  | none => []

/-- Has an effect begun to arrive in a scratchpad? -/
def Eff.arriving : Eff → Bool
  | .words _ _ rest => rest
  | .payload _ _ (.scratch _ _ _ rest) => rest
  | _ => false

/-- Does what holds an effect keep it from leaving its comb: of what an engine sends, a neighbour only? -/
def State.kept (s : State) (f : Flit) : Bool := if f.e.eff.engine then s.mutedFlit f else s.held f

/-- Traffic of fenced combs is dropped: of their running activations, and what a home acknowledges of earlier ones. What is still held
goes with it; of what has left, the neighbours' routers drop some, as free bits say (R335; DESIGN CHOICE, log entry 42). -/
def State.dropTraffic (s : State) (x : Site) : State :=
  if !s.k.ownsDie x.pkg x.die then s
  else
    let cs := s.served x.pkg (siteNo x)
    let n := s.k.flits.length
    let runs (f : Flit) : Bool := !f.e.eff.engine && (s.record f.task).f.actn == f.actn && match (s.record f.task).st with
      | .active l => cs.contains (laneComb l)
      | _ => false
    let drops (i : Nat) (f : Flit) : Bool := cs.contains (combOf f.lcore) && (runs f || acked f.e.eff) && f.pending && !f.merged &&
      !s.partOf f.id && !f.e.eff.arriving && (s.kept f || (f.leaves && freeBit s.tick i))
    (s.onK (fun k => { k with flits := mapFrom (fun i f => if drops i f then { f with stop := true } else f) 0 k.flits })).tickBy
      (if cs.isEmpty then 0 else n / 64 + 1)

/-- The same for the context that owns the die, in focus or not. -/
def State.dropOwner (s : State) (x : Site) : State :=
  match s.others.find? (fun e => e.2.ownsDie x.pkg x.die) with
  | some e =>
    let t := ({ s with k := e.2 } : State).dropTraffic x
    { s with others := tset s.others e.1 t.k, tick := t.tick }
  | none => s.dropTraffic x

/-- The notice and the hold set of a fence leave for the packages of the launch that owns the die (R328, R333). -/
def State.tellOwner (s : State) (x : Site) : State :=
  match s.ownerOf x with
  | some k => { s with hw := (({ s with k := k } : State).tellAll x).hw }
  | none => s

/-- A comb is fenced (R333, R335). FNMODE.FR of now decides its remap (R298). -/
def State.fenceOne (s : State) (x : Site) : State :=
  let fr := ((s.ownerOf x).map (fun k => k.fnmode.toNat / 4 % 4)).getD 0
  let s := (s.dropOwner x).onWag x (fun w => { w with st := .fenced, accusers := [], votes := [], since := s.time, fr := fr, resends := 0 })
  let s := s.tellOwner x
  { s.post x.pkg (.fence x) with k := s.k.fenceOn x, others := s.others.map (fun e => (e.1, e.2.fenceOn x)) }

/-- Has the count of live accusers that a neighbour y knows of x reached Table 18-4? A readmitted comb needs one. -/
def Pkg.voted (p : Pkg) (x y time : Nat) : Bool :=
  let w := p.wagOf x
  let known := w.accusers.filter (fun e => e.1 / 512 == y && decide (time < e.2.2) && (p.wagOf (e.1 % 512)).st != .fenced)
  let live := (p.liveNb x).length
  if w.st = .readmitted then !known.isEmpty
  else if live = 1 then known.any (fun e => decide (e.2.1 + 16000 ≤ time))
  else decide (votesFor live ≤ known.length)

/-- Does a comb that takes part lose the vote of one of its live neighbours? -/
def Pkg.judged (p : Pkg) (x time : Nat) : Bool :=
  ((p.wagOf x).st == .active || (p.wagOf x).st == .readmitted) && (p.liveNb x).any (fun y => p.voted x y time)

/-- A comb has become FENCED: f fences the neighbours which that leaves without a live neighbour, or whose live neighbours are now so
few that the accusers are enough (Table 18-4). -/
def State.spread (s : State) (x : Site) (f : State → Site → State) : State :=
  let out (s : State) (y : Nat) : Bool :=
    ((s.pkg x.pkg).wagOf y).beats && (((s.pkg x.pkg).liveNb y).isEmpty || (s.pkg x.pkg).judged y s.time)
  (neighbours (siteNo x)).foldl (fun s y => if out s y then f s ⟨x.pkg, y / 64, y % 64⟩ else s) s

/-- The fence, with those that follow from it; n bounds the chain. -/
def State.fenceFrom (s : State) (x : Site) : Nat → State
  | 0 => s
  | n + 1 => (s.fenceOne x).spread x (fun s y => s.fenceFrom y n)

/-- A comb under test or appeal is FENCED again, with the fences that follow (R333, R334). -/
def State.refence (s : State) (x : Site) (f : Wag → Wag) : State :=
  (s.onWag x (fun w => { f w with st := .fenced, since := s.time })).spread x (fun s y => s.fenceFrom y 512)

/-- A neighbour y learns of an accusation that holds from one time until another; the vote may fence the comb. -/
def State.learn (s : State) (x y : Site) (accuser from' until' : Nat) : State :=
  let key := siteNo y * 512 + accuser
  let s := s.onWag x (fun w => { w with accusers := tset w.accusers key (match tget? w.accusers key with
    | some (f, _) => (f, until')
    | none => (from', until')) })
  if ((s.wag x).st == .active || (s.wag x).st == .readmitted) && (s.pkg x.pkg).voted (siteNo x) (siteNo y) s.time then s.fenceFrom x 512 else s

/-- A neighbour accuses a comb itself: the accusation holds for 16 periods. -/
def State.accuse (s : State) (x y : Site) : State := s.learn x y (siteNo y) s.time (s.time + 32000)

/-- The digest that a comb's neighbours expect of it: over the versions and the logical combs of the context that owns its die
(R332) (DESIGN CHOICE, log entry 51). -/
def State.digest (s : State) (x : Site) : BitVec 16 :=
  let word (f : Ctx → Word) : List Byte := toBytes ((s.ownerOf x).map (fun k => (f k).toNat) |>.getD 0) 8
  BitVec.ofNat 16 (crc16 (word (fun k => k.rmver) ++ word (fun k => k.otver) ++ word (fun k => k.stver) ++
    (s.servedAt x).flatMap (fun c => toBytes c 2)))

/-- HEARTBEAT_RECEIVE: two malformed heartbeats in 8 periods, and more than two arrivals in one, accuse the sender. -/
def execHeartbeatReceive (x y : Site) (seq : BitVec 16) (hb : Heartbeat) (s : State) : Host.Outcome State Fault Refusal :=
  let b := s.beat x y
  let bad := !hb.crcOk || hb.id != x || hb.digest != s.digest x || seq != b.seq + 1
  let badAt := (b.badAt.filter (fun t => decide (s.time < t + 16000))) ++ if bad then [s.time] else []
  let arrived := (b.arrived.filter (fun t => decide (s.time < t + 2000))) ++ [s.time]
  let s1 := s.onBeat x y (fun b => { b with
    seq := seq, last := s.time, badAt := badAt, good := if bad then 0 else b.good + 1, arrived := arrived })
  event s (s.nbOf x y && (s.wag x).beats)
    (if 2 ≤ badAt.length || 3 ≤ arrived.length then s1.accuse x y else s1)

/-- HEARTBEAT_SILENCE: three periods without a heartbeat. -/
def execHeartbeatSilence (x y : Site) (s : State) : Host.Outcome State Fault Refusal :=
  let from' := max (s.beat x y).last (max (s.pkg x.pkg).wagFrom (s.wag x).since)
  event s (s.nbOf x y && (s.wag x).beats && decide (from' + 6000 ≤ s.time))
    ((s.onBeat x y (fun b => { b with good := 0 })).accuse x y)

/-- ACCUSATION: a neighbour hears of an accusation that its accuser holds, or judges its own again. More flits on its link in a
period than WGRATE allows make a router accuse the comb itself (R330, R332). -/
def execAccusation (x by' : Site) (heard : Hearing) (s : State) : Host.Outcome State Fault Refusal :=
  let on (y : Site) : Bool := s.nbOf x y && (s.wag x).beats && by'.pkg == x.pkg
  match heard with
  | .counted y flits => event s (on y && by' == y && decide ((s.pkg x.pkg).wgrate.toNat % 2 ^ 16 < flits)) (s.accuse x y)
  | .told y => match tget? (s.wag x).accusers (siteNo by' * 512 + siteNo by') with
    | some (f, u) => event s (on y && decide (s.time < u)) (s.learn x y (siteNo by') f u)
    | none => .next s

/-- ACCUSATION_EXPIRY: after 16 periods without a new cause; that of a single live neighbour has held for 8 and fences the comb
(Table 18-4). -/
def execAccusationExpiry (x by' : Site) (s : State) : Host.Outcome State Fault Refusal :=
  match tget? (s.wag x).accusers (siteNo by' * 512 + siteNo by') with
  | some (_, u) => event s (decide (u ≤ s.time))
      (if (s.pkg x.pkg).liveNb (siteNo x) = [siteNo by'] ∧ (s.wag x).beats = true ∧ (s.wag x).st ≠ .appeal then s.fenceFrom x 512
      else s.onWag x (fun w => { w with accusers := w.accusers.filter (fun e => e.1 % 512 != siteNo by') }))
  | none => .next s

/-! After a fence. -/

/-- Records that run on a comb. -/
def State.ranOn (s : State) (x : Site) : List (Nat × Rec) :=
  let cs := s.served x.pkg (siteNo x)
  s.k.recs.filter (fun r => match r.2.st with
    | .active l => cs.contains (laneComb l)
    | _ => false)

/-- HOLD_SET: the TASK and ACTN of every record that was ACTIVE on the fenced comb (R328) (DESIGN CHOICE, log entry 42). -/
def execHoldSet (x : Site) (s : State) : Host.Outcome State Fault Refusal :=
  event s ((s.wag x).st == .fenced && s.onOwner x)
    (s.onK (fun k => { k with holds := (s.ranOn x).foldl (fun t r => tset t r.1 r.2.f.actn) k.holds }))

/-- What a lane that is abandoned at a fence had written may hold either value (R336). -/
def State.noteDirty (s : State) (l : Nat) : State :=
  if (s.lane l).wrote.isEmpty then s
  else s.onCore (l / 8) (fun c => { c with dirty := (s.lane l).wrote.foldl nadd c.dirty })

/-- FENCE_NOTICE: the comb's activations are abandoned with what the routers dropped of them, not to run again for 25 us. The
hold set comes first. A comb without activations that is able to act on the notice then starts its self-test (R328, R334, R335).
-/
def execFenceNotice (x : Site) (s : State) : Host.Outcome State Fault Refusal :=
  let w := s.wag x
  let rs := s.ranOn x
  let stop (s : State) (r : Nat × Rec) : State := match r.2.st with
    | .active l => (((s.noteDirty l).abandon l).onRec r.1 (fun r => { r with notBefore := s.time + 25000 })).onK (fun k => { k with
        flits := k.flits.filter (fun f => !(f.stop && f.task == r.1 && f.actn == r.2.f.actn)) })
    | _ => s
  let s1 := rs.foldl stop s
  let on := w.st == .fenced && s.onOwner x
  if rs.isEmpty then event s (on && !w.failed && !w.refused) (s.onWag x (fun w => { w with st := .selftest, since := s.time }))
  else event s (on && rs.all (fun r => tget s.k.holds r.1 (2 ^ 24) == r.2.f.actn)) s1

/-- Is a flit of the run that a fence stopped? -/
def Flit.ofRun (f : Flit) (task actn : Nat) : Bool := f.task == task && f.actn == actn && !f.e.eff.engine

/-- HOLD_SET_REDISPATCH: 25 us after the fence a record of the hold set may run again, once no effect of its stopped run is on its
way; what has been given up is abandoned, and arrives no more (R328). -/
def execHoldSetRedispatch (task : Nat) (s : State) : Host.Outcome State Fault Refusal :=
  let r := s.record task
  let mine (f : Flit) : Bool := f.ofRun task r.f.actn
  event s (r.notBefore != 0 && r.st == .ready && decide (r.notBefore ≤ s.time) && !s.k.flits.any (fun f => mine f && f.pending))
    ((s.onRec task (fun r => { r with notBefore := 0 })).onK (fun k => { k with flits := k.flits.map (fun f =>
      if mine f && f.lost then { f with stop := true } else f) }))

/-- SELFTEST_DONE (Table 18-5). -/
def execSelftestDone (x : Site) (pass : Bool) (s : State) : Host.Outcome State Fault Refusal :=
  let w := s.wag x
  let recent := (w.appeals.filter (fun t => decide (s.time < t + 3600000000000))).length
  event s (w.st == .selftest)
    (if !pass then (s.refence x (fun w => { w with failed := true })).post x.pkg (.testfail x)
    else if recent < 3 then
      ((s.onWag x (fun w => { w with st := .appeal, appeals := w.appeals ++ [s.time], votes := [], since := s.time })).onPkg x.pkg
        (fun p => { p with beats := p.beats.map (fun e => if e.1 / 512 = siteNo x then (e.1, { e.2 with good := 0 }) else e) })).post
          x.pkg (.appeal x)
    else (s.refence x (fun w => { w with refused := true })).post x.pkg (.appealRef x))

/-- APPEAL_VOTE: a neighbour votes yes after 8 good heartbeats in a row. -/
def execAppealVote (x y : Site) (s : State) : Host.Outcome State Fault Refusal :=
  let w := s.wag x
  let votes := nadd w.votes (siteNo y)
  let need := votesFor ((s.pkg x.pkg).liveNb (siteNo x)).length
  let s1 := s.onWag x (fun w => { w with votes := votes })
  event s (w.st == .appeal && s.nbOf x y && decide (8 ≤ (s.beat x y).good) && decide (s.time < w.since + 128000))
    (if need ≤ votes.length then (s1.onWag x (fun w => { w with st := .readmitted, since := s.time })).post x.pkg (.readmit x)
    else s1)

/-- APPEAL_TIMEOUT: 64 periods without the vote. -/
def execAppealTimeout (x : Site) (s : State) : Host.Outcome State Fault Refusal :=
  event s ((s.wag x).st == .appeal && decide ((s.wag x).since + 128000 ≤ s.time))
    (s.refence x (fun w => { w with votes := [] }))

/-- APPEAL_HOLD_EXPIRY: an hour after the oldest of the last three appeals. -/
def execAppealHoldExpiry (x : Site) (s : State) : Host.Outcome State Fault Refusal :=
  let w := s.wag x
  let last3 := w.appeals.drop (w.appeals.length - 3)
  event s (w.st == .fenced && w.refused && decide (last3.headD 0 + 3600000000000 ≤ s.time))
    (s.onWag x (fun w => { w with st := .selftest, refused := false, since := s.time }))

/-! The remap. -/

/-- Logical combs of one logical die that a physical comb of a package serves. -/
def State.servedOf (s : State) (pkg phys die : Nat) : Nat :=
  ((s.served pkg phys).filter (fun c => c / 64 % 8 == die)).length

/-- May a physical comb take a logical comb: is it ACTIVE, of the same die, and serves fewer than two of that logical
die (R23, R278)? (DEDUCED, log entry 53). -/
def State.mayHost (s : State) (pkg c y : Nat) : Bool :=
  y / 64 == s.dieOf (c / 64 % 8) && ((s.pkg pkg).wagOf y).st == .active && s.servedOf pkg y (c / 64 % 8) < 2

/-- The one of some physical combs that serves the fewest logical combs, the lowest on ties. -/
def leastOf (f : Nat → Nat) : List Nat → Option Nat
  | [] => none
  | y :: t => match leastOf f t with
    | none => some y
    | some z => some (if f y ≤ f z then y else z)

/-- The host of a logical comb under R335: in its sector first. -/
def State.hostFor (s : State) (pkg c : Nat) : Option Nat :=
  let die := s.dieOf (c / 64 % 8)
  let all := ((List.range 64).map (fun (j : Nat) => die * 64 + j)).filter (s.mayHost pkg c)
  let near := all.filter (fun y => y % 64 / 16 == c % 64 / 16)
  leastOf (fun y => (s.served pkg y).length) (if near.isEmpty then all else near)

/-! Takeover: what the save region holds (R336). A line that an activation running at the fence had written may hold either value: a
free bit chooses for each such line. The others hold what was written back last. -/

/-- Indices of the 16-bit groups in which a number is not zero, from group j on; n bounds them. -/
def groups16 : Nat → Nat → Nat → List Nat
  | 0, _, _ => []
  | n + 1, d, j => if d = 0 then [] else (if d % 65536 = 0 then [] else [j]) ++ groups16 n (d / 65536) (j + 1)

/-- Bits of two numbers, by groups of 16, where p takes those of the second. -/
def mixBits (p : Nat → Bool) (a b : Nat) : Nat :=
  let d := a ^^^ b
  (groups16 (2 ^ 14) d 0).foldl (fun x j => if p j then x ^^^ (d / 65536 ^ j % 65536 * 65536 ^ j) else x) a

/-- Rows of a core, where p takes the saved values; recorded weights are written through. -/
def mixRows (p : Nat → Bool) (a b : Tab Row) : Tab Row :=
  ((a ++ b).map (fun e => e.1)).foldl (fun t r =>
    if p r then tset t r { tget a r Row.init with vals := (tget b r Row.init).vals } else t) a

/-- A core's pool as its new host restores it; its poison is gone. -/
def State.restoreCore (s : State) (lcore : Nat) : State :=
  let c := s.core lcore
  let a := scratchAddr s.kid lcore 0
  let old (j : Nat) : Bool := !c.dirty.contains j || freeBit s.tick j
  let line (j : Nat) : Bool := old j
  let mine (x : Nat) : Bool := decide (a ≤ x ∧ x < a + 2 ^ 20)
  let kept := s.mem.cells.filter (fun x => !(mine x.1 && line ((x.1 - a) / 64)))
  let back := c.saved.bytes.filter (fun x => decide (x.1 < 2 ^ 20) && line (x.1 / 64))
  ({ s with mem := back.foldl (fun m (x : Nat × Byte) => Memory.write m (a + x.1) x.2) { s.mem with cells := kept } }.onCore lcore (fun c => { c with
    full := mixBits line c.full c.saved.full, acc := mixRows (fun r => old (2 ^ 14 + r)) c.acc c.saved.acc
    badW := [], badR := [], dirty := [], waits := [] })).tickBy 512

/-- A logical comb moves: its cores' pools are restored, its buffers, lease and commands are not, its channels restart their
transfers (R228, R246, R335, R336). -/
def State.moveComb (s : State) (pkg c y : Nat) : State :=
  let alone := (s.served pkg y).isEmpty
  let s1 := s.onPkg pkg (fun p => { p with remap := tset p.remap (s.remapKey c) y })
  let s2 := (List.range 4).foldl (fun s i => s.restoreCore (c * 4 + i)) s1
  s2.onComb c (fun b => { b with
    lease := none, asking := [], buf0 := Buf.init, buf1 := Buf.init, queue := []
    used := s.slotUsed b % 2048, slot := (b.slot + s.slotUsed b / 2048) % 16, since := if alone then some s.cyc else none
    chans := b.chans.map (fun e => (e.1, { e.2 with row := e.2.row.map (fun _ => 0) })) })

/-- Moves logical combs one after another, with the hosts that choice names or the rule gives; none where one finds no
host. -/
def State.moveAll (s : State) (pkg : Nat) (choice : List (Nat × Nat)) : List Nat → Option State
  | [] => some s
  | c :: t =>
    let named := (choice.find? (fun x => x.1 == c)).map (fun x => x.2)
    match (named.filter (s.mayHost pkg c)).or (s.hostFor pkg c) with
    | none => none
    | some y => (s.moveComb pkg c y).moveAll pkg choice t

/-- FENCE_REMAP: choice is the Skep's where FNMODE.FR was 1 at the fence (R298). Without a host the context is killed (R335). -/
def execFenceRemap (x : Site) (choice : List (Nat × Nat)) (s : State) : Host.Outcome State Fault Refusal :=
  let cs := s.served x.pkg (siteNo x)
  let st := (s.wag x).st
  event s (s.onOwner x && s.k.launch.isSome && st != .active && st != .readmitted && !cs.isEmpty && (s.ranOn x).isEmpty)
    (match s.moveAll x.pkg (if (s.wag x).fr = 0 then [] else choice) cs with
    | some t => (t.tellAll x).onK (fun k => { k with rmver := k.rmver + 1 })
    | none => s.killCtx)

/-! Errors. -/

/-- CORRECTED_ERROR: only the counter moves (R327, R329). -/
def execCorrectedError (u : FaultUnit) (s : State) : Host.Outcome State Fault Refusal :=
  event s (thas s.hw (unitPkg u)) (s.bump u false)

/-- Poisons the line of a memory address. -/
def State.poisonAt (s : State) (a : Nat) : State := { s with mem := { s.mem with poison := nadd s.mem.poison (a / 64) } }

/-- What an uncorrectable error does where it is found (Table 18-1). A copy is fetched again, and a message in a pending buffer is
sent again by its router, which holds it until its handler record is written (R335): both are timing only. The trap records take the
record's own PC, and VA 0 for one of the pool (DESIGN CHOICE, log entries 54 and 94). -/
def State.upset (s : State) : ErrPlace → State
  | .cacheCopy | .pendingMsg .. => s
  | .laneState l => match (s.lane l).st with
    | .load | .run | .finish | .verify => if s.hasLane l then s.abandon l else s
    | _ => s
  | .scratchWord l off =>
    if l < s.lcount ∧ off < s.scratchSize then s.onCore l (fun c => { c with badW := nadd c.badW (off / 4) }) else s
  | .accRow l row => if l < s.lcount ∧ row < s.accRows then s.onCore l (fun c => { c with badR := nadd c.badR row }) else s
  | .homeLine _ va => match s.phys? va with
    | some a => s.poisonAt a
    | none => s
  | .saveArea l =>
    let n := (s.lane l).task
    let f := (s.record n).f
    if s.hasLane l ∧ (s.lane l).st = .load then
      ((s.abandonWith l id).endByTrap n ⟨tUNCORR, f.pc, BitVec.ofNat 64 ((s.areaVa f f.actn).getD 0), true⟩).afterEnd n
    else s
  | .transferRecord comb ch =>
    if (s.chan comb ch).st = .walking ∧ (s.chan comb ch).row = none then s.halt comb ch tUNCORR else s
  | .recordPool n =>
    let r := s.record n
    if s.alive n && r.st.queued then
      (((s.removeRec n).postLog ⟨tUNCORR, r.f.pc, 0, true⟩ n r.f.actn).countEnd n true r.never).afterEnd n
    else s

/-- UNCORRECTABLE_ERROR. -/
def execUncorrectableError (u : FaultUnit) (p : ErrPlace) (s : State) : Host.Outcome State Fault Refusal :=
  event s (thas s.hw (unitPkg u)) ((s.bump u true).upset p)

/-- SCRUB: an uncorrectable line of the bank, at a physical address of the package, is poisoned, and nothing raised. -/
def execScrub (u : FaultUnit) (addr : Nat) (s : State) : Host.Outcome State Fault Refusal :=
  event s (thas s.hw (unitPkg u) && decide (addr < 2 ^ 40)) ((s.bump u true).poisonAt (physAddr (unitPkg u) addr))

end Sys2Proof.Machine
end

