-- ==== Sys2Proof/Machine/Launch.lean ====
section
/-!
DEFINITION. Launches: the checks of a descriptor (R17, R302, R320, R321), placing the objects of an image (R129, R283,
R284, R348), the start (R322) with its manifest (R337), and time-triggered firings (R317, R318).
-/

namespace Sys2Proof.Machine

/-- A field of n bytes of a launch descriptor (Table 17-6). -/
def field (d : BitVec 2048) (at' n : Nat) : Nat := (d.extractLsb' (8 * at') (8 * n)).toNat

def dImage (d : BitVec 2048) : Nat := field d 0 8
def dEntry (d : BitVec 2048) : Nat := field d 8 8
def dNpkg (d : BitVec 2048) : Nat := field d 16 4
def dPart (d : BitVec 2048) : BitVec 32 := d.extractLsb' 192 32
def dV (d : BitVec 2048) : Nat := field d 28 1
def dMode (d : BitVec 2048) : BitVec 8 := d.extractLsb' 232 8
def dSeed (d : BitVec 2048) : List Word := (List.range 4).map (fun (j : Nat) => BitVec.ofNat 64 (field d (48 + 8 * j) 8))
def dCap (d : BitVec 2048) (k : Nat) : Nat := field d (88 + 4 * (k - 1)) 4

/-- Enabled lanes of a core under a partition word. -/
def partLanes (p : BitVec 32) : Nat := partField p 18 3 + 1

/-- R17. -/
def partBad (p : BitVec 32) (v : Nat) : Bool :=
  64 < partField p 0 6 + partField p 6 6 + partField p 12 6 || partField p 21 11 != 0 ||
    partField p 0 6 < (partLanes p * v + 31) / 32

/-- A field out of range, or a reserved byte. n is the number of declared objects, when the image is known. -/
def descBad (d : BitVec 2048) (n : Option Nat) : Bool :=
  let v := dV d
  dNpkg d == 0 || 262144 < dNpkg d || field d 20 4 != 2048 || !(v == 8 || v == 16 || v == 24 || v == 32) ||
    4 ≤ (dMode d).toNat || 16 ≤ field d 30 1 || field d 31 1 != 0 || field d 44 4 != 0 || field d 144 112 != 0 ||
    2 ^ 32 ≤ dEntry d || (List.range 14).any (fun (k : Nat) =>
      2 ^ 24 ≤ dCap d (k + 1) || n.any (fun n => decide (n < dCap d (k + 1) % 65536)))

/-- A package map: as many packages as NPKG says, none twice, all of the context. An entry with a bit of [31:18] set names no
package of the context, and so has status 0x13 and not 0x11 (R7, R321, R322; DESIGN CHOICE, log entry 73). -/
def mapBad (pkgs : List Nat) (npkg : Nat) (m : List (BitVec 32)) : Bool :=
  let l := m.map BitVec.toNat
  pkgs.length < npkg || l.length != npkg || !l.all pkgs.contains || !decide l.Nodup

/-- Sizes in blocks of the device blocks PTP, Links, Power and Flash (R351). -/
def skepBlocks : List Nat := [1, 1, 1, 16]

/-- The first status with which a launch is refused before its objects are placed (R322). -/
def State.refusal (s : State) (q : LaunchReq) : Option Nat :=
  let d := q.desc
  let img := (s.k.images.find? (fun i => i.handle == dImage d)).map (fun i => i.img)
  if partBad (dPart d) (dV d) then some 0x10
  else if descBad d (img.map (fun i => i.objs.length + if s.k.service then skepBlocks.length else 0)) then some 0x11
  else if !img.any (fun i => i.tasks.contains (dEntry d)) then some 0x12
  else if mapBad s.k.pkgs (dNpkg d) q.pkgmap then some 0x13
  else if 4 * partLanes (dPart d) < resvSum s.k.rsvlo s.k.rsvhi then some 0x14
  else none

/-! Objects. -/

/-- The width code of an object-table entry (Table 16-3). -/
def wcOf (t : LTy) (w : Wd) : Wd :=
  match t with
  | .excl | .code | .mmio => .w8
  | .maxf | .minf | .arr => .w32
  | .fill | .lap => .w64
  | _ => w

/-- The range of an object's home (R283). -/
def State.modeOf (s : State) : Home → Option OwnMode
  | .spread => some .spread
  | .pkg p => if p < s.npkg then some (.package (lget s.pkgmap p 0)) else none
  | .lcore l =>
    if l < s.lcount then
      let x := s.placeOf (combOf l)
      some (.sector x.1 (x.2 / 64) (x.2 % 64 / 16))
    else none

/-- An initial byte at its address: its page is mapped, and a fill line with given bytes is full (R129). -/
def State.initByte (s : State) (ty : LTy) (va : Nat) (x : Byte) : Option State :=
  let s := s.mapVa va
  match s.phys? va with
  | none => none
  | some a =>
    let m := s.mem.write a x
    some { s with mem := if ty = .fill then { m with lines := tset m.lines (a / 64) .full } else m }

def State.initBytes (s : State) (ty : LTy) (base : Nat) : List (Nat × Byte) → Option State
  | [] => some s
  | (o, x) :: t => (s.initByte ty (base + o) x).bind (fun s => s.initBytes ty base t)

/-- The base of an object. -/
def State.baseOf (s : State) (o : Nat) : Nat := ((tget? s.k.objs o).map (fun x => x.base)).getD 0

/-- A new object of a type, a width and a size in blocks, of some group, where place says or the loader chooses.
Its pages are of 64 KiB, of the three sizes that R129 and R285 allow (DESIGN CHOICE, log entry 85). -/
def State.declare (s : State) (place : Option (Nat × Nat)) (mode : OwnMode) (ty : LTy) (w : Wd) (len owner : Nat) :
    Option (Nat × State) :=
  s.newObj place mode ⟨0, len, ty, wcOf ty w, 0, owner, 0, 0, 0, false, false, false, false, none⟩

/-- Places declared objects in order, with their bytes, where a list of OIDs and first blocks says; the numbers in reverse
order. An mmio object is the Skep's to make (R296). -/
def State.placeObjs (s : State) (owner : Nat) (place : List (Nat × Nat)) (done : List Nat) :
    List ObjDecl → Option (List Nat × State)
  | [] => some (done, s)
  | x :: t =>
    if x.size = 0 ∨ x.size % 4096 ≠ 0 ∨ x.ty = .mmio then none
    else match s.modeOf x.home with
      | none => none
      | some mode => match s.declare place.head? mode x.ty x.w (x.size / 4096) owner with
        | none => none
        | some (o, s) => match s.initBytes x.ty (s.baseOf o) x.data with
          | none => none
          | some s => s.placeObjs owner (place.drop 1) (o :: done) t

/-- Maps the pages of a range of device registers with memory type 2 (R296). -/
def State.mapDevice (s : State) (va : Nat) : Nat → State
  | 0 => s
  | n + 1 =>
    let t := match s.translate va with
      | .missing m => (s.mapPageAt m.oid m.pkg m.die m.pg 2 none).getD s
      | _ => s
    t.mapDevice (va + 4096) n

/-- The mmio objects that the Skep creates for a launch of a service context, on its first package; its CAPS name them after the
declared objects (R296, R351; DESIGN CHOICE, log entry 9). -/
def State.placeBlocks (s : State) (owner : Nat) (done : List Nat) : List Nat → Option (List Nat × State)
  | [] => some (done, s)
  | n :: t => match s.declare none (.package (lget s.pkgmap 0 0)) .mmio .w8 n owner with
    | none => none
    | some (o, s) => (s.mapDevice (s.baseOf o) n).placeBlocks owner (done ++ [o]) t

/-- Caps every block of a mapped range. -/
def State.capBlocks (s : State) (va n : Nat) : State :=
  (List.range n).foldl (fun s (i : Nat) => match s.phys? (va + 4096 * i) with
    | some a => { s with mem := { s.mem with capped := nadd s.mem.capped (a / 4096) } }
    | none => s) s

/-- An object with its pages mapped: the code object, the root group's lines, and the root frame
(DESIGN CHOICE, log entry 34). -/
def State.placeMapped (s : State) (place : Option (Nat × Nat)) (ty : LTy) (w : Wd) (blocks owner : Nat) (bytes : List Byte) :
    Option (Nat × State) :=
  match s.declare place .spread ty w blocks owner with
  | none => none
  | some (o, s) =>
    let base := s.baseOf o
    let s := s.mapRange base blocks
    if (s.firstUnmapped base (4096 * blocks)).isSome then none else some (o, s.writeV base bytes)

/-! The start. -/

/-- A logical comb whose physical comb may not run finds a host (R23, R25); none where one finds none
(DESIGN CHOICE, log entry 52). -/
def State.rebuildRemap (s : State) : Option State :=
  let mine (p : Nat) (x : Nat) : Bool := s.k.ownsDie p (x / 64)
  let ready (p : Nat) (h : Pkg) : Pkg := { h with
    wag := h.wag.map (fun e => if e.2.st = .readmitted ∧ mine p e.1 then (e.1, { e.2 with st := .active }) else e)
    remap := h.remap.filter (fun e => e.1 / 512 != s.k.num) }
  let ps := s.k.pkgs
  let s1 := ps.foldl (fun s p => s.onPkg p (ready p)) s
  let moved := ps.foldl (fun u p => u.bind (fun s =>
    let down := (s.pkg p).wag.filter (fun e => e.2.st != .active && mine p e.1)
    (down.map (fun e => e.1)).foldl (fun u x => u.bind (fun s => s.moveAll p [] (s.served p x))) (some s))) (some s1)
  moved.map (fun t => if ps.all (fun p => (t.pkg p).remap == (s.pkg p).remap) then t
    else t.onK (fun k => { k with rmver := k.rmver + 1 }))

/-- The manifest at a launch start (Table 18-6). -/
def State.manifestOf (s : State) (d : BitVec 2048) (code : List Byte) : BitVec 2048 :=
  let m := putField 0 0 32 (ofBytes (sha256 code))
  let m := putField m 32 32 (ofBytes (toBytes Config.skepHash.toNat 32))
  let m := putField m 64 8 ((dMode d).toNat % 4)
  let m := putField m 72 8 s.k.rmver.toNat
  let m := putField m 80 8 s.k.otver.toNat
  let m := putField m 88 8 s.k.stver.toNat
  let m := putField m 96 32 (field d 48 32)
  let m := putField m 192 8 (2048 * dNpkg d)
  let m := putField m 200 4 (dPart d).toNat
  let m := putField m 204 1 (dV d)
  putField m 208 8 s.k.launchSeq

/-- The capabilities of the root record: each covers its whole object with the rights named (R130, R322). -/
def State.rootCaps (s : State) (d : BitVec 2048) (objs : List Nat) : List (Nat × Cap) :=
  (List.range 14).filterMap (fun (k : Nat) =>
    let x := dCap d (k + 1)
    match objs[x % 65536 - 1]? with
    | some o => if x % 65536 = 0 then none else some (k + 1, mkCap (s.baseOf o) o (x / 65536 % 256) 0 0)
    | none => none)

/-- The launch of a descriptor, before its code is placed. -/
def launchOf (q : LaunchReq) (root task cyc : Nat) : Launch :=
  { npkg := dNpkg q.desc, pkgmap := q.pkgmap.map BitVec.toNat, part := dPart q.desc, valloc := dV q.desc
    mode := dMode q.desc, seed := dSeed q.desc, codeOid := 0, codeBase := 0, codeLen := 0, shape := none, root := root
    rootTask := task, cmd := q.cmd, tt := q.tt, cyc0 := cyc, blocks := [] }

/-- The pools that a start finds, as their save regions hold them: what an earlier launch has left in the scratchpads (R11, R336), with
the poison that no store has cleared (R327). -/
def State.keptPools (s : State) : Tab CoreSt :=
  let a := scratchAddr s.kid 0 0
  s.mem.cells.foldl (fun t c =>
    if a ≤ c.1 ∧ c.1 < a + 2 ^ 50 then
      let l := (c.1 - a) / 2 ^ 20
      let x := tget t l CoreSt.init
      tset t l { x with saved := { x.saved with bytes := x.saved.bytes ++ [((c.1 - a) % 2 ^ 20, c.2)] } }
    else t) (poisonOf s.k.cores)

/-- The start of an accepted launch. What the scratchpads hold from an earlier launch stays, their full bits are cleared (R11,
R322; DESIGN CHOICE, log entry 74). none when its objects or combs cannot be placed. The request names the OID and the first block
of the code object and then of the declared objects, as the loader chooses them (R129; DESIGN CHOICE, log entry 14). -/
def State.startLaunch (s : State) (q : LaunchReq) (img : Image) : Option State :=
  let d := q.desc
  let root := s.k.nextGid
  let task := s.k.nextTask
  let s0 := s.clearRun.onK (fun k => { k with
    cores := s.keptPools, launch := some (launchOf q root task s.cyc), nextGid := root + 1, nextTask := task + 1, launchSeq := k.launchSeq + 1
    rfcount := 0, fences := 0, dlmiss := 0, ovq := 0, fltcnt := [] })
  match s0.rebuildRemap with
  | none => none
  | some s1 =>
    match s1.placeMapped q.place.head? .code .w8 ((img.code.length + 4095) / 4096) root img.code with
    | none => none
    | some (code, s2) => match s2.placeObjs root (q.place.drop 1) [] img.objs with
      | none => none
      | some (rev, s3) => match s3.placeBlocks root [] (if s3.k.service then skepBlocks else []) with
      | none => none
      | some (blocks, s3) =>
        let objs := rev.reverse ++ blocks
        let v := dV d
        match s3.placeMapped none .fill .w64 1 0 [] with
        | none => none
        | some (lines, s4) => match s4.placeMapped none .excl .w8 (2 * areaBytes v / 4096) root [] with
          | none => none
          | some (frame, s5) =>
            let base := s5.baseOf code
            let len := (img.code.length + 4095) / 4096 * 4096
            let at' := s5.baseOf lines
            let shape := (img.treeshape.bind (fun i => objs[i]?)).map (fun o => s5.baseOf o)
            let f : RecFields := { RecFields.init with
              pc := pc60 (BitVec.ofNat 64 (base + dEntry d)), gid := root, deadline := BitVec.ofNat 64 (field d 32 8)
              cbud := field d 40 4, cls := field d 30 1, alloc := v, frame := mkCap (s5.baseOf frame) frame 5 0 0 }
            let r : Rec := { Rec.init with f := f, st := .ready, since := s.time, first := some ([], s5.rootCaps d objs) }
            let s6 := (s5.capBlocks base (len / 4096)).stock.onK (fun k => { k with
              launch := k.launch.map (fun l => { l with blocks := blocks, codeOid := code, codeBase := base, codeLen := len, shape := shape })
              groups := tset k.groups root { Group.init with compl := at', fault := at' + 64, used := 1 }
              recs := tset k.recs task r })
            if 1024 < s6.k.owns.length then none
            else some (s6.onK (fun k => { k with manifest := s6.manifestOf d (img.code ++ List.replicate (len - img.code.length) 0) }))

/-- A launch that is refused: its completion entry. -/
def State.refuse (s : State) (q : LaunchReq) (status : Nat) : State := s.complete (cqEntry q.cmd status q.tt 0 0 0)

/-- LAUNCH_START: the first waiting launch leaves the queue when none runs and no completion waits, on packages that have not
failed (R318, R322, R347, R349, R354). -/
def execLaunchStart (s : State) : Host.Outcome State Fault Refusal :=
  match s.k.host.launches with
  | [] => .next s
  | q :: rest =>
    let s1 := s.onK (fun k => { k with host := { k.host with launches := rest } })
    event s (s.k.launch.isNone && s.k.killing.isNone && s.k.host.waiting.isEmpty && s.hostUp)
      (match s.refusal q, s.k.images.find? (fun i => i.handle == dImage q.desc) with
      | some status, _ => s1.refuse q status
      | none, none => s1.refuse q 0x12
      | none, some i => (s1.startLaunch q i.img).getD (s1.refuse q 0x15))

/-! Time-triggered firings. -/

/-- Fields of an entry of TTTAB (Table 17-3). -/
def Ctx.ttWord (k : Ctx) (e j : Nat) : Nat := (tget k.tttab (4 * e + j) 0).toNat
def Ctx.ttOn (k : Ctx) (e : Nat) : Bool := k.ttWord e 3 % 2 == 1
def Ctx.ttRule (k : Ctx) (e : Nat) : Nat := k.ttWord e 3 / 2 % 4

/-- The time of an entry's next firing, if there is one. -/
def Ctx.ttTime (k : Ctx) (e : Nat) : Option Nat :=
  let j := tget k.ttNext e 0
  if k.ttWord e 1 = 0 ∧ j ≠ 0 then none else some (k.ttWord e 0 + j * k.ttWord e 1)

/-- The TIME that the context's entries follow: that of its first package (DESIGN CHOICE, log entry 55). -/
def State.ttClock (s : State) : Nat := s.timeOn (s.k.pkgs.headD 0)

/-- An entry that has been written counts the firings whose times have passed (DESIGN CHOICE, log entry 55). -/
def Ctx.ttRearm (k : Ctx) (e time : Nat) : Ctx :=
  let start := k.ttWord e 0
  let per := k.ttWord e 1
  { k with ttNext := tset k.ttNext e (if time ≤ start then 0 else if per = 0 then 1 else (time - start + per - 1) / per) }

/-- A launch enters the queue ahead of host launches, behind earlier firings (R318). -/
def queueFiring (q : LaunchReq) : List LaunchReq → List LaunchReq
  | [] => [q]
  | x :: t => if x.tt.isSome then x :: queueFiring q t else q :: x :: t

/-- Marks the running launch's root group cancelling (R312). -/
def State.cancelLaunch (s : State) : State :=
  match s.k.launch with
  | some l => if s.liveGroup l.root then s.onGroup l.root (fun g => { g with cancelling := true }) else s
  | none => s

/-- TT_FIRE: desc and m are what stands in host memory at the entry's DESC. -/
def execTtFire (e : Fin 256) (desc : BitVec 2048) (m : Placing) (s : State) :
    Host.Outcome State Fault Refusal :=
  let s1 := s.onK (fun k => { k with ttNext := tset k.ttNext e.val (tget k.ttNext e.val 0 + 1) })
  let q : LaunchReq := ⟨desc, m.pkgmap, 0, some e.val, m.place⟩
  let enter (s : State) : State := s.onK (fun k => { k with host := { k.host with launches := queueFiring q k.host.launches } })
  let drop (s : State) : State := s.complete (cqEntry 0 0x03 (some e.val) 0 0 0)
  event s (s.k.ttOn e.val && (s.k.ttTime e.val).any (fun t => decide (t ≤ s.ttClock)))
    (match s.fnField 5 with
    | 0 => match s.k.ttRule e.val with
      | 0 => if s.k.launch.isSome then drop s1 else enter s1
      | 1 => if s.k.host.launches.any (fun x => x.tt == some e.val) then drop s1 else enter s1
      | _ => enter s1.cancelLaunch
    | 1 => s1.post (s.k.pkgs.headD 0) (.firing e.val)
    | _ => s1.complete (cqEntry 0 0x31 (some e.val) 0 0 0))

end Sys2Proof.Machine
end

