-- ==== Sys2Proof/Machine/Host.lean ====
section
/-!
DEFINITION. The host's side: rings and doorbells (R347), commands (R306 to R308, R319), completion entries (R320), image
loads (R348), the mailbox with the making of contexts (R276, R346), and the end of a core's pre-emption (R309).
-/

namespace Sys2Proof.Machine

/-- Changes the registers of the context block. -/
def State.onHost (s : State) (f : HostSt → HostSt) : State := s.onK (fun k => { k with host := f k.host })

/-! Commands. -/

/-- Fields of a command entry (R319). -/
def cmdOp (x : Line) : Nat := (x.extractLsb' 0 8).toNat
def cmdId (x : Line) : Nat := (x.extractLsb' 16 16).toNat
def cmdArg0 (x : Line) : Nat := (x.extractLsb' 64 64).toNat
def cmdArg1 (x : Line) : Nat := (x.extractLsb' 128 64).toNat

/-- A reserved byte that is not zero. -/
def cmdReserved (x : Line) : Bool :=
  x.extractLsb' 8 8 != 0 || x.extractLsb' 32 32 != 0 || x.extractLsb' 192 320 != 0

/-- Answers a command with a status. -/
def State.reply (s : State) (x : Line) (status : Nat) : State := s.complete (cqEntry (cmdId x) status none 0 0 0)

/-- Commands of no OP of Table 17-4 at the head of the queue are rejected (DEDUCED, log entry 56). -/
def State.rejectUnknown (s : State) : List Line → State
  | [] => s.onHost (fun h => { h with cmds := [] })
  | x :: t =>
    if 1 ≤ cmdOp x ∧ cmdOp x ≤ 7 then s.onHost (fun h => { h with cmds := x :: t })
    else (s.reply x 0x21).rejectUnknown t

/-- Handles the command at the head when it has an OP: rejected with 0x21, or accepted with what it does. Only LAUNCH
has no answer of its own. A package that has failed takes no command (R349). -/
def State.command (s : State) (op : Nat) (bad : Line → Bool) (f : Line → State → State) :
    Host.Outcome State Fault Refusal :=
  match s.k.host.cmds with
  | [] => .next s
  | x :: t =>
    event s (cmdOp x == op && s.hostUp) ((if cmdReserved x || bad x then s.reply x 0x21
      else f x (if op = 1 then s else s.reply x 0x20)).rejectUnknown t)

/-- LAUNCH: desc and m are what stands in host memory at ARG0. -/
def execLaunch (desc : BitVec 2048) (m : Placing) (s : State) : Host.Outcome State Fault Refusal :=
  s.command 1 (fun x => cmdArg1 x != 0) (fun x s => s.onHost (fun h => { h with
    launches := h.launches ++ [⟨desc, m.pkgmap, cmdId x, none, m.place⟩] }))

/-- Cancels the launch of a command id: a queued one goes with status 0x01, of the running one the root group is
cancelled. -/
def State.cancelCmd (s : State) (id : Nat) : State :=
  let mine (q : LaunchReq) : Bool := q.tt.isNone && q.cmd == id
  let s1 := (s.k.host.launches.filter mine).foldl (fun s q => s.refuse q 0x01) s
  let s2 := s1.onHost (fun h => { h with launches := h.launches.filter (fun q => !mine q) })
  if s.k.launch.any (fun l => l.tt.isNone && l.cmd == id) then s2.cancelLaunch else s2

def execHostCancel (s : State) : Host.Outcome State Fault Refusal :=
  s.command 2 (fun x => cmdArg1 x != 0 || decide (65536 ≤ cmdArg0 x)) (fun x s => s.cancelCmd (cmdArg0 x))

/-- A class override of a group, or its removal. The CLASS of a record that no core holds, be it PARKED, TIMED or HELD, changes at
once (R113, R306; DESIGN CHOICE, log entry 76). -/
def State.setOverride (s : State) (v : Nat) : State :=
  let g := v % 2 ^ 32
  let c := v / 2 ^ 32 % 16
  if !s.liveGroup g then s
  else if v / 2 ^ 36 % 2 = 1 then s.onGroup g (fun x => { x with ovr := none })
  else (s.onGroup g (fun x => { x with ovr := some c })).onK (fun k => { k with recs := k.recs.map (fun e =>
    if e.2.f.gid = g then (e.1, match e.2.st with
      | .loc _ | .active _ | .fenced _ => { e.2 with newCls := some c }
      | _ => { e.2 with f := { e.2.f with cls := c }, newCls := none })
    else e) })

def execSetclass (s : State) : Host.Outcome State Fault Refusal :=
  s.command 3 (fun x => cmdArg1 x != 0 || decide (2 ^ 37 ≤ cmdArg0 x)) (fun x s => s.setOverride (cmdArg0 x))

def execRelease (s : State) : Host.Outcome State Fault Refusal :=
  s.command 4 (fun x => decide (2 ^ 32 ≤ cmdArg0 x)) (fun x s =>
    s.releaseHeld (cmdArg0 x) (if cmdArg1 x = 0 then none else some (BitVec.ofNat 64 (cmdArg1 x))))

/-- KILL: the command begins a kill, and one that is under way ends (R280). -/
def execKill (s : State) : Host.Outcome State Fault Refusal :=
  if s.k.killing.isSome then .next s.killDone
  else s.command 5 (fun x => cmdArg0 x != 0 || cmdArg1 x != 0) (fun _ s => s.killCtx)

/-- Writes an entry of TTTAB, quadword by quadword. -/
def Ctx.ttPut (k : Ctx) (e : Nat) (b : BitVec 256) : Ctx :=
  { k with tttab := (List.range 4).foldl (fun t (j : Nat) => tset t (4 * e + j) (quad b j)) k.tttab }

/-- TTWRITE: bytes are what stands in host memory at ARG1 (R317). -/
def execTtwrite (bytes : BitVec 256) (s : State) : Host.Outcome State Fault Refusal :=
  let last := (quad bytes 3).toNat
  s.command 6 (fun x => decide (256 ≤ cmdArg0 x) || decide (8 ≤ last) || last / 2 == 3)
    (fun x s => s.onK (fun k => (k.ttPut (cmdArg0 x) bytes).ttRearm (cmdArg0 x) s.ttClock))

/-- PREEMPT: of a service context, and of a core that exists (R308). -/
def execPreempt (s : State) : Host.Outcome State Fault Refusal :=
  s.command 7 (fun x => cmdArg1 x != 0 || !s.k.service || decide (s.lcount ≤ cmdArg0 x))
    (fun x s => s.onCore (cmdArg0 x) (fun c => { c with asked := true }))

/-! Rings. -/

/-- Entries from one ring index up to another. -/
def ringDist (size a b : Nat) : Nat := if size = 0 then 0 else (b + size - a) % size

/-- SQTAIL: a tail that passes an entry which the device has not read is an error. entries are what the device then reads in host
memory from SQHEAD on, none or some of those before the tail; it reads the others with a later write of the same tail, or of a
latest one. -/
def execSqtail (tail : Word) (entries : List Line) (s : State) : Host.Outcome State Fault Refusal :=
  let h := s.k.host
  let unread := ringDist h.sqSize h.sqHead h.sqTail
  let now := ringDist h.sqSize h.sqHead tail.toNat
  if !s.hostUp then .next s
  else if h.sqSize ≤ tail.toNat ∨ now < unread then .next (s.onHost (fun h => { h with bellErr := true }))
  else event s (decide (entries.length ≤ now))
    ((s.onHost (fun h => { h with sqTail := tail.toNat, sqHead := (h.sqHead + entries.length) % h.sqSize })).rejectUnknown (h.cmds ++ entries))

/-- CQHEAD: an index beyond what has been posted is an error. -/
def execCqhead (head : Word) (s : State) : Host.Outcome State Fault Refusal :=
  let h := s.k.host
  if !s.hostUp then .next s
  else if h.cqSize ≤ head.toNat ∨ ringDist h.cqSize h.cqHead h.cqTail < ringDist h.cqSize h.cqHead head.toNat then
    .next (s.onHost (fun h => { h with bellErr := true }))
  else .next (s.onHost (fun h => { h with cqHead := head.toNat }))

/-- COMPLETION_POST: the oldest waiting entry is written while the ring has room (R347). With the entry of an ended launch its
objects go (R322). -/
def execCompletionPost (s : State) : Host.Outcome State Fault Refusal :=
  let h := s.k.host
  match h.waiting with
  | [] => .next s
  | e :: t =>
    let s1 := (s.onHost (fun h => { h with
      waiting := t, posted := h.posted ++ [e], cqTail := (h.cqTail + 1) % h.cqSize })).onK (fun k => { k with endAt := k.endAt - 1 })
    event s (h.cqSize != 0 && (h.cqTail + 1) % h.cqSize != h.cqHead) (if s.k.endAt = 1 then s1.freeObjs else s1)

/-- A ring size of R347. -/
def ringSize (n : Nat) : Bool := (List.range 13).any (fun j => n == 2 ^ (j + 4))

/-- RING_CONFIG_WRITE: ignored unless the context has no running or queued launch and both rings are empty; head and tail of
the ring become zero. IRQ takes its fields at any time (DEDUCED, log entry 57). -/
def execRingConfigWrite (off : Fin 256) (v : Word) (s : State) : Host.Outcome State Fault Refusal :=
  let h := s.k.host
  let rest := s.k.launch.isNone && h.launches.isEmpty && h.sqHead == h.sqTail && h.cqHead == h.cqTail && s.hostUp
  let sq (f : HostSt → HostSt) : State := s.onHost (fun h => f { h with sqHead := 0, sqTail := 0 })
  let cq (f : HostSt → HostSt) : State := s.onHost (fun h => f { h with cqHead := 0, cqTail := 0 })
  let page := v &&& 0xFFF == 0
  match off.val with
  | 0x00 => event s (rest && page) (sq (fun h => { h with sqBase := v }))
  | 0x08 => event s (rest && ringSize v.toNat) (sq (fun h => { h with sqSize := v.toNat }))
  | 0x20 => event s (rest && page) (cq (fun h => { h with cqBase := v }))
  | 0x28 => event s (rest && ringSize v.toNat) (cq (fun h => { h with cqSize := v.toNat }))
  | 0x38 => event s rest (cq (fun h => { h with cqTailWb := v }))
  | 0x40 => event s s.hostUp (s.onHost (fun h => { h with irq := v &&& 0x13F }))
  | _ => .next s

/-! Images. -/

/-- IMGLOAD: a request while one is being served is ignored. -/
def execImgload (req : Line) (s : State) : Host.Outcome State Fault Refusal :=
  event s (s.k.host.imgBusy.isNone && s.hostUp) (s.onHost (fun h => { h with imgBusy := some req }))

/-- An image-load request with a reserved byte, or with a source that is none (R348). -/
def imgBad (x : Line) : Bool := 1 < cmdOp x || x.extractLsb' 8 56 != 0 || x.extractLsb' 256 256 != 0

/-- Is a code object well formed: whole blocks of code with the hash that it names, entries inside the code, a partition word
that fits V, objects of whole blocks with their data inside, no mmio object, and treeshape one of them (R17, R129, R135, R296,
R348; DESIGN CHOICE, log entry 59)? -/
def imageOk (i : Image) : Bool :=
  i.code.length != 0 && i.code.length % 4096 == 0 && i.hash.toNat == ofBytes (sha256 i.code) &&
    i.tasks.all (fun e => decide (e < i.code.length) && e % 4 == 0) && !partBad i.part i.v &&
    i.objs.all (fun x => x.size != 0 && x.size % 4096 == 0 && x.ty != .mmio && x.ty != .code &&
      x.data.all (fun y => decide (y.1 < x.size))) &&
    i.treeshape.all (fun t => ((i.objs[t]?).map (fun x => x.ty == .fill)).getD false)

/-- IMAGE_LOADED: what the Skep read, or nothing when it was refused. Identical images share a handle
(DESIGN CHOICE, log entry 59). -/
def execImageLoaded (img : Option Image) (s : State) : Host.Outcome State Fault Refusal :=
  match s.k.host.imgBusy with
  | none => .next s
  | some q =>
    let done (r n : Nat) (s : State) : State := s.onHost (fun h => { h with imgBusy := none, imgResult := r, imgHandle := n })
    match if imgBad q then none else img.filter imageOk with
    | none => .next (done (1 + (Config.freeWord s.tick).toNat % 255) s.k.host.imgHandle s.ticked)
    | some i => match s.k.images.find? (fun x => x.img == i) with
      | some x => .next (done 0 x.handle s)
      | none => .next (done 0 s.k.nextHandle (s.onK (fun k => { k with
          images := k.images ++ [⟨k.nextHandle, i⟩], nextHandle := k.nextHandle + 1 })))

/-! What the host reads. -/

/-- A register of Table 19-4 as the host reads it (R346). -/
def Pkg.hostReg (p : Pkg) (off : Nat) : Word :=
  match off with
  | 0x0000 => BitVec.ofNat 64 (0x4C4E + 2048 * 2 ^ 16 + Config.revision.toNat * 2 ^ 32)
  | 0x0008 => BitVec.ofNat 64 (p.state + 256 * p.step + p.failure.toNat * 2 ^ 16)
  | 0x0010 => BitVec.ofNat 64 (p.pkgid % 2 ^ 18)
  | 0x0018 => p.mbox
  | 0x0020 => BitVec.ofNat 64 ((if p.mboxReq.isSome then 1 else 0) + 256 * p.mboxRes.toNat)
  | 0x0100 => BitVec.ofNat 64 Config.certLen
  | n => if 0x1000 ≤ n ∧ n ≤ 0x8FF8 ∧ n % 8 = 0 then
      BitVec.ofNat 64 (ofBytes ((List.range 8).map (fun j => Config.certByte (n - 0x1000 + j)))) else 0

/-- A register of a context block as the host reads it (Table 19-5). -/
def Ctx.hostReg (k : Ctx) (off : Nat) : Word :=
  let h := k.host
  let num (n : Nat) : Word := BitVec.ofNat 64 n
  match off with
  | 0x000 => h.sqBase
  | 0x008 => num h.sqSize
  | 0x018 => num h.sqHead
  | 0x020 => h.cqBase
  | 0x028 => num h.cqSize
  | 0x038 => h.cqTailWb
  | 0x040 => h.irq
  | 0x050 => num ((if h.imgBusy.isSome then 1 else 0) + 256 * h.imgResult)
  | 0x058 => num h.imgHandle
  | 0x060 => num ((if k.pkgs.isEmpty then 0 else if k.killing.isSome then 3 else if k.launch.isSome then 2 else 1) + if h.bellErr then 256 else 0)
  | 0x068 => k.flogCons
  | 0x070 => h.flogMir
  | 0x078 => k.flogHead
  | _ => 0

/-! BAR0 (R346). -/

/-- What an offset of BAR0 names: a global register, or a register of a virtual function's context block. -/
inductive BarReg where
  | global (off : Nat)
  | block (v off : Nat)
  deriving DecidableEq, Repr

/-- BAR0 of the physical function has 64 MiB, with context block v at 0x10_0000 + 0x1_0000 v; that of virtual function v maps block v
alone. -/
def barReg (vf : Option Nat) (off : Nat) : Option BarReg :=
  match vf with
  | some v => if v < 8 ∧ off < 0x10000 then some (.block v off) else none
  | none =>
    if off < 0x100000 then some (.global off)
    else if off < 0x180000 then some (.block ((off - 0x100000) / 0x10000) (off % 0x10000))
    else none

/-- Every context of the machine. -/
def State.contexts (s : State) : List Ctx := s.k :: s.others.map (fun e => e.2)

/-- The context of a number on a package. -/
def State.ctxOn (s : State) (pkg v : Nat) : Option Ctx := s.contexts.find? (fun k => k.num == v && k.pkgs.contains pkg)

/-- What the host reads at an offset of BAR0: the block of an absent context reads as zeros. -/
def State.barRead (s : State) (pkg : Nat) (vf : Option Nat) (off : Nat) : Word :=
  match barReg vf off with
  | some (.global o) => (s.pkg pkg).hostReg o
  | some (.block v o) => ((s.ctxOn pkg v).map (fun k => k.hostReg o)).getD 0
  | none => 0

/-- What a host write at an offset of BAR0 is, for the context of the block: MBOX, a doorbell, a ring register, an image load, or a
register of the fault log. A write elsewhere does nothing. -/
inductive BarWrite where
  | mbox (addr : Word)
  | sqtail (v : Nat) (tail : Word)
  | cqhead (v : Nat) (head : Word)
  | ring (v : Nat) (off : Fin 256) (x : Word)
  | imgload (v : Nat) (addr : Word)
  | flogcons (v : Nat) (x : Word)
  | flogmir (v : Nat) (addr : Word)
  deriving DecidableEq, Repr

def barWrite (vf : Option Nat) (off : Nat) (x : Word) : Option BarWrite :=
  match barReg vf off with
  | some (.global o) => if o = 0x18 then some (.mbox x) else none
  | some (.block v o) =>
    match o with
    | 0x10 => some (.sqtail v x)
    | 0x30 => some (.cqhead v x)
    | 0x48 => some (.imgload v x)
    | 0x68 => some (.flogcons v x)
    | 0x70 => some (.flogmir v x)
    | o => if o ∈ [0x00, 0x08, 0x20, 0x28, 0x38, 0x40] then some (.ring v (Fin.ofNat 256 o) x) else none
  | none => none

/-! The mailbox. -/

/-- MBOX: a request rings the doorbell; while one is being served it is ignored. A package that has failed takes requests for
diagnostics only (R349). -/
def execMbox (pkg : Nat) (addr : Word) (req : MboxReq) (s : State) : Host.Outcome State Fault Refusal :=
  event s (thas s.hw pkg && (s.pkg pkg).mboxReq.isNone && ((s.pkg pkg).state != 3 || req == .other)) (s.onPkg pkg (fun p => { p with mbox := addr, mboxReq := some req }))

/-- May a context be made: number, an aligned die set, packages that are ready, and nothing of them taken (R276)? -/
def State.mayCreate (s : State) (ctx d0 logn : Nat) (pkgs : List Nat) : Bool :=
  let dies (k : Ctx) (d : Nat) : Bool := k.d0 ≤ d && d < k.d0 + 2 ^ k.logn
  ctx < 8 && logn ≤ 3 && d0 % 2 ^ logn == 0 && d0 + 2 ^ logn ≤ 8 && !pkgs.isEmpty && decide pkgs.Nodup &&
    pkgs.all (fun p => thas s.hw p && (s.pkg p).state == 2) &&
    s.contexts.all (fun k => k.pkgs.all (fun p => !pkgs.contains p) ||
      (k.num != ctx && !(List.range 8).any (fun d => dies k d && decide (d0 ≤ d ∧ d < d0 + 2 ^ logn))))

/-- Bytes that Table 16-1 takes of a die for a context of n dies: its part of the object table, the page roots, the ownership
table, the records and messages, the save regions, the side-log overflow and the fault log (DESIGN CHOICE, log entry 33). -/
def kBytes (n pool spill : Nat) : Nat :=
  2 ^ 25 / n + 2 ^ 23 + 2 ^ 14 + 64 * (pool / n + 1) + 64 * spill + 5 * 2 ^ 20 * (512 / n) + 2 ^ 26 + 2 ^ 17

/-- The first 1 GiB frame with K = 1 of a die that nothing uses. -/
def spareK (die : Nat) (l : List (Nat × Nat × Bool)) : Option Nat :=
  (l.find? (fun f => f.1 / 2 ^ 37 == die && f.2.1 == 2 ^ 30 && !f.2.2)).map (fun f => f.1)

/-- Reserves n frames of 1 GiB on a die, with K = 1 (R279, R289); none when the die has too few. -/
def State.reserveK (s : State) (pkg die : Nat) : Nat → Option State
  | 0 => some s
  | n + 1 => match spareK die (s.pkg pkg).kframes with
    | some a => (s.onPkg pkg (fun p => { p with kframes := p.kframes.map (fun f =>
        if f.1 = a then (f.1, f.2.1, true) else f) })).reserveK pkg die n
    | none => match s.takeFrame pkg die 2 0 with
      | some (a, t) => (t.onPkg pkg (fun p => { p with kframes := p.kframes ++ [(a, 2 ^ 30, true)] })).reserveK pkg die n
      | none => none

/-- The regions of a new context on every die that it owns. -/
def State.reserveAll (s : State) (n : Nat) : List (Nat × Nat) → Option State
  | [] => some s
  | (p, d) :: t => (s.reserveK p d n).bind (fun u => u.reserveAll n t)

/-- A context with its memory given back: what it held is gone. Its regions keep K = 1 until reset (R289). -/
def State.removeCtx (s : State) : State :=
  let free (k : Ctx) (pkg : Nat) (p : Pkg) : Pkg := { p with kframes := p.kframes.map (fun f =>
    if f.2.1 = 2 ^ 30 ∧ k.ownsDie pkg (f.1 / 2 ^ 37) then (f.1, f.2.1, false) else f) }
  let s := s.killCtx
  let s := s.k.pkgs.foldl (fun u p => u.onPkg p (free s.k p)) s
  { s with k := Ctx.init, cur := 0, ln := Lane.init }

/-- MBOX_REQUEST_DONE: with result 0 the context in focus is made, with FNMODE 0 (R298), given an FNMODE default, or removed;
of a package that has failed in the meantime the Skep refuses such a request (R349). -/
def execMboxRequestDone (pkg : Nat) (result : BitVec 8) (s : State) : Host.Outcome State Fault Refusal :=
  let s1 := s.onPkg pkg (fun p => { p with mboxReq := none, mboxRes := result })
  let failed := (s.pkg pkg).state == 3
  match (s.pkg pkg).mboxReq with
  | none => .next s
  | some (.create ctx d0 logn service pkgs pool spill) =>
    if result ≠ 0 then .next s1
    else
      let n := 2 ^ logn
      let sites := pkgs.flatMap (fun p => (List.range n).map (fun d => (p, d0 + d)))
      match s1.reserveAll ((kBytes n pool spill + 2 ^ 30 - 1) / 2 ^ 30) sites with
      | none => .next s
      | some s2 => event s (s.k.pkgs.isEmpty && s.mayCreate ctx d0 logn pkgs) { s2 with
          cur := 0
          ln := Lane.init
          k := { Ctx.init with
            num := ctx, pkgs := pkgs, d0 := d0, logn := logn, service := service, pool := pool, spillMax := spill } }
  | some (.fnmode ctx v) =>
    if result ≠ 0 then .next s1
    else event s (s.k.num == ctx && s.k.pkgs.contains pkg && !failed && !fnmodeBad v.toNat) (s1.onK (fun k => { k with fnmode := v.setWidth 12 }))
  | some (.remove ctx) =>
    if result ≠ 0 then .next s1 else event s (s.k.num == ctx && s.k.pkgs.contains pkg && !failed) s1.removeCtx
  | some .other => .next s1

/-- CORE_RESUME: every lane has committed or been abandoned; spilled messages are delivered (R309, R310). -/
def execCoreResume (lcore : Nat) (s : State) : Host.Outcome State Fault Refusal :=
  event s ((s.core lcore).pre && (s.coreLanes lcore).all (fun l => (s.lane l).st == .idle))
    ((s.onCore lcore (fun c => { c with pre := false, urgent := false })).redeliverAll lcore)

end Sys2Proof.Machine
end

