-- ==== Sys2Proof/Machine/Registers.lean ====
section
/-!
DEFINITION. Writes of privileged registers as they are applied (R172, R297 to R299, R304, R306, R317, R330, R339, R355),
by SYSWR, or by the host where a register has a name in the context block.
-/

namespace Sys2Proof.Machine

/-- A SYSWR to a register that p accepts, once nothing holds it (R172), and once for its tag (R99): f takes the effect, the
register and the value. -/
def State.sysWrite (s : State) (id : Nat) (p : Nat → Bool) (f : Flit → Nat → Word → State → State) :
    Host.Outcome State Fault Refusal :=
  match s.due? id with
  | none => .next s
  | some x => match x.e.eff with
    | .syswr r v =>
      if s.tagSeen x then .next (s.doneFlit id) else event s (p r) (f x r v ((s.acceptTag x).doneFlit id))
    | _ => .next s

/-- FLOGCONS only rises, up to FLOGHEAD; a host value outside sets the doorbell-error bit (R299). -/
def execFlogcons (src : RegSrc) (s : State) : Host.Outcome State Fault Refusal :=
  let bad (v : Word) : Bool := v.ult s.k.flogCons || s.k.flogHead.ult v
  match src with
  | .host v => if !s.hostUp then .next s else .next (if bad v then s.onHost (fun h => { h with bellErr := true }) else s.onK (fun k => { k with flogCons := v }))
  | .effect id => s.sysWrite id (fun r => r == 0x0A) (fun _ _ v t => if bad v then t else t.onK (fun k => { k with flogCons := v }))

/-- FLOGMIR: the host's address of the mirror ring. -/
def execFlogmir (addr : Word) (s : State) : Host.Outcome State Fault Refusal :=
  event s (addr &&& 0xFFF == 0 && s.hostUp) (s.onHost (fun h => { h with flogMir := addr }))

def execFnmode (id : Nat) (s : State) : Host.Outcome State Fault Refusal :=
  s.sysWrite id (fun r => r == 0x01) (fun _ _ v t => t.onK (fun k => { k with fnmode := v.setWidth 12 }))

/-- SLOTTAB: STVER rises now, and the table waits for the next boundary of the period. -/
def execSlottab (id : Nat) (s : State) : Host.Outcome State Fault Refusal :=
  s.sysWrite id (fun r => r == 0x05) (fun _ _ v t => t.onK (fun k => { k with
    slottab := v, stver := k.stver + 1, slotPend := some s.period32k }))

def execRsvlo (id : Nat) (s : State) : Host.Outcome State Fault Refusal :=
  s.sysWrite id (fun r => r == 0x10) (fun _ _ v t => t.onK (fun k => { k with rsvlo := v }))

def execRsvhi (id : Nat) (s : State) : Host.Outcome State Fault Refusal :=
  s.sysWrite id (fun r => r == 0x11) (fun _ _ v t => t.onK (fun k => { k with rsvhi := v }))

def execGrpcls (id : Nat) (s : State) : Host.Outcome State Fault Refusal :=
  s.sysWrite id (fun r => r == 0x13) (fun _ _ v t => (t.onK (fun k => { k with grpcls := v })).setOverride v.toNat)

/-- TTTAB: one quadword; the entry counts its firings anew. -/
def execTttab (id : Nat) (s : State) : Host.Outcome State Fault Refusal :=
  s.sysWrite id (fun r => decide (0x400 ≤ r ∧ r < 0x800)) (fun _ r v t => t.onK (fun k =>
    { k with tttab := tset k.tttab (r - 0x400) v }.ttRearm ((r - 0x400) / 4) s.ttClock))

/-- The message that ATTCTL signs, as a number: manifest, nonce, package (R339). -/
def State.attMessage (s : State) (pkg : Nat) : Nat :=
  s.k.manifest.toNat + ofBytes (s.k.attNonce.flatMap (fun x => toBytes x.toNat 8)) * 2 ^ 2048 + pkg * 2 ^ 2304

/-- ATTCTL: a write of 1 starts to sign, unless a signing is in progress; other values do nothing
(DEDUCED, log entry 30). -/
def execAttctl (id : Nat) (s : State) : Host.Outcome State Fault Refusal :=
  s.sysWrite id (fun r => r == 0x124) (fun x _ v t =>
    if v = 1 ∧ s.k.attBusy = none then
      t.onK (fun k => { k with attBusy := some (s.attMessage (s.pkgOf x.lcore)), attDone := false, attFinal := false })
    else t)

/-- ATTEST_DONE: the signature is there, and whether FINAL was set in the signed copy. -/
def execAttestDone (pkg : Nat) (s : State) : Host.Outcome State Fault Refusal :=
  match s.k.attBusy with
  | none => .next s
  | some m => event s (m / 2 ^ 2304 == pkg)
      ((s.onPkg pkg (fun p => { p with sigs := p.sigs + 1 })).onK (fun k => { k with
        attBusy := none, attDone := true, attFinal := m.testBit (8 * 64 + 8)
        attSig := Config.attestSignature m (s.pkg pkg).sigs }))

/-- PWRCAP: a value from 1 to 799 is raised to 800. -/
def execPwrcap (id : Nat) (s : State) : Host.Outcome State Fault Refusal :=
  s.sysWrite id (fun r => r == 0x33) (fun x _ v t =>
    t.onPkg (s.pkgOf x.lcore) (fun p => p.setCap v))

/-- Registers that only hold what is written. -/
def plainReg (r : Nat) : Bool :=
  r == 0x12 || r == 0x20 || r == 0x21 || r == 0x22 || r == 0x23 || r == 0x25 || r == 0x30 || (0x120 ≤ r && r < 0x124)

/-- Writes one of them. -/
def State.putReg (s : State) (pkg r : Nat) (v : Word) : State :=
  match r with
  | 0x12 => s.onK (fun k => { k with precls := v })
  | 0x20 => s.onPkg pkg (fun p => { p with bkcfgb := v })
  | 0x21 => s.onPkg pkg (fun p => { p with bkcfgl := v })
  | 0x22 => s.onPkg pkg (fun p => { p with bkcfgc := v })
  | 0x23 => s.onK (fun k => { k with bksel := v })
  | 0x25 => s.onPkg pkg (fun p => { p with wgrate := v })
  | 0x30 => s.onK (fun k => { k with lnksel := v })
  | r => s.onK (fun k => { k with attNonce := lset k.attNonce (r - 0x120) v })

/-- REGISTER_WRITE. -/
def execRegisterWrite (id : Nat) (s : State) : Host.Outcome State Fault Refusal :=
  s.sysWrite id plainReg (fun x r v t => t.putReg (s.pkgOf x.lcore) r v)

/-- What a host write in BAR0 of a package does, with the context of its block in focus: req, entries and line are what stands in host
memory where it points (R346, R347). -/
def BarWrite.run (w : BarWrite) (pkg : Nat) (req : MboxReq) (entries : List Line) (line : Line) (s : State) :
    Host.Outcome State Fault Refusal :=
  match w with
  | .mbox a => execMbox pkg a req s
  | .sqtail _ t => execSqtail t entries s
  | .cqhead _ h => execCqhead h s
  | .ring _ o x => execRingConfigWrite o x s
  | .imgload .. => execImgload line s
  | .flogcons _ x => execFlogcons (.host x) s
  | .flogmir _ a => execFlogmir a s

end Sys2Proof.Machine
end

