-- ==== Sys2Proof/Machine/Power.lean ====
section
/-!
DEFINITION. Time (R352, R353), power (R354), and reset and boot (R280, R346, R349).
-/

namespace Sys2Proof.Machine

/-- TIME follows the grandmaster's: TIME that lies behind steps forward, and TIME that lies ahead is slewed back; after a relock it is
only slewed, until it agrees (R316, R353). offset is TIME less the grandmaster's time (DESIGN CHOICE, log entry 71). -/
def Pkg.follow (p : Pkg) (offset : Int) : Pkg :=
  let relock := p.relock && decide (5 < offset.natAbs)
  if offset < 0 ∧ p.relock = false then { p with ahead := p.ahead - offset, slew := 0 }
  else { p with slew := -offset, relock := relock }

/-- PTP locks; on a relock after holdover TIME is only slewed. -/
def Pkg.lockTime (p : Pkg) (offset : Int) : Pkg := { p with locked := true, holdover := false, relock := p.holdover }.follow offset

/-- PTP_SYNC of the domain that is set (R351, R352): offset is signed. 32 offsets in a row within 5 ns lock, and one beyond 100
ns loses the lock; while it is locked TIME follows each Sync. -/
def execPtpSync (pkg : Nat) (offset : BitVec 32) (domain : BitVec 8) (s : State) : Host.Outcome State Fault Refusal :=
  let n := offset.toInt.natAbs
  event s (thas s.hw pkg && (s.pkg pkg).state == 2 && domain == (s.pkg pkg).domain && decide (domain.toNat < 128)) (s.onPkg pkg (fun p =>
    let good := if n ≤ 5 then p.goodSync + 1 else 0
    let p := { p with offset := offset, goodSync := good, lastSync := s.time, syncGap := s.time - p.lastSync }
    if p.locked then (if 100 < n then { p with locked := false, holdover := true, slew := 0 } else p.follow offset.toInt)
    else if 32 ≤ good then p.lockTime offset.toInt
    else p))

/-- PTP_HOLDOVER: no Sync for 8 intervals, as long as the last one was (DESIGN CHOICE, log entry 71). -/
def execPtpHoldover (pkg : Nat) (s : State) : Host.Outcome State Fault Refusal :=
  event s (thas s.hw pkg && (s.pkg pkg).locked && decide ((s.pkg pkg).lastSync + 8 * (s.pkg pkg).syncGap ≤ s.time))
    (s.onPkg pkg (fun p => { p with locked := false, holdover := true, goodSync := 0, slew := 0 }))

/-- CLOCK_THROTTLE: a step of 100 MHz between 600 and 1,100 MHz. -/
def execClockThrottle (pkg : Nat) (down : Bool) (s : State) : Host.Outcome State Fault Refusal :=
  let c := (s.pkg pkg).clock
  event s (thas s.hw pkg && if down then decide (700 ≤ c) else decide (c + 100 ≤ 1100))
    (s.onPkg pkg (fun p => { p with clock := if down then c - 100 else c + 100 }))

/-- Applies f to every context of a package, each one brought into focus; the first focus returns. -/
def State.eachCtx (s : State) (pkg : Nat) (f : State → State) : State :=
  let keys := (s.kid :: s.others.map (fun e => e.1))
  (keys.foldl (fun t c =>
    let t := t.focus c
    if t.k.pkgs.contains pkg then f t else t) s).focus s.kid

/-- THERMAL_SHUTDOWN: every context is killed, the compute dies lose power, and the package has failed (R354). -/
def execThermalShutdown (pkg : Nat) (s : State) : Host.Outcome State Fault Refusal :=
  event s (thas s.hw pkg) ((s.eachCtx pkg State.killCtx).onPkg pkg (fun p => { p with
    state := 3, ports := p.ports.map (fun e => (e.1, { e.2 with st := 0, good := 0, downAt := if e.2.live then s.time else e.2.downAt })) }))

/-- RESET: the package starts anew, its cores' cycle counts too (R32), and its contexts are gone (R349). -/
def execReset (pkg : Nat) (s : State) : Host.Outcome State Fault Refusal :=
  event s (thas s.hw pkg) ((s.eachCtx pkg State.removeCtx).onPkg pkg (fun p => { Pkg.init with cyc0 := s.cyc, ahead := p.ahead }))

/-- A package that takes boot step n; with step 3 done, the frame of the Skep's kernel text has K = 1 (R289), Waggle starts with
step 5's beginning, and the ports train in it (Table 19-6). -/
def Pkg.toStep (p : Pkg) (pkg n now : Nat) : Pkg :=
  { p with
    state := if 7 ≤ n then 2 else 1
    step := n
    pkgid := if n = 2 then pkg else p.pkgid
    wagFrom := if n = 5 then now else p.wagFrom
    kframes := if n = 4 then [(2 ^ 35, 2 ^ 21, true)] else p.kframes
    used := if n = 4 then tset p.used (frameKey 0 1 0) 1 else p.used
    ports := if n = 5 then (List.range 32).foldl (fun t (j : Nat) => tset t j { Port.init with st := 1 }) p.ports else p.ports }

/-- BOOT_STEP_DONE: the next step begins, or the package has failed. Out of reset the first step begins. -/
def execBootStepDone (pkg : Nat) (fail : Option (BitVec 16)) (s : State) : Host.Outcome State Fault Refusal :=
  let p := s.pkg pkg
  event s (thas s.hw pkg && p.state ≤ 1 && p.step < 7) (s.onPkg pkg (fun p => match fail with
    | some c => { p with state := 3, failure := c }
    | none => p.toStep pkg (p.step + 1) s.time))

/-- The rings of the context in focus as reset leaves them (DESIGN CHOICE, log entry 58). -/
def State.resetRings (s : State) : State := s.onHost (fun h => { HostSt.init with posted := h.posted })

/-- FUNCTION_LEVEL_RESET: of a virtual function, its context is killed; of the physical function, every context, and the
rings are reset (R346). -/
def execFunctionLevelReset (pkg : Nat) (vf : Option Nat) (s : State) : Host.Outcome State Fault Refusal :=
  match vf with
  | some v => event s (s.k.pkgs.contains pkg && s.k.num == v) s.killCtx
  | none => event s (thas s.hw pkg) (s.eachCtx pkg (fun t => t.killCtx.killDone.resetRings))

/-- HOT_RESET: as a reset of the physical function. -/
def execHotReset (pkg : Nat) (s : State) : Host.Outcome State Fault Refusal :=
  event s (thas s.hw pkg) (s.eachCtx pkg (fun t => t.killCtx.killDone.resetRings))

end Sys2Proof.Machine
end

