-- ==== Sys2Proof/Machine/VecArith.lean ====
section
/-!
DEFINITION. Majors 0x20 to 0x22: elementwise arithmetic, logic and shifts (R180, R181).
-/

namespace Sys2Proof.Machine

def execVadd (t : ETy) (d : VReg) (a b : VSrc) (m : Bool) (s : State) :=
  opE (.vadd t d a b m) t m d (s.map2 t.width a b (eAdd t s.fpcMode)) s
def execVsub (t : ETy) (d : VReg) (a b : VSrc) (m : Bool) (s : State) :=
  opE (.vsub t d a b m) t m d (s.map2 t.width a b (eSub t s.fpcMode)) s
def execVmul (t : ETy) (d : VReg) (a b : VSrc) (m : Bool) (s : State) :=
  opE (.vmul t d a b m) t m d (s.map2 t.width a b (eMul t s.fpcMode)) s
def execVmulh (t : ETy) (n : Bool) (d : VReg) (a b : VSrc) (m : Bool) (s : State) :=
  opE (.vmulh t n d a b m) t m d (s.map2 t.width a b (fun x y => plain (mulHigh n t.width x y))) s
/-- Clamped to the range of the type. -/
def execVadds (t : ETy) (n : Bool) (d : VReg) (a b : VSrc) (m : Bool) (s : State) :=
  opE (.vadds t n d a b m) t m d (s.map2 t.width a b (fun x y =>
    plain (ofInt t.width (clampInt n t.width (valOf n t.width x + valOf n t.width y))))) s
def execVsubs (t : ETy) (n : Bool) (d : VReg) (a b : VSrc) (m : Bool) (s : State) :=
  opE (.vsubs t n d a b m) t m d (s.map2 t.width a b (fun x y =>
    plain (ofInt t.width (clampInt n t.width (valOf n t.width x - valOf n t.width y))))) s
def execVmin (t : ETy) (n : Bool) (d : VReg) (a b : VSrc) (m : Bool) (s : State) :=
  opE (.vmin t n d a b m) t m d (s.map2 t.width a b (eMinMax t n false)) s
def execVmax (t : ETy) (n : Bool) (d : VReg) (a b : VSrc) (m : Bool) (s : State) :=
  opE (.vmax t n d a b m) t m d (s.map2 t.width a b (eMinMax t n true)) s
def execVabs (t : ETy) (d : VReg) (a : VSrc) (m : Bool) (s : State) :=
  opE (.vabs t d a m) t m d (s.map1 t.width a (eAbs t)) s
def execVneg (t : ETy) (d : VReg) (a : VSrc) (m : Bool) (s : State) :=
  opE (.vneg t d a m) t m d (s.map1 t.width a (eNeg t)) s
def execVdiv (t : ETy) (n : Bool) (d : VReg) (a b : VSrc) (m : Bool) (s : State) :=
  opE (.vdiv t n d a b m) t m d (s.map2 t.width a b (eDiv t n s.fpcMode)) s

/-- The three fused forms read the old destination. -/
def opFma (i : Instr) (t : ETy) (np nc : Bool) (d : VReg) (a b : VSrc) (m : Bool) (s : State) :=
  opE i t m d (zip3 (eFma t s.fpcMode np nc) (s.eV t.width a.r) (s.eV t.width b.r) (s.eV t.width d)) s
def execVfma (t : ETy) (d : VReg) (a b : VSrc) (m : Bool) (s : State) := opFma (.vfma t d a b m) t false false d a b m s
def execVfms (t : ETy) (d : VReg) (a b : VSrc) (m : Bool) (s : State) := opFma (.vfms t d a b m) t false true d a b m s
def execVfnma (t : ETy) (d : VReg) (a b : VSrc) (m : Bool) (s : State) :=
  opFma (.vfnma t d a b m) t true false d a b m s

def execVand (t : ETy) (d : VReg) (a b : VSrc) (m : Bool) (s : State) :=
  opE (.vand t d a b m) t m d (s.map2 t.width a b (fun x y => plain (x &&& y))) s
def execVor (t : ETy) (d : VReg) (a b : VSrc) (m : Bool) (s : State) :=
  opE (.vor t d a b m) t m d (s.map2 t.width a b (fun x y => plain (x ||| y))) s
def execVxor (t : ETy) (d : VReg) (a b : VSrc) (m : Bool) (s : State) :=
  opE (.vxor t d a b m) t m d (s.map2 t.width a b (fun x y => plain (x ^^^ y))) s
def execVnot (t : ETy) (d : VReg) (a : VSrc) (m : Bool) (s : State) :=
  opE (.vnot t d a m) t m d (s.map1 t.width a (fun x => plain (2 ^ t.width - 1 - x))) s

/-- Shift amounts are taken modulo the width. -/
def execVshl (t : ETy) (d : VReg) (a b : VSrc) (m : Bool) (s : State) :=
  opE (.vshl t d a b m) t m d (s.map2 t.width a b (fun x y => plain (low t.width (x * 2 ^ (y % t.width))))) s
def execVshr (t : ETy) (d : VReg) (a b : VSrc) (m : Bool) (s : State) :=
  opE (.vshr t d a b m) t m d (s.map2 t.width a b (fun x y => plain (x / 2 ^ (y % t.width)))) s
def execVsra (t : ETy) (d : VReg) (a b : VSrc) (m : Bool) (s : State) :=
  opE (.vsra t d a b m) t m d (s.map2 t.width a b (fun x y =>
    plain (ofInt t.width (sgn t.width x / (2 ^ (y % t.width) : Nat))))) s

end Sys2Proof.Machine
end

