-- ==== Sys2Proof/Machine/VecMove.lean ====
section
/-!
DEFINITION. Majors 0x25 to 0x27: moves, permutes and relative register addressing (R184, R185).
-/

namespace Sys2Proof.Machine

def execVmov (t : ETy) (d : VReg) (a : VSrc) (m : Bool) (s : State) :=
  opE (.vmov t d a m) t m d (s.map1 t.width a plain) s
def execVsplat (t : ETy) (d : VReg) (a : VSrc) (m : Bool) (s : State) :=
  opE (.vsplat t d a m) t m d (List.replicate (tyCount t) (plain (low t.width (s.sV a).toNat))) s
/-- By sign for integer types without N, by zero otherwise. -/
def execVext (t : ETy) (n : Bool) (d : VReg) (a b : VSrc) (s : State) :=
  let x := lget (s.eV t.width a.r) ((s.sV b).toNat % tyCount t) 0
  opVS (.vext t n d a b) d (if t.isInt && !n then BitVec.ofInt 64 (sgn t.width x) else BitVec.ofNat 64 x) s
def execVins (t : ETy) (d : VReg) (a b : VSrc) (m : Bool) (s : State) :=
  let p := (s.sV b).toNat % tyCount t
  opE (.vins t d a b m) t m d (mapFrom (fun i x => plain (if i = p then low t.width (s.sV a).toNat else x)) 0
    (s.eV t.width d)) s
def execVidx (t : ETy) (d : VReg) (a : VSrc) (m : Bool) (s : State) :=
  opE (.vidx t d a m) t m d ((List.range (tyCount t)).map (fun i => plain (low t.width ((s.sV a).toNat + i)))) s

def execVperm (t : ETy) (d : VReg) (a b : VSrc) (m : Bool) (s : State) :=
  let l := s.eV t.width a.r
  opE (.vperm t d a b m) t m d ((s.eV t.width b.r).map (fun i => plain (lget l (i % tyCount t) 0))) s
def execVrot (t : ETy) (d : VReg) (a b : VSrc) (m : Bool) (s : State) :=
  let l := s.eV t.width a.r
  let k := (s.sV b).toNat % tyCount t
  opE (.vrot t d a b m) t m d ((l.drop k ++ l.take k).map plain) s
/-- Positions whose source lies outside the register become zero. -/
def execVslide (t : ETy) (d : VReg) (a b : VSrc) (m : Bool) (s : State) :=
  let l := s.eV t.width a.r
  opE (.vslide t d a b m) t m d ((List.range (tyCount t)).map (fun (i : Nat) =>
    let j := (i : Int) + (s.sV b).toInt
    plain (if 0 ≤ j ∧ j < tyCount t then lget l j.toNat 0 else 0))) s

/-- z[2j] = a[j], z[2j+1] = b[j]. -/
def zipL : List Nat → List Nat → List Nat
  | a :: s, b :: t => a :: b :: zipL s t
  | _, _ => []

/-- Elements of even places and of odd places. -/
def evens : List Nat → List Nat
  | a :: _ :: t => a :: evens t
  | l => l
def odds : List Nat → List Nat
  | _ :: b :: t => b :: odds t
  | _ => []

/-- An instruction that writes k registers from d on. -/
def opRun (i : Instr) (w : Nat) (m : Bool) (d k : Nat) (res : List FRes) (s : State) : Host.Outcome State Fault Refusal :=
  issue i s (.ok (fun u => u.putE w m d k res))

def execVzip (t : ETy) (d : VReg) (a b : VSrc) (m : Bool) (s : State) :=
  opRun (.vzip t d a b m) t.width m d.val 2 ((zipL (s.eV t.width a.r) (s.eV t.width b.r)).map plain) s
def execVunzip (t : ETy) (d : VReg) (a : VSrc) (m : Bool) (s : State) :=
  let z := s.eRun t.width a.r.val 2
  opRun (.vunzip t d a m) t.width m d.val 2 ((evens z ++ odds z).map plain) s

/-- VGETR reads the register whose number it computes; LA kills that register. -/
def execVgetr (t : ETy) (d : VReg) (base b : VSrc) (m : Bool) (s : State) : Host.Outcome State Fault Refusal :=
  let k := (base.r.val : Int) + (s.sV b).toInt
  issue (.vgetr t d base b m) s (
    if k < 0 ∨ (s.alloc : Int) ≤ k then .trap tREGBOUND 0
    else if !s.ln.vLive k.toNat then .trap tDEADREG 0
    else .ok (fun u =>
      let u := u.putE t.width m d.val 1 ((elems t.width (tyCount t) (s.rVn k.toNat).toNat).map plain)
      if base.last ∧ k.toNat ≠ d.val then
        u.onLn (fun l => { l with liveV := l.liveV &&& ~~~(BitVec.twoPow 32 k.toNat) })
      else u))

/-- VPUTR writes the register whose number it computes; a masked write reads it too. -/
def execVputr (t : ETy) (base : VReg) (a b : VSrc) (m : Bool) (s : State) : Host.Outcome State Fault Refusal :=
  let k := (base.val : Int) + (s.sV b).toInt
  issue (.vputr t base a b m) s (
    if k < 0 ∨ (s.alloc : Int) ≤ k then .trap tREGBOUND 0
    else if m && !s.ln.vLive k.toNat then .trap tDEADREG 0
    else .ok (fun u => u.putE t.width m k.toNat 1 ((s.eV t.width a.r).map plain)))

end Sys2Proof.Machine
end

