-- ==== Sys2Proof/Machine/VecConvert.lean ====
section
/-!
DEFINITION. Major 0x28: conversion, widening, narrowing and VFMT (R186 to R190).
-/

namespace Sys2Proof.Machine

/-- The format that x8 means (R79). -/
def State.nfFmt (s : State) : BitVec 32 := lget s.ln.fmt.toList (s.ln.nf.toNat % 8) 0

/-- An element as an exact value (R187). -/
def cvtVal (st : ETy) (sn : Bool) (fmt : BitVec 32) (x : Nat) : FVal :=
  if st.isInt then intV (valOf sn st.width x)
  else if st = .x8 then nfDecode fmt (x % 2 ^ nfW fmt)
  else unpackF (fmtOf st) x

/-- Conversion of one element. -/
def cvtE (t : ETy) (n : Bool) (st : ETy) (sn : Bool) (rm : RMode) (fmt : BitVec 32) (x : Nat) : FRes :=
  if t.isInt then
    if st.isInt then plain (ofInt t.width (valOf sn st.width x))
    else toIntF rm n t.width (cvtVal st sn fmt x)
  else if t = .x8 then nfEncode fmt (cvtVal st sn fmt x)
  else roundV (fmtOf t) rm (cvtVal st sn fmt x)

def execVcvt (t : ETy) (n : Bool) (d : VReg) (a : VSrc) (st : ETy) (sn : Bool) (m : Bool) (s : State) :
    Host.Outcome State Fault Refusal :=
  let src := s.eRun st.width a.r.val (cvtSrcs t st a.r.val).length
  issue (.vcvt t n d a st sn m) s (
    if (t = .x8 ∨ st = .x8) ∧ !nfValid s.nfFmt then .trap tFORMAT 0
    else .ok (fun u => u.putE t.width m d.val (cvtDsts t st d.val).length (src.map (cvtE t n st sn s.fpcMode s.nfFmt))))

/-- The type of twice the width (R188). -/
def wideTy : ETy → ETy
  | .i4 => .i8
  | .i8 => .i16
  | .i16 => .i32
  | _ => .f32

/-- A widening operation: exact integers, or floats rounded once into f32. -/
def wideE (t : ETy) (n mulp : Bool) (rm : RMode) (a b : Nat) : FRes :=
  if t.isInt then
    let x := valOf n t.width a
    let y := valOf n t.width b
    plain (ofInt (2 * t.width) (if mulp then x * y else x + y))
  else
    let x := unpackF (fmtOf t) a
    let y := unpackF (fmtOf t) b
    if mulp then mulF fmtF32 rm x y else addV fmtF32 rm x y

def execVwadd (t : ETy) (n : Bool) (d : VReg) (a b : VSrc) (m : Bool) (s : State) :=
  opRun (.vwadd t n d a b m) (wideTy t).width m d.val 2 (s.map2 t.width a b (wideE t n false s.fpcMode)) s
def execVwmul (t : ETy) (n : Bool) (d : VReg) (a b : VSrc) (m : Bool) (s : State) :=
  opRun (.vwmul t n d a b m) (wideTy t).width m d.val 2 (s.map2 t.width a b (wideE t n true s.fpcMode)) s

/-- x / 2^k rounded to the nearest integer, ties to even. -/
def rneShift (x : Int) (k : Nat) : Int :=
  let p : Int := (2 ^ k : Nat)
  let q := x / p
  let r := x % p
  if p < 2 * r ∨ (2 * r = p ∧ q % 2 ≠ 0) then q + 1 else q

def execVnarrow (t : ETy) (n : Bool) (d : VReg) (a : VSrc) (sh : Fin 32) (m : Bool) (s : State) :=
  opE (.vnarrow t n d a sh m) t m d ((s.eRun (2 * t.width) a.r.val 2).map (fun x =>
    plain (ofInt t.width (clampInt n t.width (rneShift (valOf n (2 * t.width) x) sh.val))))) s

/-- VFMT makes no validity check. -/
def execVfmt (k : Fin 8) (a : VSrc) (s : State) : Host.Outcome State Fault Refusal :=
  issue (.vfmt k a) s (.ok (fun u => u.onLn (fun l => { l with
    fmt := l.fmt.set k.val (BitVec.ofNat 32 ((s.sV a).toNat % 2 ^ 18)) })))

end Sys2Proof.Machine
end

