-- ==== Sys2Proof/Machine/VecReduce.lean ====
section
/-!
DEFINITION. Majors 0x29 and 0x2A: fixed-tree reductions, sorting and selection (R191 to R194).
-/

namespace Sys2Proof.Machine

/-- The root of a tree and the flags of its nodes. -/
def treeRoot (op : Nat → Nat → FRes) (k : Nat) (l : List (Option Nat)) : FRes :=
  let r := treeLevels op k l
  ((lget (lget r.1 k []) 0 none).getD 0, r.2)

/-- log2 of the elements per register. -/
def tyLog (t : ETy) : Nat := (tyCount t).log2

/-- An instruction that writes one register whole, with flags. -/
def opWhole (i : Instr) (d : VReg) (x : Vec) (fl : Nat) (s : State) : Host.Outcome State Fault Refusal :=
  issue i s (.ok (fun u => (u.raiseFpc fl).wV d x))

def execVred (t : ETy) (n : Bool) (d : VReg) (a : VSrc) (op : RedOp) (m : Bool) (s : State) :=
  let r := treeRoot (redOp t n s.fpcMode op) (tyLog t) (leaves m s.m0 (s.eV t.width a.r))
  opWhole (.vred t n d a op m) d (vecOf t.width [r.1]) r.2 s

/-- The type of VDOT's result. -/
def dotTy (t : ETy) : ETy := if t.isInt then .i32 else .f32

/-- A product of VDOT. -/
def dotE (t : ETy) (n : Bool) (rm : RMode) (a b : Nat) : FRes :=
  if t.isInt then plain (ofInt 32 (valOf n t.width a * valOf n t.width b))
  else mulF fmtF32 rm (unpackF (fmtOf t) a) (unpackF (fmtOf t) b)

/-- A position whose m0 bit is clear forms no product. -/
def execVdot (t : ETy) (n : Bool) (d : VReg) (a b : VSrc) (m : Bool) (s : State) :=
  let p := s.map2 t.width a b (dotE t n s.fpcMode)
  let fl := orFlags (mergeE m s.m0 0 (p.map (fun _ => 0)) p)
  let r := treeRoot (redOp (dotTy t) n s.fpcMode .sum) (tyLog t) (leaves m s.m0 (p.map (fun x => x.1)))
  opWhole (.vdot t n d a b m) d (vecOf 32 [r.1]) (fl ||| r.2) s

/-- Every d[i] is written; with M = 1 only sources are masked (DEDUCED, log entry 22). -/
def execVscan (t : ETy) (n : Bool) (d : VReg) (a : VSrc) (op : RedOp) (m : Bool) (s : State) :=
  let f := redOp t n s.fpcMode op
  let lv := treeLevels f (tyLog t) (leaves m s.m0 (s.eV t.width a.r))
  let p := (List.range (tyCount t)).map (fun i => prefixOf f lv.1 (i + 1) (tyLog t + 1) 0 (none, 0))
  opWhole (.vscan t n d a op m) d (vecOf t.width (p.map (fun x => x.1.getD 0)))
    (p.foldl (fun fl x => fl ||| x.2) lv.2) s

/-! Sorting. -/

/-- log2 of the number of elements of a run of 2^k registers. -/
def runLog (t : ETy) (k : Nat) : Nat := tyLog t + k

/-- Keys paired with what moves along. -/
def keyed {α : Type} (t : ETy) (n : Bool) (keys : List Nat) (vals : List α) : List (Nat × α) :=
  List.zipWith (fun k v => (sortKey t n k, v)) keys vals

def execVsort (t : ETy) (n : Bool) (d : VReg) (logk : Fin 4) (desc : Bool) (s : State) : Host.Outcome State Fault Refusal :=
  let x := s.eRun t.width d.val (2 ^ logk.val)
  let r := sortKeys desc (runLog t logk.val) (keyed t n x x)
  issue (.vsort t n d logk desc) s (.ok (fun u => u.putRun t.width d.val (r.map (fun p => p.2)) (2 ^ logk.val)))

def execVsortkv (t : ETy) (n : Bool) (d : VReg) (a : VSrc) (logk : Fin 4) (desc : Bool) (s : State) :
    Host.Outcome State Fault Refusal :=
  let x := s.eRun t.width d.val (2 ^ logk.val)
  let y := s.eRun t.width a.r.val (2 ^ logk.val)
  let r := sortKeys desc (runLog t logk.val) (keyed t n x (x.zip y))
  issue (.vsortkv t n d a logk desc) s (.ok (fun u =>
    (u.putRun t.width d.val (r.map (fun p => p.2.1)) (2 ^ logk.val)).putRun t.width a.r.val
      (r.map (fun p => p.2.2)) (2 ^ logk.val)))

def execVmerge (t : ETy) (n : Bool) (d : VReg) (a b : VSrc) (s : State) : Host.Outcome State Fault Refusal :=
  let x := s.eV t.width a.r ++ s.eV t.width b.r
  let r := sortKeys false (runLog t 1) (keyed t n x x)
  issue (.vmerge t n d a b) s (.ok (fun u => u.putRun t.width d.val (r.map (fun p => p.2)) 2))

/-- VTOPK's own checks in their order (R194). -/
def State.topkBad (s : State) (t : ETy) (a : Nat) (w : Word) : Option Nat :=
  let k := w.toNat % 256
  let r := w.toNat / 256 % 16
  if k = 0 ∨ 128 < k ∨ !(r = 1 ∨ r = 2 ∨ r = 4 ∨ r = 8) ∨ 1024 < r * tyCount t ∨ 4096 ≤ w.toNat then some tILLEGAL
  else if s.alloc < a + r then some tREGBOUND
  else if (List.range' a r).all s.ln.vLive then none
  else some tDEADREG

/-- The k greatest keys, and their source positions as n32. -/
def execVtopk (t : ETy) (n : Bool) (d : VReg) (a b : VSrc) (s : State) : Host.Outcome State Fault Refusal :=
  let k := (s.sV b).toNat % 256
  let r := (s.sV b).toNat / 256 % 16
  let x := s.eRun t.width a.r.val r
  let best := (sortKeys true (runLog t r.log2) (keyed t n x (x.zip (List.range x.length)))).take k
  issue (.vtopk t n d a b) s (match s.topkBad t a.r.val (s.sV b) with
    | some c => .trap c 0
    | none => .ok (fun u => (u.wV d (vecOf t.width (best.map (fun p => p.2.1)))).wVn (d.val + 1)
        (vecOf 32 (best.map (fun p => p.2.2)))))

end Sys2Proof.Machine
end

