-- ==== Sys2Proof/Machine/Dispatch.lean ====
section
/-!
DEFINITION. The dispatch of instructions and events to their meanings: one arm per constructor of Instr.
-/

namespace Sys2Proof.Machine

def exec (i : Instr) (s : State) : Host.Outcome State Fault Refusal :=
  match i with
  | .add d a b => Sys2Proof.Machine.execAdd d a b s
  | .sub d a b => Sys2Proof.Machine.execSub d a b s
  | .mul d a b => Sys2Proof.Machine.execMul d a b s
  | .mulh d a b => Sys2Proof.Machine.execMulh d a b s
  | .mulhn d a b => Sys2Proof.Machine.execMulhn d a b s
  | .div d a b => Sys2Proof.Machine.execDiv d a b s
  | .divn d a b => Sys2Proof.Machine.execDivn d a b s
  | .rem d a b => Sys2Proof.Machine.execRem d a b s
  | .remn d a b => Sys2Proof.Machine.execRemn d a b s
  | .min d a b => Sys2Proof.Machine.execMin d a b s
  | .max d a b => Sys2Proof.Machine.execMax d a b s
  | .minn d a b => Sys2Proof.Machine.execMinn d a b s
  | .maxn d a b => Sys2Proof.Machine.execMaxn d a b s
  | .abs d a => Sys2Proof.Machine.execAbs d a s
  | .and d a b => Sys2Proof.Machine.execAnd d a b s
  | .or d a b => Sys2Proof.Machine.execOr d a b s
  | .xor d a b => Sys2Proof.Machine.execXor d a b s
  | .andn d a b => Sys2Proof.Machine.execAndn d a b s
  | .shl d a b => Sys2Proof.Machine.execShl d a b s
  | .shr d a b => Sys2Proof.Machine.execShr d a b s
  | .sra d a b => Sys2Proof.Machine.execSra d a b s
  | .rol d a b => Sys2Proof.Machine.execRol d a b s
  | .slt d a b => Sys2Proof.Machine.execSlt d a b s
  | .sltn d a b => Sys2Proof.Machine.execSltn d a b s
  | .seq d a b => Sys2Proof.Machine.execSeq d a b s
  | .sne d a b => Sys2Proof.Machine.execSne d a b s
  | .csel d a b => Sys2Proof.Machine.execCsel d a b s
  | .clz d a => Sys2Proof.Machine.execClz d a s
  | .ctz d a => Sys2Proof.Machine.execCtz d a s
  | .popc d a => Sys2Proof.Machine.execPopc d a s
  | .brev d a => Sys2Proof.Machine.execBrev d a s
  | .bswap d a => Sys2Proof.Machine.execBswap d a s
  | .exts d a k => Sys2Proof.Machine.execExts d a k s
  | .extz d a k => Sys2Proof.Machine.execExtz d a k s
  | .fadd d a b => Sys2Proof.Machine.execFadd d a b s
  | .fsub d a b => Sys2Proof.Machine.execFsub d a b s
  | .fmul d a b => Sys2Proof.Machine.execFmul d a b s
  | .fma d a b => Sys2Proof.Machine.execFma d a b s
  | .fdiv d a b => Sys2Proof.Machine.execFdiv d a b s
  | .fsqrt d a rm => Sys2Proof.Machine.execFsqrt d a rm s
  | .fmin d a b => Sys2Proof.Machine.execFmin d a b s
  | .fmax d a b => Sys2Proof.Machine.execFmax d a b s
  | .fcmp d a b => Sys2Proof.Machine.execFcmp d a b s
  | .fcvti d a rm => Sys2Proof.Machine.execFcvti d a rm s
  | .icvtf d a rm => Sys2Proof.Machine.execIcvtf d a rm s
  | .fclass d a => Sys2Proof.Machine.execFclass d a s
  | .cmov d a => Sys2Proof.Machine.execCmov d a s
  | .cinc d a b => Sys2Proof.Machine.execCinc d a b s
  | .cbound d a b => Sys2Proof.Machine.execCbound d a b s
  | .crights d a b => Sys2Proof.Machine.execCrights d a b s
  | .cget d a k => Sys2Proof.Machine.execCget d a k s
  | .ctest d a b => Sys2Proof.Machine.execCtest d a b s
  | .cinci d a imm => Sys2Proof.Machine.execCinci d a imm s
  | .mfs d n => Sys2Proof.Machine.execMfs d n s
  | .mts n a => Sys2Proof.Machine.execMts n a s
  | .trap a => Sys2Proof.Machine.execTrap a s
  | .tret a => Sys2Proof.Machine.execTret a s
  | .sysrd d a => Sys2Proof.Machine.execSysrd d a s
  | .syswr a b => Sys2Proof.Machine.execSyswr a b s
  | .addi d a imm => Sys2Proof.Machine.execAddi d a imm s
  | .andi d a imm => Sys2Proof.Machine.execAndi d a imm s
  | .ori d a imm => Sys2Proof.Machine.execOri d a imm s
  | .xori d a imm => Sys2Proof.Machine.execXori d a imm s
  | .shli d a n => Sys2Proof.Machine.execShli d a n s
  | .shri d a n => Sys2Proof.Machine.execShri d a n s
  | .srai d a n => Sys2Proof.Machine.execSrai d a n s
  | .slti d a imm => Sys2Proof.Machine.execSlti d a imm s
  | .movhi d imm => Sys2Proof.Machine.execMovhi d imm s
  | .addpc d imm => Sys2Proof.Machine.execAddpc d imm s
  | .beqz a off => Sys2Proof.Machine.execBeqz a off s
  | .bnez a off => Sys2Proof.Machine.execBnez a off s
  | .bltz a off => Sys2Proof.Machine.execBltz a off s
  | .bgez a off => Sys2Proof.Machine.execBgez a off s
  | .bgtz a off => Sys2Proof.Machine.execBgtz a off s
  | .blez a off => Sys2Proof.Machine.execBlez a off s
  | .j off => Sys2Proof.Machine.execJ off s
  | .jal off => Sys2Proof.Machine.execJal off s
  | .jalr d a imm => Sys2Proof.Machine.execJalr d a imm s
  | .loop a off => Sys2Proof.Machine.execLoop a off s
  | .sig v => Sys2Proof.Machine.execSig v s
  | .nop => Sys2Proof.Machine.execNop s
  | .yield => Sys2Proof.Machine.execYield s
  | .endOp => Sys2Proof.Machine.execEnd s
  | .vadd t d a b m => Sys2Proof.Machine.execVadd t d a b m s
  | .vsub t d a b m => Sys2Proof.Machine.execVsub t d a b m s
  | .vmul t d a b m => Sys2Proof.Machine.execVmul t d a b m s
  | .vmulh t n d a b m => Sys2Proof.Machine.execVmulh t n d a b m s
  | .vadds t n d a b m => Sys2Proof.Machine.execVadds t n d a b m s
  | .vsubs t n d a b m => Sys2Proof.Machine.execVsubs t n d a b m s
  | .vmin t n d a b m => Sys2Proof.Machine.execVmin t n d a b m s
  | .vmax t n d a b m => Sys2Proof.Machine.execVmax t n d a b m s
  | .vabs t d a m => Sys2Proof.Machine.execVabs t d a m s
  | .vneg t d a m => Sys2Proof.Machine.execVneg t d a m s
  | .vdiv t n d a b m => Sys2Proof.Machine.execVdiv t n d a b m s
  | .vfma t d a b m => Sys2Proof.Machine.execVfma t d a b m s
  | .vfms t d a b m => Sys2Proof.Machine.execVfms t d a b m s
  | .vfnma t d a b m => Sys2Proof.Machine.execVfnma t d a b m s
  | .vand t d a b m => Sys2Proof.Machine.execVand t d a b m s
  | .vor t d a b m => Sys2Proof.Machine.execVor t d a b m s
  | .vxor t d a b m => Sys2Proof.Machine.execVxor t d a b m s
  | .vnot t d a m => Sys2Proof.Machine.execVnot t d a m s
  | .vshl t d a b m => Sys2Proof.Machine.execVshl t d a b m s
  | .vshr t d a b m => Sys2Proof.Machine.execVshr t d a b m s
  | .vsra t d a b m => Sys2Proof.Machine.execVsra t d a b m s
  | .vcmpeq t n d a b m => Sys2Proof.Machine.execVcmpeq t n d a b m s
  | .vcmpne t n d a b m => Sys2Proof.Machine.execVcmpne t n d a b m s
  | .vcmplt t n d a b m => Sys2Proof.Machine.execVcmplt t n d a b m s
  | .vcmple t n d a b m => Sys2Proof.Machine.execVcmple t n d a b m s
  | .vcmpgt t n d a b m => Sys2Proof.Machine.execVcmpgt t n d a b m s
  | .vcmpge t n d a b m => Sys2Proof.Machine.execVcmpge t n d a b m s
  | .vsel t d a b => Sys2Proof.Machine.execVsel t d a b s
  | .mand t d a b => Sys2Proof.Machine.execMand t d a b s
  | .mor t d a b => Sys2Proof.Machine.execMor t d a b s
  | .mxor t d a b => Sys2Proof.Machine.execMxor t d a b s
  | .mnot t d a => Sys2Proof.Machine.execMnot t d a s
  | .mpop t d a => Sys2Proof.Machine.execMpop t d a s
  | .mfirst t d a => Sys2Proof.Machine.execMfirst t d a s
  | .mset t d a => Sys2Proof.Machine.execMset t d a s
  | .vmov t d a m => Sys2Proof.Machine.execVmov t d a m s
  | .vsplat t d a m => Sys2Proof.Machine.execVsplat t d a m s
  | .vext t n d a b => Sys2Proof.Machine.execVext t n d a b s
  | .vins t d a b m => Sys2Proof.Machine.execVins t d a b m s
  | .vidx t d a m => Sys2Proof.Machine.execVidx t d a m s
  | .vperm t d a b m => Sys2Proof.Machine.execVperm t d a b m s
  | .vrot t d a b m => Sys2Proof.Machine.execVrot t d a b m s
  | .vslide t d a b m => Sys2Proof.Machine.execVslide t d a b m s
  | .vzip t d a b m => Sys2Proof.Machine.execVzip t d a b m s
  | .vunzip t d a m => Sys2Proof.Machine.execVunzip t d a m s
  | .vgetr t d base b m => Sys2Proof.Machine.execVgetr t d base b m s
  | .vputr t base a b m => Sys2Proof.Machine.execVputr t base a b m s
  | .vcvt t n d a st sn m => Sys2Proof.Machine.execVcvt t n d a st sn m s
  | .vwadd t n d a b m => Sys2Proof.Machine.execVwadd t n d a b m s
  | .vwmul t n d a b m => Sys2Proof.Machine.execVwmul t n d a b m s
  | .vnarrow t n d a sh m => Sys2Proof.Machine.execVnarrow t n d a sh m s
  | .vfmt k a => Sys2Proof.Machine.execVfmt k a s
  | .vred t n d a op m => Sys2Proof.Machine.execVred t n d a op m s
  | .vdot t n d a b m => Sys2Proof.Machine.execVdot t n d a b m s
  | .vscan t n d a op m => Sys2Proof.Machine.execVscan t n d a op m s
  | .vsort t n d logk desc => Sys2Proof.Machine.execVsort t n d logk desc s
  | .vsortkv t n d a logk desc => Sys2Proof.Machine.execVsortkv t n d a logk desc s
  | .vmerge t n d a b => Sys2Proof.Machine.execVmerge t n d a b s
  | .vtopk t n d a b => Sys2Proof.Machine.execVtopk t n d a b s
  | .vrcp d a m => Sys2Proof.Machine.execVrcp d a m s
  | .vrsq d a m => Sys2Proof.Machine.execVrsq d a m s
  | .vsqrt d a rm m => Sys2Proof.Machine.execVsqrt d a rm m s
  | .vexp2 d a m => Sys2Proof.Machine.execVexp2 d a m s
  | .vlog2 d a m => Sys2Proof.Machine.execVlog2 d a m s
  | .vtanh d a m => Sys2Proof.Machine.execVtanh d a m s
  | .vrand n d a b m => Sys2Proof.Machine.execVrand n d a b m s
  | .vpackt t d a => Sys2Proof.Machine.execVpackt t d a s
  | .vunpkt t d a => Sys2Proof.Machine.execVunpkt t d a s
  | .vtchk d a => Sys2Proof.Machine.execVtchk d a s
  | .lds t d a imm => Sys2Proof.Machine.execLds t d a imm s
  | .sts w d a imm => Sys2Proof.Machine.execSts w d a imm s
  | .vlds d a imm => Sys2Proof.Machine.execVlds d a imm s
  | .vsts d a imm => Sys2Proof.Machine.execVsts d a imm s
  | .vldss d a b => Sys2Proof.Machine.execVldss d a b s
  | .vstss d a b => Sys2Proof.Machine.execVstss d a b s
  | .vgats d a b => Sys2Proof.Machine.execVgats d a b s
  | .vscts d a b => Sys2Proof.Machine.execVscts d a b s
  | .vldb d a b => Sys2Proof.Machine.execVldb d a b s
  | .vstb d a b => Sys2Proof.Machine.execVstb d a b s
  | .stn w d a imm => Sys2Proof.Machine.execStn w d a imm s
  | .vstn w d a imm => Sys2Proof.Machine.execVstn w d a imm s
  | .ldf d a imm => Sys2Proof.Machine.execLdf d a imm s
  | .vldf d a imm => Sys2Proof.Machine.execVldf d a imm s
  | .fclr d a imm => Sys2Proof.Machine.execFclr d a imm s
  | .fset d a imm => Sys2Proof.Machine.execFset d a imm s
  | .waita d a imm => Sys2Proof.Machine.execWaita d a imm s
  | .binit a b => Sys2Proof.Machine.execBinit a b s
  | .barr a => Sys2Proof.Machine.execBarr a s
  | .bwait a b => Sys2Proof.Machine.execBwait a b s
  | .bstat d a => Sys2Proof.Machine.execBstat d a s
  | .ldx lk w o d g => Sys2Proof.Machine.execLdx lk w o d g s
  | .stx lk w o g b => Sys2Proof.Machine.execStx lk w o g b s
  | .vldx lk o d g => Sys2Proof.Machine.execVldx lk o d g s
  | .vstx lk o g b => Sys2Proof.Machine.execVstx lk o g b s
  | .ldc lk o d g => Sys2Proof.Machine.execLdc lk o d g s
  | .stc lk o g b => Sys2Proof.Machine.execStc lk o g b s
  | .join lk t w o g b => Sys2Proof.Machine.execJoin lk t w o g b s
  | .vjoin lk t w o g b => Sys2Proof.Machine.execVjoin lk t w o g b s
  | .vjoinx lk t w o g b p => Sys2Proof.Machine.execVjoinx lk t w o g b p s
  | .thr lk t w o d g b => Sys2Proof.Machine.execThr lk t w o d g b s
  | .thrf lk t w o d g b => Sys2Proof.Machine.execThrf lk t w o d g b s
  | .xrd lk t w o d g => Sys2Proof.Machine.execXrd lk t w o d g s
  | .vxrd lk t w o d g one => Sys2Proof.Machine.execVxrd lk t w o d g one s
  | .cap lk t w sc acq g b => Sys2Proof.Machine.execCap lk t w sc acq g b s
  | .fence lk sc => Sys2Proof.Machine.execFence lk sc s
  | .ofork lk d c b => Sys2Proof.Machine.execOfork lk d c b s
  | .twgo lk ch g => Sys2Proof.Machine.execTwgo lk ch g s
  | .twperm lk ch b => Sys2Proof.Machine.execTwperm lk ch b s
  | .twstat lk d ch k => Sys2Proof.Machine.execTwstat lk d ch k s
  | .twwait lk ch b => Sys2Proof.Machine.execTwwait lk ch b s
  | .spawn lk d a b c cls al pin => Sys2Proof.Machine.execSpawn lk d a b c cls al pin s
  | .spawnat lk d a b c cls al pin => Sys2Proof.Machine.execSpawnat lk d a b c cls al pin s
  | .tgnew lk d g ov => Sys2Proof.Machine.execTgnew lk d g ov s
  | .tgclose lk a c => Sys2Proof.Machine.execTgclose lk a c s
  | .cancel lk a => Sys2Proof.Machine.execCancel lk a s
  | .setdl lk a b => Sys2Proof.Machine.execSetdl lk a b s
  | .setbg lk a b => Sys2Proof.Machine.execSetbg lk a b s
  | .msg lk a b cls => Sys2Proof.Machine.execMsg lk a b cls s
  | .hreg lk a b c cls => Sys2Proof.Machine.execHreg lk a b c cls s
  | .hdrop lk cls => Sys2Proof.Machine.execHdrop lk cls s
  | .tlease lk => Sys2Proof.Machine.execTlease lk s
  | .trel lk => Sys2Proof.Machine.execTrel lk s
  | .tfmt lk kind k => Sys2Proof.Machine.execTfmt lk kind k s
  | .tldw lk g buf => Sys2Proof.Machine.execTldw lk g buf s
  | .tmma lk d a b imm buf => Sys2Proof.Machine.execTmma lk d a b imm buf s
  | .tdrain lk bf acc d a b imm vecScale buf => Sys2Proof.Machine.execTdrain lk bf acc d a b imm vecScale buf s
  | .tzero lk d b => Sys2Proof.Machine.execTzero lk d b s
  | .tstat lk d k => Sys2Proof.Machine.execTstat lk d k s
  | .dispatch task l => Sys2Proof.Machine.execDispatch task l s
  | .registersLoaded l => Sys2Proof.Machine.execRegistersLoaded l s
  | .frameLoadFault l => Sys2Proof.Machine.execFrameLoadFault l s
  | .localQueueFill task lcore => Sys2Proof.Machine.execLocalQueueFill task lcore s
  | .budgetExhausted l => Sys2Proof.Machine.execBudgetExhausted l s
  | .blockVerify l parity => Sys2Proof.Machine.execBlockVerify l parity s
  | .commitDrain l => Sys2Proof.Machine.execCommitDrain l s
  | .commitSave l => Sys2Proof.Machine.execCommitSave l s
  | .recordWrite l => Sys2Proof.Machine.execRecordWrite l s
  | .abandonTimeout l => Sys2Proof.Machine.execAbandonTimeout l s
  | .preemptionMessage lcore => Sys2Proof.Machine.execPreemptionMessage lcore s
  | .coreResume lcore => Sys2Proof.Machine.execCoreResume lcore s
  | .urgencyPreempt pkg => Sys2Proof.Machine.execUrgencyPreempt pkg s
  | .cancelMark gid pkg => Sys2Proof.Machine.execCancelMark gid pkg s
  | .cancelRequest gid lcore => Sys2Proof.Machine.execCancelRequest gid lcore s
  | .cancelFinish gid => Sys2Proof.Machine.execCancelFinish gid s
  | .reclaim gid => Sys2Proof.Machine.execReclaim gid s
  | .wake n => Sys2Proof.Machine.execWake n s
  | .fenceRelease task => Sys2Proof.Machine.execFenceRelease task s
  | .groupComplete gid => Sys2Proof.Machine.execGroupComplete gid s
  | .taskIdFree task => Sys2Proof.Machine.execTaskIdFree task s
  | .spawnAccept id => Sys2Proof.Machine.execSpawnAccept id s
  | .messageDeliver src => Sys2Proof.Machine.execMessageDeliver src s
  | .wheelTick pkg die => Sys2Proof.Machine.execWheelTick pkg die s
  | .watchRegister id => Sys2Proof.Machine.execWatchRegister id s
  | .watchRetry n => Sys2Proof.Machine.execWatchRetry n s
  | .joinApply id => Sys2Proof.Machine.execJoinApply id s
  | .tagExpiry n => Sys2Proof.Machine.execTagExpiry n s
  | .exclStoreApply id => Sys2Proof.Machine.execExclStoreApply id s
  | .capApply id => Sys2Proof.Machine.execCapApply id s
  | .readRequest l => Sys2Proof.Machine.execReadRequest l s
  | .readResponse l => Sys2Proof.Machine.execReadResponse l s
  | .readTimeout l => Sys2Proof.Machine.execReadTimeout l s
  | .joinAck id => Sys2Proof.Machine.execJoinAck id s
  | .joinResend id => Sys2Proof.Machine.execJoinResend id s
  | .linklost id => Sys2Proof.Machine.execLinklost id s
  | .splitResponse id => Sys2Proof.Machine.execSplitResponse id s
  | .flitReceive pkg port head rest merge => Sys2Proof.Machine.execFlitReceive pkg port head rest merge s
  | .linkReplay pkg port => Sys2Proof.Machine.execLinkReplay pkg port s
  | .controlResend what => Sys2Proof.Machine.execControlResend what s
  | .portLaneFailure pkg port failed => Sys2Proof.Machine.execPortLaneFailure pkg port failed s
  | .packageUnreachable pkg => Sys2Proof.Machine.execPackageUnreachable pkg s
  | .pageFaultService n => Sys2Proof.Machine.execPageFaultService n s
  | .skepFaultResume n ans => Sys2Proof.Machine.execSkepFaultResume n ans s
  | .faultServiceTimeout n => Sys2Proof.Machine.execFaultServiceTimeout n s
  | .sideLogReplay n => Sys2Proof.Machine.execSideLogReplay n s
  | .windowStoreApply id => Sys2Proof.Machine.execWindowStoreApply id s
  | .barrierArrival id => Sys2Proof.Machine.execBarrierArrival id s
  | .tweStart id => Sys2Proof.Machine.execTweStart id s
  | .twePermit id => Sys2Proof.Machine.execTwePermit id s
  | .tweRecordRead comb ch => Sys2Proof.Machine.execTweRecordRead comb ch s
  | .twePoll comb ch => Sys2Proof.Machine.execTwePoll comb ch s
  | .tweTransferDone comb ch => Sys2Proof.Machine.execTweTransferDone comb ch s
  | .twePayloadWrite comb what => Sys2Proof.Machine.execTwePayloadWrite comb what s
  | .leaseGrant comb => Sys2Proof.Machine.execLeaseGrant comb s
  | .slotEnd comb => Sys2Proof.Machine.execSlotEnd comb s
  | .slottabApply => Sys2Proof.Machine.execSlottabApply s
  | .tldwLoadEnd comb buf => Sys2Proof.Machine.execTldwLoadEnd comb buf s
  | .arrayCommandEnd comb => Sys2Proof.Machine.execArrayCommandEnd comb s
  | .timeSliceSwitch site => Sys2Proof.Machine.execTimeSliceSwitch site s
  | .holdSet site => Sys2Proof.Machine.execHoldSet site s
  | .holdSetRedispatch task => Sys2Proof.Machine.execHoldSetRedispatch task s
  | .heartbeat site => Sys2Proof.Machine.execHeartbeat site s
  | .heartbeatReceive frm at' seq hb => Sys2Proof.Machine.execHeartbeatReceive frm at' seq hb s
  | .heartbeatSilence frm at' => Sys2Proof.Machine.execHeartbeatSilence frm at' s
  | .accusation accused accuser heard => Sys2Proof.Machine.execAccusation accused accuser heard s
  | .accusationExpiry accused accuser => Sys2Proof.Machine.execAccusationExpiry accused accuser s
  | .fenceNotice site => Sys2Proof.Machine.execFenceNotice site s
  | .selftestDone site pass => Sys2Proof.Machine.execSelftestDone site pass s
  | .appealVote site voter => Sys2Proof.Machine.execAppealVote site voter s
  | .appealTimeout site => Sys2Proof.Machine.execAppealTimeout site s
  | .appealHoldExpiry site => Sys2Proof.Machine.execAppealHoldExpiry site s
  | .fenceRemap site choice => Sys2Proof.Machine.execFenceRemap site choice s
  | .faultCounterLeak u => Sys2Proof.Machine.execFaultCounterLeak u s
  | .correctedError u => Sys2Proof.Machine.execCorrectedError u s
  | .uncorrectableError u p => Sys2Proof.Machine.execUncorrectableError u p s
  | .scrub u addr => Sys2Proof.Machine.execScrub u addr s
  | .ttFire entry desc m => Sys2Proof.Machine.execTtFire entry desc m s
  | .launchStart => Sys2Proof.Machine.execLaunchStart s
  | .completionPost => Sys2Proof.Machine.execCompletionPost s
  | .launch desc m => Sys2Proof.Machine.execLaunch desc m s
  | .hostCancel => Sys2Proof.Machine.execHostCancel s
  | .setclass => Sys2Proof.Machine.execSetclass s
  | .release => Sys2Proof.Machine.execRelease s
  | .kill => Sys2Proof.Machine.execKill s
  | .ttwrite bytes => Sys2Proof.Machine.execTtwrite bytes s
  | .preempt => Sys2Proof.Machine.execPreempt s
  | .sqtail tail entries => Sys2Proof.Machine.execSqtail tail entries s
  | .cqhead head => Sys2Proof.Machine.execCqhead head s
  | .ringConfigWrite off v => Sys2Proof.Machine.execRingConfigWrite off v s
  | .mbox pkg addr req => Sys2Proof.Machine.execMbox pkg addr req s
  | .imgload req => Sys2Proof.Machine.execImgload req s
  | .imageLoaded img => Sys2Proof.Machine.execImageLoaded img s
  | .flogcons src => Sys2Proof.Machine.execFlogcons src s
  | .flogmir addr => Sys2Proof.Machine.execFlogmir addr s
  | .fnmode id => Sys2Proof.Machine.execFnmode id s
  | .slottab id => Sys2Proof.Machine.execSlottab id s
  | .rsvlo id => Sys2Proof.Machine.execRsvlo id s
  | .rsvhi id => Sys2Proof.Machine.execRsvhi id s
  | .grpcls id => Sys2Proof.Machine.execGrpcls id s
  | .tttab id => Sys2Proof.Machine.execTttab id s
  | .attctl id => Sys2Proof.Machine.execAttctl id s
  | .attestDone pkg => Sys2Proof.Machine.execAttestDone pkg s
  | .pwrcap id => Sys2Proof.Machine.execPwrcap id s
  | .registerWrite id => Sys2Proof.Machine.execRegisterWrite id s
  | .ptpSync pkg offset domain => Sys2Proof.Machine.execPtpSync pkg offset domain s
  | .ptpHoldover pkg => Sys2Proof.Machine.execPtpHoldover pkg s
  | .clockThrottle pkg down => Sys2Proof.Machine.execClockThrottle pkg down s
  | .thermalShutdown pkg => Sys2Proof.Machine.execThermalShutdown pkg s
  | .reset pkg => Sys2Proof.Machine.execReset pkg s
  | .bootStepDone pkg fail => Sys2Proof.Machine.execBootStepDone pkg fail s
  | .functionLevelReset pkg vf => Sys2Proof.Machine.execFunctionLevelReset pkg vf s
  | .hotReset pkg => Sys2Proof.Machine.execHotReset pkg s
  | .unassignedEncoding => Sys2Proof.Machine.execUnassignedEncoding s
  | .fetchFault => Sys2Proof.Machine.execFetchFault s
  | .mboxRequestDone pkg result => Sys2Proof.Machine.execMboxRequestDone pkg result s
  | .portTrainingDone pkg port lanesUp peer => Sys2Proof.Machine.execPortTrainingDone pkg port lanesUp peer s

end Sys2Proof.Machine
end

