-- ==== Sys2Proof/Machine/Auto.lean ====
section
/-!
DEFINITION. The turn that comes next when State.sched is empty (DESIGN CHOICE, log entry 3): an event that is due, else an instruction of
a running lane, else time passes. Any order of turns that State.sched names is as good.
-/

namespace Sys2Proof.Machine

/-- The events that come about of themselves: the model's own list, without those whose data the outside gives. Each is an
event of Instr by its name. -/
inductive Due where
  | joinApply (id : Nat) | splitResponse (id : Nat) | exclStoreApply (id : Nat) | capApply (id : Nat)
  | windowStoreApply (id : Nat) | spawnAccept (id : Nat) | messageDeliver (id : Nat) | watchRegister (id : Nat)
  | barrierArrival (id : Nat) | tweStart (id : Nat) | twePermit (id : Nat) | flogcons (id : Nat) | fnmode (id : Nat)
  | slottab (id : Nat) | rsvlo (id : Nat) | rsvhi (id : Nat) | grpcls (id : Nat) | tttab (id : Nat)
  | attctl (id : Nat) | pwrcap (id : Nat) | registerWrite (id : Nat) | joinAck (id : Nat) | registersLoaded (l : Nat)
  | frameLoadFault (l : Nat) | readRequest (l : Nat) | readResponse (l : Nat) | readTimeout (l : Nat)
  | blockVerify (l : Nat) | commitDrain (l : Nat) | commitSave (l : Nat) | recordWrite (l : Nat)
  | abandonTimeout (l : Nat) | arrayCommandEnd (comb : Nat) | tldwLoadEnd (comb : Nat) (buf : Bool)
  | slotEnd (comb : Nat) | leaseGrant (comb : Nat) | tweRecordRead (comb ch : Nat) | twePayloadWrite (comb : Nat) (what : PayStep)
  | tweTransferDone (comb ch : Nat) | twePoll (comb ch : Nat) | timeSliceSwitch (site : Site)
  | cancelMark (gid pkg : Nat) | cancelRequest (gid lcore : Nat) | cancelFinish (gid : Nat) | reclaim (gid : Nat)
  | groupComplete (gid : Nat) | dispatch (task l : Nat) | wheelTick (pkg die : Nat) | fenceRelease (task : Nat)
  | taskIdFree (task : Nat) | bootStepDone (pkg : Nat) | holdSet (site : Site) | fenceNotice (site : Site)
  | holdSetRedispatch (task : Nat) | fenceRemap (site : Site) | appealTimeout (site : Site) | appealHoldExpiry (site : Site) | wake (n : Nat)
  | pageFaultService (n : Nat) | faultServiceTimeout (n : Nat) | sideLogReplay (n : Nat) | watchRetry (n : Nat)
  | preemptionMessage (lcore : Nat) | coreResume (lcore : Nat) | slottabApply | urgencyPreempt (pkg : Nat)
  | hostCancel | setclass | release | kill | preempt | completionPost | launchStart | attestDone (pkg : Nat)
  | tagExpiry (n : Nat)
  deriving DecidableEq, Repr

/-- What such an event does. -/
def runDue (d : Due) (s : State) : Host.Outcome State Fault Refusal :=
  match d with
  | .joinApply id => execJoinApply id s
  | .splitResponse id => execSplitResponse id s
  | .exclStoreApply id => execExclStoreApply id s
  | .capApply id => execCapApply id s
  | .windowStoreApply id => execWindowStoreApply id s
  | .spawnAccept id => execSpawnAccept id s
  | .messageDeliver id => execMessageDeliver (.effect id) s
  | .watchRegister id => execWatchRegister id s
  | .barrierArrival id => execBarrierArrival id s
  | .tweStart id => execTweStart id s
  | .twePermit id => execTwePermit id s
  | .flogcons id => execFlogcons (.effect id) s
  | .fnmode id => execFnmode id s
  | .slottab id => execSlottab id s
  | .rsvlo id => execRsvlo id s
  | .rsvhi id => execRsvhi id s
  | .grpcls id => execGrpcls id s
  | .tttab id => execTttab id s
  | .attctl id => execAttctl id s
  | .pwrcap id => execPwrcap id s
  | .registerWrite id => execRegisterWrite id s
  | .joinAck id => execJoinAck id s
  | .registersLoaded l => execRegistersLoaded l s
  | .frameLoadFault l => execFrameLoadFault l s
  | .readRequest l => execReadRequest l s
  | .readResponse l => execReadResponse l s
  | .readTimeout l => execReadTimeout l s
  | .blockVerify l => execBlockVerify l false s
  | .commitDrain l => execCommitDrain l s
  | .commitSave l => execCommitSave l s
  | .recordWrite l => execRecordWrite l s
  | .abandonTimeout l => execAbandonTimeout l s
  | .arrayCommandEnd comb => execArrayCommandEnd comb s
  | .tldwLoadEnd comb buf => execTldwLoadEnd comb buf s
  | .slotEnd comb => execSlotEnd comb s
  | .leaseGrant comb => execLeaseGrant comb s
  | .tweRecordRead comb ch => execTweRecordRead comb ch s
  | .twePayloadWrite comb what => execTwePayloadWrite comb what s
  | .tweTransferDone comb ch => execTweTransferDone comb ch s
  | .twePoll comb ch => execTwePoll comb ch s
  | .timeSliceSwitch site => execTimeSliceSwitch site s
  | .cancelMark gid pkg => execCancelMark gid pkg s
  | .cancelRequest gid lcore => execCancelRequest gid lcore s
  | .cancelFinish gid => execCancelFinish gid s
  | .reclaim gid => execReclaim gid s
  | .groupComplete gid => execGroupComplete gid s
  | .dispatch task l => execDispatch task l s
  | .wheelTick pkg die => execWheelTick pkg die s
  | .fenceRelease task => execFenceRelease task s
  | .taskIdFree task => execTaskIdFree task s
  | .bootStepDone pkg => execBootStepDone pkg none s
  | .holdSet site => execHoldSet site s
  | .fenceNotice site => execFenceNotice site s
  | .holdSetRedispatch task => execHoldSetRedispatch task s
  | .fenceRemap site => execFenceRemap site [] s
  | .appealTimeout site => execAppealTimeout site s
  | .appealHoldExpiry site => execAppealHoldExpiry site s
  | .wake n => execWake n s
  | .pageFaultService n => execPageFaultService n s
  | .faultServiceTimeout n => execFaultServiceTimeout n s
  | .sideLogReplay n => execSideLogReplay n s
  | .watchRetry n => execWatchRetry n s
  | .preemptionMessage lcore => execPreemptionMessage lcore s
  | .coreResume lcore => execCoreResume lcore s
  | .slottabApply => execSlottabApply s
  | .urgencyPreempt pkg => execUrgencyPreempt pkg s
  | .hostCancel => execHostCancel s
  | .setclass => execSetclass s
  | .release => execRelease s
  | .kill => execKill s
  | .preempt => execPreempt s
  | .completionPost => execCompletionPost s
  | .launchStart => execLaunchStart s
  | .attestDone pkg => execAttestDone pkg s
  | .tagExpiry n => execTagExpiry n s

/-- Does an outcome change the state? -/
def changed (s : State) : Host.Outcome State Fault Refusal → Bool
  | .next t => decide (t ≠ s)
  | _ => false

/-- Events that an effect on its way waits for. -/
def flitEvents (f : Flit) : List Due :=
  let n := f.id
  (match f.e.eff with
  | .join .. => [.joinApply n, .splitResponse n]
  | .store .. | .storeCap .. => [.exclStoreApply n]
  | .cap .. => [.capApply n]
  | .words .. => [.windowStoreApply n]
  | .spawn .. => [.spawnAccept n]
  | .msg _ => [.messageDeliver n]
  | .watch _ => [.watchRegister n]
  | .barr .. => [.barrierArrival n]
  | .payload c ch _ => [.twePayloadWrite c ⟨ch, some n⟩]
  | .twgo .. => [.tweStart n]
  | .twperm .. => [.twePermit n]
  | .cancel g => [.cancelMark g 0]
  | .syswr .. => [.flogcons n, .fnmode n, .slottab n, .rsvlo n, .rsvhi n, .grpcls n, .tttab n, .attctl n, .pwrcap n,
      .registerWrite n]
  | _ => []) ++ [.joinAck n]

/-- Events of a lane that is not idle. -/
def laneEvents (l : Nat) : List Due :=
  [.registersLoaded l, .frameLoadFault l, .readRequest l, .readResponse l, .readTimeout l, .blockVerify l, .commitDrain l,
    .commitSave l, .recordWrite l, .abandonTimeout l]

/-- Lanes that run records of the context in focus. -/
def State.busyLanes (s : State) : List Nat :=
  s.k.recs.filterMap (fun r => match r.2.st with
    | .active l => some l
    | _ => none)

/-- Events of a comb that the launch has used. -/
def combEvents (c : Nat) (x : CombSt) : List Due :=
  [.arrayCommandEnd c, .tldwLoadEnd c false, .tldwLoadEnd c true, .slotEnd c, .leaseGrant c] ++
    x.chans.flatMap (fun e => [.tweRecordRead c e.1, .twePayloadWrite c ⟨e.1, none⟩, .tweTransferDone c e.1, .twePoll c e.1])

/-- Physical combs that records use or, while they wait in their bank, would use, whose slices move on (R24). -/
def State.sliceEvents (s : State) : List Due :=
  let cs := s.busyLanes.map (fun l => laneComb l) ++ s.k.combs.map (fun e => e.1) ++ s.k.recs.filterMap (fun r =>
    if r.2.st = .ended then none
    else if r.2.f.pin then some (combOf (r.2.pkg * 2048 + r.2.f.pcore))
    else if r.2.st = .ready then some (combOf (r.2.pkg * 2048 + r.2.die * 256)) else none)
  (cs.map s.placeOf).map (fun x => .timeSliceSwitch ⟨x.1, x.2 / 64, x.2 % 64⟩)

/-- Events of a group; of a cancel, on each package and core that it concerns. -/
def State.groupEvents (s : State) (g : Nat) (x : Group) : List Due :=
  if x.status = 1 then (if s.isRoot g then [.groupComplete g] else [])
  else if x.cancelling then
    (List.range s.npkg).map (fun p => .cancelMark g p) ++ (s.busyLanes.map (fun l => .cancelRequest g (l / 8))) ++
      [.cancelFinish g, .reclaim g]
  else [.groupComplete g]

/-- The lanes of a record's die, then those of its package. -/
def State.lanesFor (s : State) (r : Rec) : List Nat :=
  let lanes (first n : Nat) : List Nat := (List.range n).flatMap (fun (i : Nat) => s.coreLanes (first + i))
  if r.f.pin then s.coreLanes (r.pkg * 2048 + r.f.pcore)
  else ((List.range 8).filter (fun d => d % s.ndies == r.die)).flatMap (fun d => lanes (r.pkg * 2048 + d * 256) 256) ++
    lanes (r.pkg * 2048) 2048

/-- The dispatch of a record to the first lane that is offered it. -/
def State.dispatchEvents (s : State) (n : Nat) (r : Rec) : List Due :=
  match r.st with
  | .ready | .loc _ =>
    if r.notBefore ≠ 0 then [.holdSetRedispatch n]
    else match (s.lanesFor r).find? (fun l => s.laneFree l && (s.offer l).any (fun x => x.1 == n)) with
    | some l => [.dispatch n l]
    | none => []
  | .timed _ => [.wheelTick r.pkg r.die]
  | .fenced _ => [.fenceRelease n]
  | .ended => [.taskIdFree n]
  | _ => []

/-- Events of packages: boot, and fences. -/
def packageEvents (p : Nat) (x : Pkg) : List Due :=
  (if x.state ≤ 1 then [.bootStepDone p] else []) ++
    x.wag.flatMap (fun e =>
      let site : Site := ⟨p, e.1 / 64, e.1 % 64⟩
      if e.2.st = .active then [] else [.holdSet site, .fenceNotice site, .fenceRemap site, .appealTimeout site, .appealHoldExpiry site])

/-- Everything that may be due for the context in focus, in the order in which it is tried. -/
def State.due (s : State) : List Due :=
  s.hw.flatMap (fun e => packageEvents e.1 e.2) ++
  (List.range s.k.wakes.length).map Due.wake ++
  s.k.flits.flatMap flitEvents ++
  (List.range s.k.faults.length).flatMap (fun n => [.pageFaultService n, .faultServiceTimeout n, .sideLogReplay n]) ++
  s.busyLanes.flatMap laneEvents ++
  (List.range s.k.refused.length).map Due.watchRetry ++
  s.k.cores.flatMap (fun e => [.preemptionMessage e.1, .coreResume e.1]) ++
  s.k.combs.flatMap (fun e => combEvents e.1 e.2) ++
  s.sliceEvents ++
  [.slottabApply] ++
  s.k.groups.flatMap (fun e => s.groupEvents e.1 e.2) ++
  (List.range s.npkg).map Due.urgencyPreempt ++
  s.k.recs.flatMap (fun e => s.dispatchEvents e.1 e.2) ++
  [.hostCancel, .setclass, .release, .kill, .preempt, .completionPost, .launchStart, .attestDone (s.k.attBusy.getD 0 / 2 ^ 2304),
    .tagExpiry 0]

/-- May a lane of the context in focus issue something that changes the state? -/
def State.mayIssue (s : State) (l : Nat) : Bool :=
  let s := s.focusLane l
  s.hasLane l && match s.toIssue with
  | some (w, i) => changed { s with ir := BitVec.ofNat 32 w } (exec i { s with ir := BitVec.ofNat 32 w })
  | none => false

/-- The lanes that run, beginning at a place that moves with the cycles. -/
def State.lanesInTurn (s : State) : List Nat :=
  let l := s.busyLanes
  let n := if l.length = 0 then 0 else s.cyc % l.length
  l.drop n ++ l.take n

/-- What comes next by itself: an event that is due, or an instruction of a lane. -/
inductive Choice where
  | due (ctx : Nat) (d : Due)
  | issue (ctx l : Nat)
  deriving DecidableEq, Repr

/-- What comes next in the context in focus. -/
def State.nextChoice (s : State) : Option Choice :=
  match s.due.find? (fun d => changed s (runDue d s)) with
  | some d => some (.due s.kid d)
  | none => (s.lanesInTurn.find? s.mayIssue).map (fun l => .issue s.kid l)

/-- Time in ns of n cycles at 1.1 GHz. -/
def nsOf (n : Nat) : Nat := n * 10 / 11

/-- The next choice over all contexts, the one in focus first. -/
def State.autoChoice (s : State) : Option Choice :=
  ((s.kid :: s.others.map (fun e => e.1)).filterMap (fun c => (s.focus c).nextChoice)).head?

end Sys2Proof.Machine
end

