-- ==== Sys2Proof/Machine/Pass.lean ====
section
/-!
DEFINITION. The passing of time: cycles and nanoseconds (R32, R112), the slew of a package's TIME (R316, R353), and what
waiting records find meanwhile (R308).
-/

namespace Sys2Proof.Machine

/-- TIME is slewed by at most 1 ns in 1,000 (R316, R353); t0 and t1 are the ends of an interval. -/
def Pkg.slewed (p : Pkg) (t0 t1 : Nat) : Pkg :=
  let n := min (t1 / 1000 - t0 / 1000) p.slew.natAbs
  let d : Int := if p.slew < 0 then -(n : Int) else n
  { p with ahead := p.ahead + d, slew := p.slew - d }

/-- Until a time, the READY records of the context in focus find an eligible idle lane where there is one, whatever PRECLS
allows (R308). -/
def State.markIdle (s : State) (now : Nat) : State :=
  s.onK (fun k => { k with recs := k.recs.map (fun e =>
    if e.2.st == .ready && s.idleFor e.2 then (e.1, { e.2 with lack := now }) else e) })

/-- The same in every context. -/
def State.markAll (s : State) (now : Nat) : State :=
  let on := (s.others.filter (fun e => e.2.recs.any (fun r => r.2.st == .ready))).map (fun e => e.1)
  let s1 := s.markIdle now
  if on.isEmpty then s1 else (on.foldl (fun t c => (t.focus c).markIdle now) s1).focus s.kid

/-- Cycles and nanoseconds pass. -/
def State.pass (s : State) (cycles ns : Nat) : State :=
  let s := if ns = 0 then s else
    let s1 := s.markAll (s.time + ns)
    if s1.hw.any (fun e => e.2.slew != 0) then
      { s1 with hw := s1.hw.map (fun e => (e.1, e.2.slewed s.time (s.time + ns))), time := s.time + ns }
    else { s1 with time := s.time + ns }
  if cycles = 0 then s
  else { s with
    cyc := s.cyc + cycles
    ln := s.ln.spend cycles
    k := s.k.spend cycles
    others := s.others.map (fun e => (e.1, e.2.spend cycles)) }

end Sys2Proof.Machine
end

