-- ==== Sys2Proof/Machine/Step.lean ====
section
/-!
DEFINITION. One step of the machine: one turn of State.sched, or what autoChoice finds due.
-/

namespace Sys2Proof.Machine

/-- A lane is told to issue (R96) (DESIGN CHOICE, log entry 1). -/
def State.issueOn (s : State) (l : Nat) : Host.Outcome State Fault Refusal :=
  if s.hasLane l then
    let s := s.focusLane l
    match s.toIssue with
    | some (w, i) => exec i { s with ir := BitVec.ofNat 32 w }
    | none => .next s
  else .fault .noLane

/-- What a turn does once time has passed. -/
def State.act (s : State) : Act → Host.Outcome State Fault Refusal
  | .event c i => exec i (s.focus c)
  | .issue c l => (s.focus c).issueOn l

/-- With no turn to come: a due event takes no time, an instruction a cycle, and with nothing to do 11 cycles pass. -/
def State.auto (s : State) : Host.Outcome State Fault Refusal :=
  match s.autoChoice with
  | some (.due c d) => runDue d (s.focus c)
  | some (.issue c l) => ((s.pass 1 (nsOf (s.cyc + 1) - nsOf s.cyc)).focus c).issueOn l
  | none => .next (s.pass 11 10)

/-- One step. -/
def step (s : State) : Host.Outcome State Fault Refusal :=
  match s.sched with
  | t :: rest => ({ s with sched := rest }.pass t.cycles t.ns).act t.act
  | [] => s.auto

/-- The state with an instruction where step fetches its next one; a machine that is not about to fetch gets the
launch of State.place first (DESIGN CHOICE, log entry 5). -/
def State.withFetchWord (s : State) (nbits w : Nat) : State :=
  let s := if s.fetching then s else s.place
  s.putAtPc (toBytes (w % 2 ^ nbits) 8)

end Sys2Proof.Machine
end

