-- ==== Sys2Proof/Safety.lean ====
section
/-!
DEFINITION. The terms that the statements use: which checks an instruction passes, what its retiring leaves of a lane,
what an effect entry looks like, and the invariant of every step.
-/

namespace Sys2Proof.Machine

/-! The invariant. -/

/-- Memory has its canonical form: cells by rising address, none equal to what an unlisted address reads as. -/
def State.Inv (s : State) : Prop := s.mem.wf = true

/-! Checks. -/

/-- The checks of R148 before an instruction's own ones all pass: the block has room and a SIG follows where one must
(R97), the order fits (R64), the privilege suffices, the registers lie in the allocation (REGBOUND), and every register
read is live (DEADREG). -/
structure State.Passes (s : State) (i : Instr) : Prop where
  block : s.ln.blk < 256
  sigNext : suspends i = true → s.sigAt (s.ln.pc.toNat + if isLong i then 8 else 4) = true
  order : orderBad i = false
  priv : privBad s.k.service i = false
  bound : ∀ n, n ∈ (foot i).readV ++ (foot i).wv → n < s.alloc ∧ n < 32
  liveS : ∀ n ∈ (foot i).readS, s.ln.sLive n = true
  liveV : ∀ n ∈ (foot i).readV, s.ln.vLive n = true
  liveM : ∀ n ∈ (foot i).readM, s.ln.mLive n = true
  liveC : ∀ n ∈ (foot i).readC, s.ln.cLive n = true

/-! Frames. -/

/-- What retiring i leaves of a lane l in m when i writes at most the scalar, vector, mask and capability registers of
the four lists: every other register keeps its value, exactly the marked sources that are not written die, and what is
written is live (R31, R104). The special registers but FPC and FLAGS, the task, the budget and what the activation has
reserved stay. -/
structure Lane.After (l m : Lane) (i : Instr) (ws wv wm wc : List Nat) : Prop where
  keepS : ∀ (r : Fin 64), r.val ∉ ws → m.s[r] = l.s[r]
  keepV : ∀ (r : Fin 32), r.val ∉ wv → m.v[r] = l.v[r]
  keepM : ∀ (r : Fin 8), r.val ∉ wm → m.m[r] = l.m[r]
  keepC : ∀ (r : Fin 16), r.val ∉ wc → m.c[r] = l.c[r]
  liveS : ∀ n < 64, m.sLive n = true ↔
    n = 0 ∨ n ∈ ws ∨ (l.sLive n = true ∧ ∀ a ∈ (foot i).ss, a.last = true → a.r.val ≠ n)
  liveV : ∀ n < 32, m.vLive n = true ↔
    n ∈ wv ∨ (l.vLive n = true ∧ ∀ a ∈ (foot i).vs, a.last = true → a.r.val ≠ n)
  liveM : ∀ n < 8, m.mLive n = true ↔
    n ∈ wm ∨ (l.mLive n = true ∧ ∀ a ∈ (foot i).ms, a.last = true → a.r.val ≠ n)
  liveC : ∀ n < 16, m.cLive n = true ↔
    n = 0 ∨ n = 15 ∨ n ∈ wc ∨ (l.cLive n = true ∧ ∀ a ∈ (foot i).cs, a.last = true → a.r.val ≠ n)
  nf : m.nf = l.nf
  fmt : m.fmt = l.fmt
  trapc : m.trapc = l.trapc
  trappc : m.trappc = l.trappc
  trapva : m.trapva = l.trapva
  budg : m.budg = l.budg
  task : m.task = l.task

/-- i has retired on the lane in focus of s and gone on at pc: the lane is as Lane.After says, FLAGS has at most counted
a misused lookahead (R169), and the block has grown by one instruction (R97). -/
structure State.Went (s t : State) (i : Instr) (pc : Word) (ws wv wm wc : List Nat) : Prop where
  lane : Lane.After s.ln t.ln i ws wv wm wc
  pc : t.ln.pc = pc
  flags : t.ln.flags = (if depends i s.ln then s.ln.countDep else s.ln).flags
  blk : t.ln.blk = s.ln.blk + 1

/-- i has gone on at the next instruction and changed nothing but the registers of the lists: the machine outside the
lane is the same, every byte of memory reads as before, FPC, the outbox and the lane's state stay. -/
structure State.Plain (s t : State) (i : Instr) (ws wv wm wc : List Nat) : Prop where
  went : s.Went t i (s.after i) ws wv wm wc
  out : t = { s with ln := t.ln }
  mem : ∀ a, t.mem.read a = s.mem.read a
  fpc : t.ln.fpc = s.ln.fpc
  box : t.ln.box = s.ln.box
  st : t.ln.st = s.ln.st
  susp : t.ln.susp = s.ln.susp

/-- The same, but FPC has gained the flags of fl (Table 3-2). -/
structure State.PlainF (s t : State) (i : Instr) (fl : Nat) (ws wv wm wc : List Nat) : Prop where
  went : s.Went t i (s.after i) ws wv wm wc
  out : t = { s with ln := t.ln }
  mem : ∀ a, t.mem.read a = s.mem.read a
  fpc : t.ln.fpc = s.ln.fpc ||| BitVec.ofNat 64 (fl % 32 * 256)
  box : t.ln.box = s.ln.box
  st : t.ln.st = s.ln.st
  susp : t.ln.susp = s.ln.susp

/-- A control transfer to pc: nothing but the registers of ws has changed. -/
structure State.Jumped (s t : State) (i : Instr) (pc : Word) (ws : List Nat) : Prop where
  went : s.Went t i pc ws [] [] []
  out : t = { s with ln := t.ln }
  mem : ∀ a, t.mem.read a = s.mem.read a
  fpc : t.ln.fpc = s.ln.fpc
  box : t.ln.box = s.ln.box
  st : t.ln.st = s.ln.st
  susp : t.ln.susp = s.ln.susp

/-- The entry that an effect of the lane in focus makes (R99, R326). -/
def State.entryOf (s : State) (e : Eff) (o : Ord) : Entry := ⟨e, o, s.ln.pc, s.ln.seqn, s.ln.cnt, s.ln.know⟩

/-- i has entered the effect e at the end of the outbox and gone on, writing at most the scalar registers of ws and the
capability registers of wc. Every byte of memory reads as before: an effect acts only after its commit (R98). A commit is
pending once the outbox holds 16 KiB (R21); st, when some, is a state that the instruction itself may cause. -/
structure State.Entered (s t : State) (i : Instr) (e : Eff) (o : Ord) (ws wc : List Nat) : Prop where
  went : s.Went t i (s.after i) ws [] [] wc
  mem : ∀ a, t.mem.read a = s.mem.read a
  fpc : t.ln.fpc = s.ln.fpc
  box : t.ln.box = s.ln.box ++ [s.entryOf e o]
  seqn : t.ln.seqn = s.ln.seqn + 1
  quota : s.ln.st = .run → 16384 ≤ boxBytes t.ln.box → t.ln.st = .finish

/-- The lane stays at its instruction, and nothing has changed. -/
def State.Stalls (s : State) (i : Instr) : Prop := exec i s = .next s

/-- The trap that i takes: what takeTrap makes of it (R102). -/
def State.Traps (s : State) (i : Instr) (code : Nat) (va : Word) : Prop :=
  exec i s = .next ((s.trapped i).takeTrap ⟨code, s.ln.pc, va, rptOf code⟩)

/-- Lane l stands in focus, runs in its comb's slice with no read outstanding and no budget event due, and the bytes at
its PC, inside the code object and free of poison, decode to i; w holds the first word (R24, R96, R136, R137, R210, R327). -/
structure State.Fetches (v : State) (l : Nat) (i : Instr) (w : BitVec 32) : Prop where
  focus : v.cur = l
  hasLane : v.hasLane l = true
  runs : v.ln.st = .run ∨ v.ln.st = .finish
  noRead : v.ln.rd = none
  slice : v.inSlice (combOf v.lcore) = true
  budget : v.budgetDue = false
  aligned : v.ln.pc.toNat % 4 = 0
  code : v.inCode v.ln.pc.toNat = true
  bytes : ∃ n, decode (v.readV v.ln.pc.toNat (if v.inCode (v.ln.pc.toNat + 4) then 8 else 4)) = .ok (i, n) ∧
    v.poisonedAt v.ln.pc.toNat n = false
  word : w = BitVec.ofNat 32 (ofBytes (v.readV v.ln.pc.toNat 4))

/-! Elements. -/

/-- Element k of width w of a register (R82). -/
def elemAt (w : Nat) {n : Nat} (x : BitVec n) (k : Nat) : Nat := x.toNat / 2 ^ (w * k) % 2 ^ w

/-- Element k of a run of registers from r on, in blocked order (R83). -/
def State.runAt (s : State) (w r k : Nat) : Nat := elemAt w (s.rVn (r + k / elemCount w)) (k % elemCount w)

/-- Is position k of a masked form active (R177)? -/
def State.Active (s : State) (m : Bool) (k : Nat) : Prop := m = true → (s.rM 0).getLsbD (k % 1024) = true

/-! Results. Each says that i, once it passes its checks, answers a next state, and which. -/

/-- i writes x to the scalar register d, of which s0 discards it (R31), and nothing else. -/
def State.GivesS (s : State) (i : Instr) (d : SReg) (x : Word) : Prop :=
  s.Passes i → ∃ t, exec i s = .next t ∧ s.Plain t i [d.val] [] [] [] ∧ t.rS d = if d = 0 then 0 else x

/-- The same for a value that a property describes. -/
def State.GivesSuch (s : State) (i : Instr) (d : SReg) (p : Word → Prop) : Prop :=
  s.Passes i → ∃ t x, exec i s = .next t ∧ s.Plain t i [d.val] [] [] [] ∧ p x ∧ t.rS d = if d = 0 then 0 else x

/-- i writes the pattern of a result to d, zero above it, and raises its flags. -/
def State.GivesF (s : State) (i : Instr) (d : SReg) (r : FRes) : Prop :=
  s.Passes i → ∃ t, exec i s = .next t ∧ s.PlainF t i r.2 [d.val] [] [] [] ∧
    t.rS d = if d = 0 then 0 else BitVec.ofNat 64 r.1

/-- i writes x to the capability register d, of which c0 discards it (R160), and nothing else. -/
def State.GivesC (s : State) (i : Instr) (d : CReg) (x : Cap) : Prop :=
  s.Passes i → ∃ t, exec i s = .next t ∧ s.Plain t i [] [] [] [d.val] ∧ t.rC d = if d = 0 then 0 else x

/-- i writes x to the mask register d and nothing else. -/
def State.GivesM (s : State) (i : Instr) (d : MReg) (x : Mask) : Prop :=
  s.Passes i → ∃ t, exec i s = .next t ∧ s.Plain t i [] [] [d.val] [] ∧ t.rM d = x

/-- i writes x to the vector register d and nothing else. -/
def State.GivesV (s : State) (i : Instr) (d : VReg) (x : Vec) : Prop :=
  s.Passes i → ∃ t, exec i s = .next t ∧ s.Plain t i [] [d.val] [] [] ∧ t.rV d = x

/-- i writes results to n registers from d on: an active position k takes the low w bits of f k, another one keeps its
value, and FPC gains exactly the flags of the active positions (R177). -/
def State.GivesE (s : State) (i : Instr) (w : Nat) (m : Bool) (d n : Nat) (f : Nat → FRes) : Prop :=
  s.Passes i → ∃ t fl, exec i s = .next t ∧ s.PlainF t i fl [] (List.range' d n) [] [] ∧
    (∀ k < n * elemCount w, s.Active m k → t.runAt w d k = (f k).1 % 2 ^ w) ∧
    (∀ k < n * elemCount w, ¬ s.Active m k → t.runAt w d k = s.runAt w d k) ∧
    (∀ j < 5, fl.testBit j = true ↔ ∃ k < n * elemCount w, s.Active m k ∧ (f k).2.testBit j = true)

/-- i goes on at pc and writes x to the scalar register d, when d is some. -/
def State.GoesTo (s : State) (i : Instr) (pc : Word) (d : Option (SReg × Word)) : Prop :=
  s.Passes i → ∃ t, exec i s = .next t ∧ s.Jumped t i pc (d.toList.map (fun x => x.1.val)) ∧
    ∀ x ∈ d, t.rS x.1 = if x.1 = 0 then 0 else x.2

/-- i enters the effect e in the outbox when there is room for it, and changes nothing outside the lane (R21, R98). -/
def State.Sends (s : State) (i : Instr) (e : Eff) (o : Ord) : Prop :=
  s.Passes i → s.room (effBytes e) = true →
    ∃ t, exec i s = .next t ∧ s.Entered t i e o [] [] ∧ t = { s with ln := t.ln }

/-- i parks the record: the effect e enters the outbox, and the SIG that must follow ends the activation (R97, R105). -/
def State.Parks (s : State) (i : Instr) (e : Eff) : Prop :=
  s.Passes i → s.room (effBytes e) = true →
    ∃ t, exec i s = .next t ∧ s.Entered t i e .relaxed [] [] ∧ t.ln.susp = some (.park e) ∧
      t = { s with ln := t.ln, tick := s.tick + 1 }

/-- i loads n bytes at each of some offsets of the scratchpad of the lane's core: it stalls while an array command of its own lane
still reads or writes one of them (R238), and else it goes on and writes the registers of ws and wv, of which p holds, where byte
k of the offset numbered r is f (n * r + k). -/
def State.Loads (s : State) (i : Instr) (offs : List Nat) (n : Nat) (ws wv : List Nat) (p : State → (Nat → Byte) → Prop) :
    Prop :=
  s.Passes i →
    ((∃ o ∈ offs, s.drainWaits o n = true) → s.Stalls i) ∧
    ((∀ o ∈ offs, s.drainWaits o n = false) → ∃ t f, exec i s = .next t ∧ s.Plain t i ws wv [] [] ∧
      (∀ r < offs.length, ∀ k < n, f (n * r + k) = s.mem.read (scratchAddr s.kid s.lcore (lget offs r 0 + k))) ∧ p t f)

/-- i writes the bytes b at offset off of the scratchpad of the lane's core and changes no other byte of memory, no
register, and nothing of another core (R201, R58): the core's full bits stay, words written whole lose their poison, and a
stalled WAITA finds its value when the write has brought it (R208). -/
structure State.StoredAt (s t : State) (i : Instr) (off : Nat) (b : List Byte) : Prop where
  went : s.Went t i (s.after i) [] [] [] []
  stored : ∀ k < b.length, t.mem.read (scratchAddr s.kid s.lcore off + k) = lget b k 0
  kept : ∀ a, (a < scratchAddr s.kid s.lcore off ∨ scratchAddr s.kid s.lcore off + b.length ≤ a) →
    t.mem.read a = s.mem.read a
  out : t = { s with ln := t.ln, mem := t.mem, k := { s.k with cores := t.k.cores } }
  cores : ∀ l, l ≠ s.lcore → t.core l = s.core l
  core : t.core s.lcore = { s.core s.lcore with
    badW := (t.core s.lcore).badW, waits := (t.core s.lcore).waits, waitKnow := (t.core s.lcore).waitKnow }
  waits : (t.core s.lcore).waits = (s.core s.lcore).waits.map (fun w =>
    if w.hit = none ∧ meets off b.length w.off 4 = true ∧ ofBytes (t.mem.readN (scratchAddr s.kid s.lcore w.off) 4) = w.v then
      { w with hit := some [] } else w)
  fpc : t.ln.fpc = s.ln.fpc
  box : t.ln.box = s.ln.box

/-! Events. -/

/-- i comes about in s and leaves a state of which p holds. -/
def State.Comes (s : State) (i : Instr) (p : State → Prop) : Prop := ∃ t, exec i s = .next t ∧ p t

/-- Nothing but the context in focus has changed. -/
def State.InCtx (s t : State) : Prop := t = { s with k := t.k }

/-- Nothing but the context in focus, and which of its lanes stands in focus, has changed. -/
def State.InLanes (s t : State) : Prop := t = { s with cur := t.cur, ln := t.ln, k := t.k }

/-- Of the hardware nothing has changed but what ports have sent: their sequence numbers and replay buffers (R341, R342). -/
def State.Wires (s t : State) : Prop :=
  ∀ p, t.pkg p = { s.pkg p with ports := (t.pkg p).ports } ∧ ∀ j, ∃ q l, tget (t.pkg p).ports j Port.init =
    { tget (s.pkg p).ports j Port.init with lseq := q, replay := (tget (s.pkg p).ports j Port.init).replay ++ l }

/-- Nothing but the context in focus, and what its effects and wakes have put on the wire, has changed. -/
def State.InNet (s t : State) : Prop := t = { s with k := t.k, hw := t.hw } ∧ s.Wires t

/-- The same, and which lane stands in focus. -/
def State.InLanesNet (s t : State) : Prop := t = { s with cur := t.cur, ln := t.ln, k := t.k, hw := t.hw } ∧ s.Wires t

/-- Nothing but the hardware of one package has changed. -/
def State.InPkg (s t : State) (p : Nat) : Prop := t = { s with hw := t.hw } ∧ ∀ q, q ≠ p → t.pkg q = s.pkg q

/-- Every lane but l, every record but n, every core but c, every comb but c is as before. -/
def State.LanesBut (s t : State) (l : Nat) : Prop := ∀ m, m ≠ l → t.lane m = s.lane m
def State.RecsBut (s t : State) (n : Nat) : Prop := ∀ m, m ≠ n → tget? t.k.recs m = tget? s.k.recs m
def State.CoresBut (s t : State) (c : Nat) : Prop := ∀ m, m ≠ c → t.core m = s.core m
def State.CombsBut (s t : State) (c : Nat) : Prop := ∀ m, m ≠ c → t.comb m = s.comb m

/-- Lane l runs record n, which its context knows as active there. -/
structure State.Runs (s : State) (l n : Nat) : Prop where
  task : (s.lane l).task = n
  active : (s.record n).st = .active l

/-- n bytes at va are mapped, no two of them to one byte of memory, and no translation depends on them: they hold no page
table. -/
structure State.PlainRange (s : State) (va n : Nat) : Prop where
  mapped : ∀ i < n, (s.phys? (va + i)).isSome = true
  apart : ∀ i < n, ∀ j < n, s.phys? (va + i) = s.phys? (va + j) → i = j
  noTable : ∀ m : Memory, (∀ a, (∀ i < n, s.phys? (va + i) ≠ some a) → m.read a = s.mem.read a) →
    ∀ x, { s with mem := m }.phys? x = s.phys? x

/-- Of n bytes at va, those of one 16-byte granule lie in one granule of memory, and those of two in two: tags go with them
(R215). -/
def State.Granules (s : State) (va n : Nat) : Prop :=
  ∀ i < n, ∀ j < n, ∀ a b, s.phys? (va + i) = some a → s.phys? (va + j) = some b →
    (a / 16 = b / 16 ↔ (va + i) / 16 = (va + j) / 16)

/-- What a store of the outbox writes, and where. -/
def storedBytes : Eff → Option (Nat × List Byte)
  | .store a d _ => some (a, d)
  | .storeCap a c _ => some (a, toBytes c.toNat 16)
  | _ => none

/-- Some entries store nothing to the byte at an address. -/
def MissesByte (box : List Entry) (x : Nat) : Prop :=
  ∀ e ∈ box, ∀ a d, storedBytes e.eff = some (a, d) → x < a ∨ a + d.length ≤ x

/-- The bytes b that a read of n bytes at va finds behind the stores of an outbox: of each byte the latest store to it, and what
memory holds where there is none (R47, R214). -/
structure State.Forwards (s : State) (box : List Entry) (va n : Nat) (b : List Byte) : Prop where
  length : b.length = n
  memory : ∀ k < n, MissesByte box (va + k) → lget b k 0 = lget (s.readV va n) k 0
  latest : ∀ k < n, ∀ old e new a d, box = old ++ e :: new → storedBytes e.eff = some (a, d) → a ≤ va + k → va + k < a + d.length →
    MissesByte new (va + k) → lget b k 0 = lget d (va + k - a) 0

/-- Effects that leave the lane for a home: the others act at the commit itself (R98, R227). -/
def goesHome : Eff → Bool
  | .join .. | .store .. | .storeCap .. | .cap .. | .window .. | .twgo .. | .twperm .. | .msg _ | .barr .. | .syswr ..
  | .watch _ | .cancel _ => true
  | _ => false

/-- The effect with number id has been applied, logged or dropped. -/
def State.Done (t : State) (id : Nat) : Prop := ∀ g ∈ t.k.flits, g.id = id → g.done = true

/-- Words of effect id have landed in the scratchpad of core l, one at least where there is one: those of the list left are still to
come and stand in the effect, as eff says; each other one is there, with its full bit when full says so, and no other byte, full
bit or core has changed (R58, R59, R206). With none left the effect is done. -/
def State.Landed (s t : State) (id l : Nat) (ws : List (Nat × List Byte)) (full : Bool)
    (eff : List (Nat × List Byte) → Eff) : Prop :=
  let at' (o : Nat) : Nat := scratchAddr s.kid l o
  ∃ left, left.Sublist ws ∧ (ws ≠ [] → left.length < ws.length) ∧ s.CoresBut t l ∧
    (if left = [] then t.Done id else ∀ g ∈ t.k.flits, g.id = id → g.e.eff = eff left) ∧
    (∀ y ∈ ws, y ∉ left → t.mem.readN (at' y.1) 4 = y.2) ∧
    (∀ b, (∀ y ∈ ws, y ∉ left → b < at' y.1 ∨ at' y.1 + 4 ≤ b) → t.mem.read b = s.mem.read b) ∧
    ∀ j, (t.core l).full.testBit j = true ↔
      (s.core l).full.testBit j = true ∨ (full = true ∧ ∃ y ∈ ws, y ∉ left ∧ y.1 / 4 = j)

/-- Words as a store makes them: whole, aligned, each once. -/
def WordsOk (ws : List (Nat × List Byte)) : Prop :=
  (∀ y ∈ ws, y.1 % 4 = 0 ∧ y.2.length = 4) ∧ (ws.map (fun y => y.1)).Nodup

/-- n bytes of global memory at va that an object y holds, mapped and of no kernel frame (R242). -/
structure State.HeldBy (s : State) (va : Int) (n : Nat) (y : Obj) : Prop where
  obj : ∃ o, objAt s.k.objs va.toNat = some (o, y)
  up : 0 ≤ va
  inside : va.toNat + n ≤ y.base + y.len * 4096
  there : y.ret = false
  mapped : s.firstUnmapped va.toNat n = none
  kernel : s.kernelAt va.toNat n = false

/-- What a row has: d at the source of record x, at row r of a channel of a comb (R242): a scratchpad of the comb, exclusive
memory of the owner group, or a lattice object that is capped, or with WF whose fill lines are all full; memory free of poison. -/
def State.RowFrom (s : State) (comb : Nat) (c : Chan) (r : Nat) (d : List Byte) : Prop :=
  let x := c.line
  let off : Int := spOff (trSrc x) + r * trSstr x
  let va : Int := trSrc x + r * trSstr x
  let l := spCore (trSrc x)
  let lines (y : Obj) : List (FillSt × Bool) := if y.ty = .fill then s.lineStates va.toNat (trRb x) else []
  (trSsp x = 2 ∧ l / 4 = comb ∧ 0 ≤ off ∧ off.toNat + trRb x ≤ s.scratchSize ∧ s.scratchBad l off.toNat (trRb x) = false ∧
    d = s.scratch l off.toNat (trRb x)) ∨
  (∃ y, s.HeldBy va (trRb x) y ∧ s.poisonedAt va.toNat (trRb x) = false ∧ d = s.readV va.toNat (trRb x) ∧
    ((trSsp x = 0 ∧ y.ty = .excl ∧ y.owner = c.owner) ∨
      (trSsp x = 1 ∧ y.ty ≠ .excl ∧ (∀ z ∈ lines y, z.1 ≠ .top) ∧
        ((s.rangeCapped va.toNat (trRb x) = true ∧ trWf x = false) ∨
          (y.ty = .fill ∧ trWf x = true ∧ ∀ z ∈ lines y, z.1 = .full)))))

/-- Where a row of bytes d goes (R242): to the named core, or the core of its place in each marked comb; to exclusive memory of
the owner group; or, with FJ, to a fill or lap object; memory is written line by line. -/
def State.RowTo (s : State) (comb : Nat) (c : Chan) (r : Nat) (d : List Byte) (l : List PayTo) : Prop :=
  let x := c.line
  let off : Int := spOff (trDst x) + r * trDstr x
  let va : Int := trDst x + r * trDstr x
  let core := spCore (trDst x)
  let cores := if trMcast x = 0 then [core]
    else ((List.range 64).filter (fun j => (trMcast x).testBit j)).map (fun j => core / 256 * 256 + j * 4 + core % 4)
  (trDsp x = 2 ∧ trFj x = false ∧ 0 ≤ off ∧ off.toNat + trRb x ≤ s.scratchSize ∧
    (∀ z ∈ cores, z / 2048 = comb / 512 ∧ z < s.lcount) ∧
    l = cores.map (fun z => .scratch z (storeWords off.toNat d) true false)) ∨
  (∃ y, s.HeldBy va (trRb x) y ∧ l = (lineParts (trRb x) va.toNat d).map (fun p => .mem p.1 p.2) ∧
    ((trDsp x = 0 ∧ y.ty = .excl ∧ y.owner = c.owner ∧ trFj x = false) ∨
      (trDsp x = 1 ∧ (y.ty = .fill ∨ y.ty = .lap) ∧ trFj x = true ∧ trRb x % 64 = 0 ∧ va.toNat % 64 = 0)))

/-- What the completion action of a record sends (Table 10-3): a word to the cores that the payload went to, else to the core of
the TWGO, or a join of ID to a maxn element, or of its bit to a union element. -/
def State.ActionOf (s : State) (c : Chan) (l : List PayTo) : Prop :=
  let x := c.line
  let off := 4 * (trCa x % 2 ^ 18)
  let va : Nat := trCa x % 2 ^ 60
  let core := spCore (trDst x)
  let cores := if trDsp x ≠ 2 then [c.lcore] else if trMcast x = 0 then [core]
    else ((List.range 64).filter (fun j => (trMcast x).testBit j)).map (fun j => core / 256 * 256 + j * 4 + core % 4)
  let joins (t : LTy) (v : Nat) : Prop := ∃ y, s.HeldBy (va : Int) 4 y ∧ y.ty = t ∧ y.wc = .w32 ∧ va % 4 = 0 ∧ l = [.mem va (toBytes v 4)]
  (trCk x = 1 ∧ off + 4 ≤ s.scratchSize ∧ (∀ z ∈ cores, z < s.lcount) ∧
    l = cores.map (fun z => .scratch z [(off, toBytes (trCa x / 2 ^ 18 % 2 ^ 32) 4)] false false)) ∨
  (trCk x = 2 ∧ joins .maxn (trId x)) ∨ (trCk x = 3 ∧ joins .union (2 ^ (trId x % 32)))

/-- Payload flits of a channel have been sent, one for each place, with the identity of its TWGO (R242, R344). -/
def State.PaySent (s t : State) (comb ch : Nat) (c : Chan) (l : List PayTo) : Prop :=
  t.k.flits.take s.k.flits.length = s.k.flits ∧
  (t.k.flits.drop s.k.flits.length).map (fun f => f.e.eff) = l.map (fun p => .payload comb ch p) ∧
  ∀ f ∈ t.k.flits.drop s.k.flits.length, f.task = c.task ∧ f.actn = c.actn ∧ f.gid = c.owner ∧ f.e.pc = c.pc ∧ f.done = false

/-- Lattice types that are joined element by element. -/
def elementwise : LTy → Bool
  | .maxn | .maxi | .minn | .mini | .maxf | .minf | .union | .count | .arr => true
  | _ => false

/-- The completion entry that answers a command or a launch with a status and no counts (R320). -/
def answerOf (cmd status : Nat) (tt : Option Nat) : BitVec 256 := cqEntry cmd status tt 0 0 0

end Sys2Proof.Machine
end

