-- ==== Sys2Proof/Certificates/Slice0/Obligations.lean ====
section
/-!
DEFINITION. The statements for the provers. Each docstring cites the rules that its statement formalises; the words
Passes, Plain, Went, Gives…, Sends and Traps are those of Sys2Proof/Safety.lean.
-/

open Sys2Proof Sys2Proof.Machine

/-! Decoding, steps, reset, traps. -/

/-- Words written out from the encodings of Tables 6-1 to 6-12 decode to the instructions that they stand for, one or more
of each format, and words that the tables leave unassigned or reserve to none (R136 to R147). -/
def Obligations.WordsDecodeToTheirInstructions : Prop :=
  decodeWords 0x1028A001 none = .ok (.addi 5 ⟨5, false⟩ 1) ∧
  decodeWords 0x02030A1E none = .ok (.add 6 ⟨5, false⟩ ⟨7, true⟩) ∧
  decodeWords 0x1C580003 none = .ok (.movhi 11 3) ∧
  decodeWords 0x1E580003 none = .ok (.addpc 11 3) ∧
  decodeWords 0x2E000002 none = .ok (.j 2) ∧
  decodeWords 0x0A420618 none = .ok (.cbound 4 ⟨3, false⟩ ⟨6, false⟩) ∧
  decodeWords 0x360B18DB none = .ok (.sig 0xB18DB) ∧
  decodeWords 0x38000000 none = .ok .nop ∧
  decodeWords 0x2C59000C none = .ok (.bnez ⟨25, false⟩ 12) ∧
  decodeWords 0x34097FFD none = .ok (.loop 9 (-3)) ∧
  decodeWords 0x4180618A none = .ok (.vadd .f32 3 ⟨1, true⟩ ⟨2, true⟩ false) ∧
  decodeWords 0x84031000 none = .ok (.vlds 3 ⟨4, false⟩ 0) ∧
  decodeWords 0x8B897A00 none = .ok (.stn 2 ⟨9, true⟩ 30 0) ∧
  decodeWords 0xE200040A (some 0x25870C00) =
    .ok (.join 2 .maxn .w64 (.rel .pkg) ⟨⟨4, false⟩, ⟨3, false⟩, 0⟩ ⟨5, false⟩) ∧
  decodeWords 0xE200040A none = .error .missingWord ∧
  decodeWords 0 none = .error .unassigned ∧
  decodeWords 0x38000001 none = .error .reservedField

/-- Every well-formed instruction that has an encoding is read back from its bytes, with every operand at every value, and
with its own length, whatever bytes follow it. -/
def Obligations.DecodeOfEncodeIsTheInstruction : Prop :=
  ∀ i : Instr, i.wf = true → (encode i).isSome = true → ∀ rest : List Byte,
    decode (encodeBytes i ++ rest) = .ok (i, (encodeBytes i).length)

/-- Whatever words decode to an instruction are its encoding, so no two words mean one instruction, no bit of a word is
ignored, and decoding gives well-formed instructions only. -/
def Obligations.EncodeOfDecodeIsTheWords : Prop :=
  ∀ (w0 w1 : Nat) (i : Instr), w0 < 2 ^ 32 → w1 < 2 ^ 32 → decodeWords w0 (some w1) = .ok i →
    i.wf = true ∧ encode i = some (w0, if isLong w0 then some w1 else none)

/-- A step runs the decoded instruction. When the next turn tells a lane to issue and the bytes at its PC decode to i, the
step is exec of i, after the turn's time has passed and with the lane in focus; the same when the model itself chooses the
lane (log entry 3); a turn that names an event runs that event, and with nothing to do 11 cycles pass (log entry 4). -/
def Obligations.StepRunsTheDecodedInstruction : Prop :=
  ∀ (s : State) (rest : List Turn) (n ns c l : Nat) (i : Instr) (w : BitVec 32),
    (let v := ((({ s with sched := rest }).pass n ns).focus c).focusLane l
     s.sched = ⟨n, ns, .issue c l⟩ :: rest → v.Fetches l i w → step s = exec i { v with ir := w }) ∧
    (let v := ((s.pass 1 (nsOf (s.cyc + 1) - nsOf s.cyc)).focus c).focusLane l
     s.sched = [] → s.autoChoice = some (.issue c l) → v.Fetches l i w → step s = exec i { v with ir := w }) ∧
    (s.sched = ⟨n, ns, .event c i⟩ :: rest → step s = exec i ((({ s with sched := rest }).pass n ns).focus c)) ∧
    (s.sched = [] → s.autoChoice = none → step s = .next (s.pass 11 10))

/-- What reset leaves (R329, R330, R346, R349): the package in STATE 0 with no launch, every fault counter at 0, its
configuration at WC = 1, WU = 64, an interval of 1,000 µs and MARK = 256, and WGRATE at 0x4000. -/
def Obligations.ResetLeavesTheStatedValues : Prop :=
  let p := State.reset.pkg 0
  State.reset.k.launch = none ∧ State.reset.k.recs = [] ∧ p.state = 0 ∧ (∀ u, tget? p.counters u = none) ∧
  (∀ r ∈ [p.bkcfgb, p.bkcfgl, p.bkcfgc], r.extractLsb' 0 8 = 1 ∧ r.extractLsb' 8 8 = 64 ∧ r.extractLsb' 16 16 = 1000 ∧
    r.extractLsb' 32 16 = 256 ∧ r.extractLsb' 48 16 = 0) ∧ p.wgrate = 0x4000

/-- Memory has its canonical form at reset.
The form, and that nothing is listed at reset, are the model's own (log entry 12). -/
def Obligations.ResetMeetsTheInvariant : Prop := State.reset.Inv

/-- Every step keeps the canonical form of memory, whatever the state it begins in.
The form is the model's own. -/
def Obligations.EveryStepKeepsTheInvariant : Prop :=
  ∀ s t : State, s.Inv → step s = .next t → t.Inv

/-- Traps. An instruction that fails the checks of R148 takes the trap of the first one that it fails: ILLEGAL of the block
rule, ORDER, PRIV, REGBOUND, DEADREG, in this order; a word that no encoding assigns takes ILLEGAL at its PC, and a PC that
cannot be fetched takes ALIGN, CAPBOUND or, from a poisoned line, UNCORR, with that PC as VA and, of the first two, the PC
before it (R97, R102, R137, R147, R148, R327; that UNCORR has the PC itself is the model's choice, log entry 54). The first trap
returns the record READY for a confirming run and drops what the activation has done; a trap of a confirming run is final: the
lane verifies, and the outbox keeps what was issued before the last SIG (R102). -/
def Obligations.TrapsFollowTheOrderOfChecks : Prop :=
  ∀ (s : State) (i : Instr), (encode i).isSome = true →
    let block := 256 ≤ s.ln.blk ∨
      (suspends i = true ∧ s.sigAt (s.ln.pc.toNat + if Machine.isLong i then 8 else 4) = false)
    let bound := ∃ n ∈ (foot i).readV ++ (foot i).wv, s.alloc ≤ n
    let dead := (∃ n ∈ (foot i).readS, s.ln.sLive n = false) ∨ (∃ n ∈ (foot i).readV, s.ln.vLive n = false) ∨
      (∃ n ∈ (foot i).readM, s.ln.mLive n = false) ∨ (∃ n ∈ (foot i).readC, s.ln.cLive n = false)
    (block → s.Traps i tILLEGAL 0) ∧
    (¬ block → orderBad i = true → s.Traps i tORDER 0) ∧
    (¬ block → orderBad i = false → privBad s.k.service i = true → s.Traps i tPRIV 0) ∧
    (¬ block → orderBad i = false → privBad s.k.service i = false → bound → s.Traps i tREGBOUND 0) ∧
    (¬ block → orderBad i = false → privBad s.k.service i = false → ¬ bound → dead → s.Traps i tDEADREG 0) ∧
    (s.ln.st = .run ∨ s.ln.st = .finish →
      (s.ln.pc.toNat % 4 = 0 → s.inCode s.ln.pc.toNat = true → (∀ n ≤ 8, s.poisonedAt s.ln.pc.toNat n = false) →
        (∃ e, decode (s.readV s.ln.pc.toNat (if s.inCode (s.ln.pc.toNat + 4) then 8 else 4)) = .error e) →
        s.Traps .unassignedEncoding tILLEGAL 0) ∧
      (s.ln.pc.toNat % 4 ≠ 0 →
        exec .fetchFault s = .next (s.takeTrap ⟨tALIGN, s.ln.from_, s.ln.pc, false⟩)) ∧
      (s.ln.pc.toNat % 4 = 0 → s.inCode s.ln.pc.toNat = false →
        exec .fetchFault s = .next (s.takeTrap ⟨tCAPBOUND, s.ln.from_, s.ln.pc, false⟩)) ∧
      (s.ln.pc.toNat % 4 = 0 → s.inCode s.ln.pc.toNat = true → s.poisonedAt s.ln.pc.toNat 4 = true →
        exec .fetchFault s = .next (s.takeTrap ⟨tUNCORR, s.ln.pc, s.ln.pc, true⟩))) ∧
    ∀ info, let t := s.takeTrap info
      t = { s with ln := t.ln, k := t.k, hw := t.hw } ∧
      (s.rec_.confirm = false → t.ln = s.ln.toIdle ∧ t.ln.st = .idle ∧ t.ln.box = [] ∧ t.k.flog = s.k.flog ∧
        ∀ r, tget? s.k.recs s.ln.task = some r → r.st ≠ .reserved →
          tget? t.k.recs s.ln.task = some { r with st := .ready, since := s.time, confirm := true }) ∧
      (s.rec_.confirm = true → t.ln.st = .verify ∧ t.ln.fin = some info ∧ t.ln.box = s.ln.box.take s.ln.boxSig ∧
        t.ln.mism = s.ln.mism ∧ t.k.flog = s.k.flog ∧
        ∀ r, tget? s.k.recs s.ln.task = some r → r.st ≠ .reserved → tget? t.k.recs s.ln.task = some r)

/-! Scalar instructions. -/

/-- Majors 0x01, 0x02 and 0x03 compute s[D] from s[A] and s[B] as Table 7-1 states (R154, with R70 and R155): integer
arithmetic over exact integers (the halves of products, division towards zero with the all-ones quotient of a zero
divisor, remainders), logic, shifts and compares (a shift amount is the low six bits, CSEL selects by the old value of its
destination), counts, reversals and extensions. -/
def Obligations.IntegerInstructionsComputeTheirResult : Prop :=
  (∀ (s : State) (d : SReg) (a b : SSrc),
     s.GivesS (.add d a b) d (s.rS a.r + s.rS b.r) ∧
     s.GivesS (.sub d a b) d (s.rS a.r - s.rS b.r) ∧
     s.GivesSuch (.mul d a b) d (fun x => x.toNat = (s.rS a.r).toNat * (s.rS b.r).toNat % 2 ^ 64) ∧
     s.GivesSuch (.mulh d a b) d (fun x =>
       x.toInt * 2 ^ 64 + (s.rS a.r * s.rS b.r).toNat = (s.rS a.r).toInt * (s.rS b.r).toInt) ∧
     s.GivesSuch (.mulhn d a b) d (fun x =>
       x.toNat * 2 ^ 64 + (s.rS a.r * s.rS b.r).toNat = (s.rS a.r).toNat * (s.rS b.r).toNat) ∧
     s.GivesS (.div d a b) d (if s.rS b.r = 0 then BitVec.allOnes 64
       else BitVec.ofInt 64 ((s.rS a.r).toInt.tdiv (s.rS b.r).toInt)) ∧
     s.GivesSuch (.divn d a b) d (fun x =>
       if s.rS b.r = 0 then x = BitVec.allOnes 64 else x.toNat = (s.rS a.r).toNat / (s.rS b.r).toNat) ∧
     s.GivesSuch (.rem d a b) d (fun x =>
       if s.rS b.r = 0 then x = s.rS a.r else x.toInt = (s.rS a.r).toInt.tmod (s.rS b.r).toInt) ∧
     s.GivesSuch (.remn d a b) d (fun x =>
       if s.rS b.r = 0 then x = s.rS a.r else x.toNat = (s.rS a.r).toNat % (s.rS b.r).toNat) ∧
     s.GivesSuch (.min d a b) d (fun x => x.toInt = min (s.rS a.r).toInt (s.rS b.r).toInt) ∧
     s.GivesSuch (.max d a b) d (fun x => x.toInt = max (s.rS a.r).toInt (s.rS b.r).toInt) ∧
     s.GivesSuch (.minn d a b) d (fun x => x.toNat = min (s.rS a.r).toNat (s.rS b.r).toNat) ∧
     s.GivesSuch (.maxn d a b) d (fun x => x.toNat = max (s.rS a.r).toNat (s.rS b.r).toNat) ∧
     s.GivesS (.abs d a) d (BitVec.ofInt 64 (if (s.rS a.r).toInt < 0 then -(s.rS a.r).toInt else (s.rS a.r).toInt))) ∧
  (∀ (s : State) (d : SReg) (a b : SSrc),
     s.GivesSuch (.and d a b) d (fun x => ∀ j < 64, x.getLsbD j = ((s.rS a.r).getLsbD j && (s.rS b.r).getLsbD j)) ∧
     s.GivesSuch (.or d a b) d (fun x => ∀ j < 64, x.getLsbD j = ((s.rS a.r).getLsbD j || (s.rS b.r).getLsbD j)) ∧
     s.GivesSuch (.xor d a b) d (fun x => ∀ j < 64, x.getLsbD j = ((s.rS a.r).getLsbD j ^^ (s.rS b.r).getLsbD j)) ∧
     s.GivesSuch (.andn d a b) d (fun x => ∀ j < 64, x.getLsbD j = ((s.rS a.r).getLsbD j && !(s.rS b.r).getLsbD j)) ∧
     s.GivesSuch (.shl d a b) d (fun x => x.toNat = (s.rS a.r).toNat * 2 ^ ((s.rS b.r).toNat % 64) % 2 ^ 64) ∧
     s.GivesSuch (.shr d a b) d (fun x => x.toNat = (s.rS a.r).toNat / 2 ^ ((s.rS b.r).toNat % 64)) ∧
     s.GivesSuch (.sra d a b) d (fun x => x.toInt = (s.rS a.r).toInt / 2 ^ ((s.rS b.r).toNat % 64)) ∧
     s.GivesSuch (.rol d a b) d (fun x =>
       ∀ j < 64, x.getLsbD ((j + (s.rS b.r).toNat) % 64) = (s.rS a.r).getLsbD j) ∧
     s.GivesS (.slt d a b) d (if (s.rS a.r).toInt < (s.rS b.r).toInt then 1 else 0) ∧
     s.GivesS (.sltn d a b) d (if (s.rS a.r).toNat < (s.rS b.r).toNat then 1 else 0) ∧
     s.GivesS (.seq d a b) d (if s.rS a.r = s.rS b.r then 1 else 0) ∧
     s.GivesS (.sne d a b) d (if s.rS a.r = s.rS b.r then 0 else 1) ∧
     s.GivesS (.csel d a b) d (if s.rS d ≠ 0 then s.rS a.r else s.rS b.r)) ∧
  (∀ (s : State) (d : SReg) (a : SSrc) (k : Fin 64),
     s.GivesSuch (.clz d a) d (fun x => x.toNat ≤ 64 ∧ (∀ j < 64, 64 ≤ j + x.toNat → (s.rS a.r).getLsbD j = false) ∧
       (x.toNat < 64 → (s.rS a.r).getLsbD (63 - x.toNat) = true)) ∧
     s.GivesSuch (.ctz d a) d (fun x => x.toNat ≤ 64 ∧ (∀ j < x.toNat, (s.rS a.r).getLsbD j = false) ∧
       (x.toNat < 64 → (s.rS a.r).getLsbD x.toNat = true)) ∧
     s.GivesSuch (.popc d a) d (fun x => x.toNat = (List.range 64).countP (fun j => (s.rS a.r).getLsbD j)) ∧
     s.GivesSuch (.brev d a) d (fun x => ∀ j < 64, x.getLsbD j = (s.rS a.r).getLsbD (63 - j)) ∧
     s.GivesSuch (.bswap d a) d (fun x => ∀ j < 8, elemAt 8 x j = elemAt 8 (s.rS a.r) (7 - j)) ∧
     s.GivesSuch (.exts d a k) d (fun x => x.toInt = ((s.rS a.r).extractLsb' 0 (k.val + 1)).toInt) ∧
     s.GivesSuch (.extz d a k) d (fun x => x.toNat = (s.rS a.r).toNat % 2 ^ (k.val + 1)))

/-- Immediate forms (R156, R157): the immediate is sign-extended, MOVHI shifts it by 12 and ADDPC counts from its own
address in words. -/
def Obligations.ImmediateFormsExtendTheirImmediate : Prop :=
  ∀ (s : State) (d : SReg) (a : SSrc) (imm : BitVec 12) (n : Fin 64) (hi : BitVec 19),
    s.GivesS (.addi d a imm) d (s.rS a.r + BitVec.ofInt 64 imm.toInt) ∧
    s.GivesS (.andi d a imm) d (s.rS a.r &&& BitVec.ofInt 64 imm.toInt) ∧
    s.GivesS (.ori d a imm) d (s.rS a.r ||| BitVec.ofInt 64 imm.toInt) ∧
    s.GivesS (.xori d a imm) d (s.rS a.r ^^^ BitVec.ofInt 64 imm.toInt) ∧
    s.GivesSuch (.shli d a n) d (fun x => x.toNat = (s.rS a.r).toNat * 2 ^ n.val % 2 ^ 64) ∧
    s.GivesSuch (.shri d a n) d (fun x => x.toNat = (s.rS a.r).toNat / 2 ^ n.val) ∧
    s.GivesSuch (.srai d a n) d (fun x => x.toInt = (s.rS a.r).toInt / 2 ^ n.val) ∧
    s.GivesS (.slti d a imm) d (if (s.rS a.r).toInt < imm.toInt then 1 else 0) ∧
    s.GivesSuch (.movhi d hi) d (fun x => x.toInt = hi.toInt * 4096) ∧
    s.GivesS (.addpc d hi) d (s.ln.pc + BitVec.ofInt 64 (hi.toInt * 4))

/-- FP32 scalar arithmetic (R158, R159): each instruction rounds its exact result once, in the mode of FPC or of its
selector, writes the pattern in bits 31 to 0 and zeros above, and only adds to the sticky flags of FPC. -/
def Obligations.ScalarFloatsRoundOnceAndRaiseFlags : Prop :=
  ∀ (s : State) (d : SReg) (a b : SSrc) (rm : RSel),
    s.GivesF (.fadd d a b) d (addV fmtF32 s.fpcMode (s.fS a.r) (s.fS b.r)) ∧
    s.GivesF (.fsub d a b) d (addV fmtF32 s.fpcMode (s.fS a.r) (s.fS b.r).negate) ∧
    s.GivesF (.fmul d a b) d (mulF fmtF32 s.fpcMode (s.fS a.r) (s.fS b.r)) ∧
    s.GivesF (.fma d a b) d (fmaF fmtF32 s.fpcMode (s.fS a.r) (s.fS b.r) (s.fS d)) ∧
    s.GivesF (.fdiv d a b) d (divF fmtF32 s.fpcMode (s.fS a.r) (s.fS b.r)) ∧
    s.GivesF (.fsqrt d a rm) d (sqrtF fmtF32 (s.rmode rm) (s.fS a.r)) ∧
    s.GivesF (.fmin d a b) d (minmaxF fmtF32 false (s.lowS a.r) (s.lowS b.r)) ∧
    s.GivesF (.fmax d a b) d (minmaxF fmtF32 true (s.lowS a.r) (s.lowS b.r)) ∧
    s.GivesF (.fcmp d a b) d (relF fmtF32 (s.lowS a.r) (s.lowS b.r)) ∧
    s.GivesF (.fcvti d a rm) d (toIntF (s.rmode rm) false 64 (s.fS a.r)) ∧
    s.GivesF (.icvtf d a rm) d (roundV fmtF32 (s.rmode rm) (intV (s.rS a.r).toInt)) ∧
    s.GivesF (.fclass d a) d (classF fmtF32 (s.lowS a.r), 0)

/-- Rounding (R71, R72, R74, Table 3-3). A value that a format holds rounds to its own pattern, without a flag, in every mode.
roundInt takes num / den to a multiple of 2^q: exactly when it can, in RNE to a nearest multiple (the even one of two that
are equally near), in RTZ towards zero, in RDN and RUP to the side that the sign asks for. -/
def Obligations.RoundingIsNearestOrDirected : Prop :=
  (∀ (f : FFmt) (rm : RMode) (x : Nat), f = fmtF32 ∨ f = fmtBF16 ∨ f = fmtF16 → x < 2 ^ f.width →
     (unpackF f x).isNan = false → roundV f rm (unpackF f x) = (x, 0)) ∧
  (∀ (rm : RMode) (neg : Bool) (num den : Nat) (q : Int), 0 < den →
     let r := roundInt rm neg num den q
     let n := num * (scaleQ q).2
     let u := den * (scaleQ q).1
     (r.2 = true ↔ r.1 * u = n) ∧
     (rm = .rne → 2 * (r.1 * u) ≤ 2 * n + u ∧ 2 * n ≤ 2 * (r.1 * u) + u ∧
       (2 * (r.1 * u) = 2 * n + u ∨ 2 * n = 2 * (r.1 * u) + u → r.1 % 2 = 0)) ∧
     (rm = .rtz → r.1 * u ≤ n ∧ n < (r.1 + 1) * u) ∧
     (rm = .rdn → if neg then n ≤ r.1 * u ∧ r.1 * u < n + u else r.1 * u ≤ n ∧ n < (r.1 + 1) * u) ∧
     (rm = .rup → if neg then r.1 * u ≤ n ∧ n < (r.1 + 1) * u else n ≤ r.1 * u ∧ r.1 * u < n + u))

/-! Capabilities. -/

/-- Capability instructions (R160, R161): CMOV copies, CINC and CINCI move the cursor or trap with CAPBOUND at 2^60,
CRIGHTS only removes rights and needs D, CGET reads a field, CTEST tests the bounds of R37, and CBOUND narrows the window
inside the old one, keeps cursor, object and rights, and needs D and a present object. -/
def Obligations.CapabilityInstructionsDeriveWithoutGrowing : Prop :=
  (∀ (s : State) (d : CReg) (x : SReg) (a : CSrc) (b : SSrc) (imm : BitVec 12) (k : Fin 64),
     s.GivesC (.cmov d a) d (s.rC a.r) ∧
     ((BitVec.ofNat 64 (capCursor (s.rC a.r)) + s.rS b.r).toNat < 2 ^ 60 → s.GivesC (.cinc d a b) d
       (withCursor (s.rC a.r) (BitVec.ofNat 64 (capCursor (s.rC a.r)) + s.rS b.r).toNat)) ∧
     (2 ^ 60 ≤ (BitVec.ofNat 64 (capCursor (s.rC a.r)) + s.rS b.r).toNat → s.Passes (.cinc d a b) →
       s.Traps (.cinc d a b) tCAPBOUND 0) ∧
     ((BitVec.ofNat 64 (capCursor (s.rC a.r)) + BitVec.ofInt 64 imm.toInt).toNat < 2 ^ 60 → s.GivesC (.cinci d a imm) d
       (withCursor (s.rC a.r) (BitVec.ofNat 64 (capCursor (s.rC a.r)) + BitVec.ofInt 64 imm.toInt).toNat)) ∧
     (2 ^ 60 ≤ (BitVec.ofNat 64 (capCursor (s.rC a.r)) + BitVec.ofInt 64 imm.toInt).toNat → s.Passes (.cinci d a imm) →
       s.Traps (.cinci d a imm) tCAPBOUND 0) ∧
     (capHas (s.rC a.r) rD = true → s.Passes (.crights d a b) → ∃ t c, exec (.crights d a b) s = .next t ∧
       s.Plain t (.crights d a b) [] [] [] [d.val] ∧ (t.rC d = if d = 0 then 0 else c) ∧
       (∀ j < 8, (capRights c).testBit j = ((capRights (s.rC a.r)).testBit j && (s.rS b.r).getLsbD j)) ∧
       capCursor c = capCursor (s.rC a.r) ∧ capOid c = capOid (s.rC a.r) ∧ capWoff c = capWoff (s.rC a.r) ∧
       capWlen c = capWlen (s.rC a.r)) ∧
     (capHas (s.rC a.r) rD = false → s.Passes (.crights d a b) → s.Traps (.crights d a b) tCAPRIGHT 0) ∧
     s.GivesS (.cget x a k) x (BitVec.ofNat 64 (capField (s.rC a.r) k.val)) ∧
     s.GivesS (.ctest x a b) x (match s.obj? (capOid (s.rC a.r)) with
       | none => 0
       | some o => if capCursor (s.rC a.r) < 2 ^ 60 ∧ (capWindow (s.rC a.r) o).1 ≤ capCursor (s.rC a.r) ∧
           capCursor (s.rC a.r) + (s.rS b.r).toNat ≤ (capWindow (s.rC a.r) o).2 then 1 else 0)) ∧
  (∀ (s : State) (d : CReg) (a : CSrc) (b : SSrc), s.Passes (.cbound d a b) →
     match s.obj? (capOid (s.rC a.r)) with
     | none => s.Traps (.cbound d a b) tCAPBOUND 0
     | some o =>
       let c := s.rC a.r
       let w := (s.rS b.r).toNat % 2 ^ 20
       let l := (s.rS b.r).toNat / 2 ^ 20
       let oldEnd := if capWlen c = 0 then o.len else min (capWoff c + capWlen c) o.len
       let newEnd := if l = 0 then o.len else w + l
       if capHas c rD = false then s.Traps (.cbound d a b) tCAPRIGHT 0
       else if 2 ^ 36 ≤ (s.rS b.r).toNat ∨ w < capWoff c ∨ oldEnd < newEnd then s.Traps (.cbound d a b) tCAPBOUND 0
       else ∃ t n, exec (.cbound d a b) s = .next t ∧ s.Plain t (.cbound d a b) [] [] [] [d.val] ∧
         (t.rC d = if d = 0 then 0 else n) ∧ capCursor n = capCursor c ∧ capOid n = capOid c ∧
         capRights n = capRights c ∧ capWoff n = w ∧ capWlen n = l)

/-! Special registers, traps and privileged registers. -/

/-- MFS reads the registers of Table 1-5 (R32, R33, R168); MTS writes FPC, FLAGS or NF under their masks and nothing else,
and every other register of the table raises PRIV (R7, R32, R79, R168). A read or a write of FLAGS stalls while the lane has
array commands that have not completed (R168). -/
def Obligations.SpecialRegistersAreReadAndWritten : Prop :=
  (∀ (s : State) (d : SReg),
     (∀ n : Fin 64, n.val ≠ 12 ∨ s.commandsOf s.cur = false → s.GivesS (.mfs d n) d (s.special n.val)) ∧
     (s.commandsOf s.cur = true → s.Passes (.mfs d 12) → s.Stalls (.mfs d 12)) ∧
     s.special 0 = BitVec.ofNat 64 s.ln.task ∧ s.special 1 = BitVec.ofNat 64 s.rec_.f.gid ∧
     s.special 2 = BitVec.ofNat 64 (s.cur / 8) ∧ s.special 3 = BitVec.ofNat 64 (2048 * s.npkg) ∧
     s.special 4 = BitVec.ofNat 64 (s.cur / 8 / 2048) ∧ s.special 5 = BitVec.ofNat 64 s.npkg ∧
     s.special 6 = BitVec.ofNat 64 ((s.time : Int) + (s.pkg (s.pkgOf s.lcore)).ahead).toNat ∧
     s.special 7 = BitVec.ofNat 64 (s.cyc - (s.pkg (s.pkgOf s.lcore)).cyc0) ∧
     s.special 8 = s.rec_.f.deadline ∧ s.special 9 = s.ln.budg ∧ s.special 10 = BitVec.ofNat 64 s.rec_.f.cls ∧
     s.special 11 = s.ln.fpc ∧ s.special 12 = s.ln.flags ∧ s.special 13 = s.ln.nf ∧
     (∀ k : Fin 8, s.special (16 + k.val) = s.ln.fmt[k].zeroExtend 64) ∧
     s.special 28 = s.ln.trapc ∧ s.special 29 = s.ln.trappc ∧ s.special 30 = s.ln.trapva ∧
     s.special 31 = BitVec.ofNat 64 (s.cur % 8) ∧
     ∀ x, s.k.launch = some x → (∀ k < 4, s.special (24 + k) = lget x.seed k 0) ∧ s.special 32 = BitVec.ofNat 64 x.valloc ∧
       s.special 33 = x.part.zeroExtend 64 ∧ s.special 34 = x.mode.zeroExtend 64) ∧
  (∀ (s : State) (n : Fin 64) (a : SSrc),
     (n.val = 11 ∨ n.val = 13 ∨ (n.val = 12 ∧ s.commandsOf s.cur = false) → s.Passes (.mts n a) →
       ∃ t, exec (.mts n a) s = .next t ∧ t = { s with ln := t.ln } ∧ (∀ m, t.mem.read m = s.mem.read m) ∧
         t.ln.pc = s.ln.pc + 4 ∧ (∀ r, t.rS r = s.rS r) ∧ (∀ r, t.rV r = s.rV r) ∧ (∀ r, t.rM r = s.rM r) ∧
         (∀ r, t.rC r = s.rC r) ∧ t.ln.fmt = s.ln.fmt ∧ t.ln.trapc = s.ln.trapc ∧
         (t.ln.fpc = if n.val = 11 then s.rS a.r &&& 0x1F03 else s.ln.fpc) ∧
         (t.ln.nf = if n.val = 13 then s.rS a.r &&& 7 else s.ln.nf) ∧
         (n.val = 12 → depends (.mts n a) s.ln = false → t.ln.flags = s.rS a.r &&& 0xFFFF0001)) ∧
     (n.val ≤ 10 ∨ (16 ≤ n.val ∧ n.val ≤ 34) → s.ln.blk < 256 → s.Traps (.mts n a) tPRIV 0) ∧
     (n.val = 12 → s.commandsOf s.cur = true → s.Passes (.mts n a) → s.Stalls (.mts n a)))

/-- TRAP raises SWTRAP with VA = s[A] (R170); TRET, SYSRD and SYSWR raise PRIV outside a service context (R171, R172). -/
def Obligations.TrapAndPrivilegedFormsTakeTheirTrap : Prop :=
  ∀ (s : State) (d : SReg) (a b : SSrc),
    (s.Passes (.trap a) → s.Traps (.trap a) tSWTRAP (s.rS a.r)) ∧
    (s.k.service = false → s.ln.blk < 256 → s.Traps (.tret a) tPRIV 0 ∧ s.Traps (.sysrd d a) tPRIV 0 ∧
      s.Traps (.syswr a b) tPRIV 0)

/-- In a service context SYSRD reads a register that exists, SYSWR sends its write to the commit, and TRET sends the
release of the record that the handler received; a number that no register has, or that does not allow the access, raises
ILLEGAL, and so does a written value that sets a reserved field, selects a reserved encoding, is a consumer index out of its
range, or raises the sum of the reserves above L (R171, R172, R297, R299, R304; that the trap stands for reserved fields, where
R7 has a write ignore them, is the model's choice, log entry 67). -/
def Obligations.SystemRegisterAccessInAServiceContext : Prop :=
  ∀ (s : State) (d : SReg) (a b : SSrc),
    (∀ x, s.sysReg ((s.rS a.r).toNat % 65536) = some x → s.Passes (.sysrd d a) →
      ∃ t, exec (.sysrd d a) s = .next t ∧ s.Went t (.sysrd d a) (s.ln.pc + 4) [d.val] [] [] [] ∧
        (t.rS d = if d = 0 then 0 else x) ∧ t = { s with ln := t.ln, tick := t.tick }) ∧
    (s.sysReg ((s.rS a.r).toNat % 65536) = none → s.Passes (.sysrd d a) → s.Traps (.sysrd d a) tILLEGAL 0) ∧
    (s.sysBad ((s.rS a.r).toNat % 65536) (s.rS b.r) = false →
      s.Sends (.syswr a b) (.syswr ((s.rS a.r).toNat % 65536) (s.rS b.r)) .relaxed) ∧
    (s.sysBad ((s.rS a.r).toNat % 65536) (s.rS b.r) = true → s.Passes (.syswr a b) → s.Traps (.syswr a b) tILLEGAL 0) ∧
    (s.ln.trapc ≠ 0 → s.ln.tret = false →
      s.Sends (.tret a) (.tret (s.rec_.handles.getD 0) (s.rS a.r)) .relaxed) ∧
    (s.ln.trapc = 0 ∨ s.ln.tret = true → s.Passes (.tret a) → s.Traps (.tret a) tILLEGAL 0) ∧
    s.sysReg 1 = some (s.k.fnmode.zeroExtend 64) ∧ s.sysReg 5 = some s.k.slottab ∧ s.sysReg 0x10 = some s.k.rsvlo ∧
    s.sysReg 0x11 = some s.k.rsvhi ∧ s.sysReg 0x33 = some (s.pkg (s.pkgOf s.lcore)).pwrcap ∧ s.sysReg 0x0B = none

/-! Control. -/

/-- Conditional branches compare s[A] with zero as a signed number; a taken one goes to PC + OFF * 4, another one to PC + 4,
and nothing else changes (R162).
J, JAL, JALR and LOOP (R162, R163): the link is the next address, JALR reads its target before it writes the link,
and LOOP counts s[A] down and branches while it is not zero. -/
def Obligations.BranchesJumpsAndLoopsGoWhereTheyShould : Prop :=
  (∀ (s : State) (a : SSrc) (off : BitVec 15),
     let tgt : Word := s.ln.pc + BitVec.ofInt 64 (off.toInt * 4)
     let on : Word := s.ln.pc + 4
     let x := (s.rS a.r).toInt
     s.GoesTo (.beqz a off) (if x = 0 then tgt else on) none ∧ s.GoesTo (.bnez a off) (if x = 0 then on else tgt) none ∧
     s.GoesTo (.bltz a off) (if x < 0 then tgt else on) none ∧ s.GoesTo (.bgez a off) (if x < 0 then on else tgt) none ∧
     s.GoesTo (.bgtz a off) (if 0 < x then tgt else on) none ∧ s.GoesTo (.blez a off) (if 0 < x then on else tgt) none) ∧
  (∀ (s : State) (d : SReg) (a : SSrc) (r : SReg) (off : BitVec 25) (o : BitVec 15) (imm : BitVec 12),
     s.GoesTo (.j off) (s.ln.pc + BitVec.ofInt 64 (off.toInt * 4)) none ∧
     s.GoesTo (.jal off) (s.ln.pc + BitVec.ofInt 64 (off.toInt * 4)) (some (63, s.ln.pc + 4)) ∧
     s.GoesTo (.jalr d a imm) (s.rS a.r + BitVec.ofInt 64 imm.toInt) (some (d, s.ln.pc + 4)) ∧
     (r ≠ 0 → s.GoesTo (.loop r o) (if s.rS r = 1 then s.ln.pc + 4 else s.ln.pc + BitVec.ofInt 64 (o.toInt * 4))
       (some (r, s.rS r - 1))))

/-- SIG ends the block: S and the block's count start again, the outbox entries so far become those that a final trap
keeps, a mismatch is noted where SIGON is set, and the lane comes to VERIFY when a commit is due (R97, R102, R165, R323).
YIELD and END leave the commit to the SIG that follows (R254). -/
def Obligations.SigEndsTheBlock : Prop :=
  ∀ (s : State) (v : BitVec 20),
    (s.Passes (.sig v) → ∃ t, exec (.sig v) s = .next t ∧ t = { s with ln := t.ln } ∧
      Lane.After s.ln t.ln (.sig v) [] [] [] [] ∧ t.ln.pc = s.ln.pc + 4 ∧ t.ln.sig = 0 ∧ t.ln.blk = 0 ∧
      t.ln.box = s.ln.box ∧ t.ln.boxSig = s.ln.box.length ∧ t.ln.fpc = s.ln.fpc ∧
      (s.ln.mism = none → t.ln.mism = if s.sigon = true ∧ v ≠ s.ln.sig then some s.ln.pc else none) ∧
      (t.ln.st = if s.ln.susp.isSome = true ∨ s.ln.st = .finish then .verify else s.ln.st)) ∧
    (s.Passes .yield → ∃ t, exec .yield s = .next t ∧ s.Went t .yield (s.ln.pc + 4) [] [] [] [] ∧
      t.ln.susp = some .yield ∧ t.ln.box = s.ln.box ∧ t = { s with ln := t.ln }) ∧
    (s.Passes .endOp → ∃ t, exec .endOp s = .next t ∧ s.Went t .endOp (s.ln.pc + 4) [] [] [] [] ∧
      t.ln.susp = some .finish ∧ t.ln.box = s.ln.box ∧ t = { s with ln := t.ln })

/-- NOP is the word 0x3800_0000 alone; it retires, contributes its term to S, and changes nothing else (R166): S rotates by 7
and takes the term of R323, the next instruction is the one at PC + 4, and the block and the open windows count one instruction
more. -/
def Obligations.NopRetiresAndChangesNothingElse : Prop :=
  encode .nop = some (0x38000000, none) ∧ (∀ w < 2 ^ 32, decodeWords w none = .ok .nop ↔ w = 0x38000000) ∧
  ∀ s : State, s.Passes .nop → exec .nop s = .next { s with ln := { s.ln with
    pc := s.ln.pc + 4, from_ := s.ln.pc, blk := s.ln.blk + 1, wins := stepWins .nop s.ln.wins
    sig := rotl20 s.ln.sig 7 ^^^ (s.ir.extractLsb' 0 20 ^^^ ((s.ir.extractLsb' 20 12).zeroExtend 20 <<< 4)) } }
/-! Vector instructions. -/

/-- Elementwise arithmetic of majors 0x20 and 0x21 (R177, R180): each active position computes from the same positions of
its sources, integers keep the low bits of the exact result, floats round once, and the fused forms read the old
destination.
Vector logic and shifts (R181): bits of the elements, and shift amounts modulo the width. -/
def Obligations.VectorArithmeticAndLogicAreElementwise : Prop :=
  (∀ (s : State) (t : ETy) (n : Bool) (d : VReg) (a b : VSrc) (m : Bool),
     let w := t.width
     let x := s.runAt w a.r.val
     let y := s.runAt w b.r.val
     let z := s.runAt w d.val
     let u (k : Nat) : FVal := unpackF (fmtOf t) (x k)
     let v (k : Nat) : FVal := unpackF (fmtOf t) (y k)
     let c (k : Nat) : FVal := unpackF (fmtOf t) (z k)
     let rm := s.fpcMode
     s.GivesE (.vadd t d a b m) w m d.val 1 (fun k => if t.isInt then (x k + y k, 0) else addV (fmtOf t) rm (u k) (v k)) ∧
     s.GivesE (.vsub t d a b m) w m d.val 1 (fun k =>
       if t.isInt then (2 ^ w + x k - y k, 0) else addV (fmtOf t) rm (u k) (v k).negate) ∧
     s.GivesE (.vmul t d a b m) w m d.val 1 (fun k => if t.isInt then (x k * y k, 0) else mulF (fmtOf t) rm (u k) (v k)) ∧
     s.GivesE (.vmulh t n d a b m) w m d.val 1 (fun k => (ofInt w (valOf n w (x k) * valOf n w (y k) / (2 ^ w : Nat)), 0)) ∧
     s.GivesE (.vadds t n d a b m) w m d.val 1 (fun k => (ofInt w (clampInt n w (valOf n w (x k) + valOf n w (y k))), 0)) ∧
     s.GivesE (.vsubs t n d a b m) w m d.val 1 (fun k => (ofInt w (clampInt n w (valOf n w (x k) - valOf n w (y k))), 0)) ∧
     s.GivesE (.vmin t n d a b m) w m d.val 1 (fun k =>
       if t.isInt then (ofInt w (min (valOf n w (x k)) (valOf n w (y k))), 0) else minmaxF (fmtOf t) false (x k) (y k)) ∧
     s.GivesE (.vmax t n d a b m) w m d.val 1 (fun k =>
       if t.isInt then (ofInt w (max (valOf n w (x k)) (valOf n w (y k))), 0) else minmaxF (fmtOf t) true (x k) (y k)) ∧
     s.GivesE (.vabs t d a m) w m d.val 1 (fun k => if t.isInt then (ofInt w (sgn w (x k)).natAbs, 0) else eAbs t (x k)) ∧
     s.GivesE (.vneg t d a m) w m d.val 1 (fun k => if t.isInt then (2 ^ w - x k, 0) else eNeg t (x k)) ∧
     s.GivesE (.vdiv t n d a b m) w m d.val 1 (fun k =>
       if t.isInt then (if y k = 0 then 2 ^ w - 1 else ofInt w ((valOf n w (x k)).tdiv (valOf n w (y k))), 0)
       else divF (fmtOf t) rm (u k) (v k)) ∧
     s.GivesE (.vfma t d a b m) w m d.val 1 (fun k =>
       if t.isInt then (x k * y k + z k, 0) else fmaF (fmtOf t) rm (u k) (v k) (c k)) ∧
     s.GivesE (.vfms t d a b m) w m d.val 1 (fun k =>
       if t.isInt then (x k * y k + (2 ^ w - z k), 0) else fmaF (fmtOf t) rm (u k) (v k) (c k).negate) ∧
     s.GivesE (.vfnma t d a b m) w m d.val 1 (fun k =>
       if t.isInt then (ofInt w (z k - x k * y k), 0) else fmaF (fmtOf t) rm (u k).negate (v k) (c k))) ∧
  (∀ (s : State) (t : ETy) (d : VReg) (a b : VSrc) (m : Bool),
     let w := t.width
     let x := s.runAt w a.r.val
     let y := s.runAt w b.r.val
     s.GivesE (.vand t d a b m) w m d.val 1 (fun k => (x k &&& y k, 0)) ∧
     s.GivesE (.vor t d a b m) w m d.val 1 (fun k => (x k ||| y k, 0)) ∧
     s.GivesE (.vxor t d a b m) w m d.val 1 (fun k => (x k ^^^ y k, 0)) ∧
     s.GivesE (.vnot t d a m) w m d.val 1 (fun k => ((2 ^ w - 1) ^^^ x k, 0)) ∧
     s.GivesE (.vshl t d a b m) w m d.val 1 (fun k => (x k * 2 ^ (y k % w), 0)) ∧
     s.GivesE (.vshr t d a b m) w m d.val 1 (fun k => (x k / 2 ^ (y k % w), 0)) ∧
     s.GivesE (.vsra t d a b m) w m d.val 1 (fun k => (ofInt w (sgn w (x k) / (2 ^ (y k % w) : Nat)), 0)))

/-- Compares (R182): bit k of the mask is the truth of the compare of the active position k, other positions keep their
bit, and bits beyond the elements are zero; an unordered pair makes only ne true. -/
def Obligations.VectorComparesWriteTheirMask : Prop :=
  ∀ (s : State) (t : ETy) (n : Bool) (d : MReg) (a b : VSrc) (m : Bool),
    let w := t.width
    let x := s.runAt w a.r.val
    let y := s.runAt w b.r.val
    let r (k : Nat) : FRes := if t.isInt then
        (if valOf n w (x k) < valOf n w (y k) then 1 else if valOf n w (x k) = valOf n w (y k) then 2 else 4, 0)
      else relF (fmtOf t) (x k) (y k)
    let gives (i : Instr) (cc : List Nat) : Prop := s.Passes i → ∃ u fl, exec i s = .next u ∧
      s.PlainF u i fl [] [] [d.val] [] ∧
      (∀ k < elemCount w, s.Active m k → ((u.rM d).getLsbD k = true ↔ (r k).1 ∈ cc)) ∧
      (∀ k < elemCount w, ¬ s.Active m k → (u.rM d).getLsbD k = (s.rM d).getLsbD k) ∧
      (∀ k, elemCount w ≤ k → (u.rM d).getLsbD k = false) ∧
      (∀ j < 5, fl.testBit j = true ↔ ∃ k < elemCount w, s.Active m k ∧ (r k).2.testBit j = true)
    gives (.vcmpeq t n d a b m) [2] ∧ gives (.vcmpne t n d a b m) [1, 4, 8] ∧ gives (.vcmplt t n d a b m) [1] ∧
    gives (.vcmple t n d a b m) [1, 2] ∧ gives (.vcmpgt t n d a b m) [4] ∧ gives (.vcmpge t n d a b m) [2, 4]

/-- Masks over the n positions of a type (R183): VSEL selects by m0, the mask operations clear bits at or above n, MPOP
counts, MFIRST finds the lowest set bit or gives n, and MSET sets the first min(s[A], n) bits. -/
def Obligations.MaskInstructionsWorkOnThePositionsOfTheType : Prop :=
  ∀ (s : State) (t : ETy) (d : MReg) (v : VReg) (a b : MSrc) (x y : VSrc),
    let n := elemCount t.width
    s.GivesE (.vsel t v x y) t.width false v.val 1 (fun k =>
      if (s.rM 0).getLsbD k then (s.runAt t.width x.r.val k, 0) else (s.runAt t.width y.r.val k, 0)) ∧
    s.GivesM (.mand t d a b) d (s.rM a.r &&& s.rM b.r &&& BitVec.ofNat 1024 (2 ^ n - 1)) ∧
    s.GivesM (.mor t d a b) d ((s.rM a.r ||| s.rM b.r) &&& BitVec.ofNat 1024 (2 ^ n - 1)) ∧
    s.GivesM (.mxor t d a b) d ((s.rM a.r ^^^ s.rM b.r) &&& BitVec.ofNat 1024 (2 ^ n - 1)) ∧
    s.GivesM (.mnot t d a) d (~~~(s.rM a.r) &&& BitVec.ofNat 1024 (2 ^ n - 1)) ∧
    s.GivesS (.mpop t v a) (Fin.ofNat 64 v.val)
      (BitVec.ofNat 64 ((List.range n).countP (fun k => (s.rM a.r).getLsbD k))) ∧
    s.GivesSuch (.mfirst t v a) (Fin.ofNat 64 v.val) (fun r => r.toNat ≤ n ∧
      (∀ k < r.toNat, (s.rM a.r).getLsbD k = false) ∧ (r.toNat < n → (s.rM a.r).getLsbD r.toNat = true)) ∧
    s.GivesM (.mset t d x) d (BitVec.ofNat 1024 (2 ^ min (s.sV x).toNat n - 1))

/-- Moves and permutes (R184): every position takes the element that Table 8-4 names. -/
def Obligations.MovesAndPermutesPlaceTheirElements : Prop :=
  ∀ (s : State) (t : ETy) (n : Bool) (d : VReg) (a b : VSrc) (m : Bool),
    let w := t.width
    let c := elemCount w
    let x := s.runAt w a.r.val
    let y := s.runAt w b.r.val
    s.GivesE (.vmov t d a m) w m d.val 1 (fun k => (x k, 0)) ∧
    s.GivesE (.vsplat t d a m) w m d.val 1 (fun _ => ((s.sV a).toNat, 0)) ∧
    s.GivesS (.vext t n d a b) (Fin.ofNat 64 d.val) (if t.isInt = true ∧ n = false
      then BitVec.ofInt 64 (sgn w (x ((s.sV b).toNat % c))) else BitVec.ofNat 64 (x ((s.sV b).toNat % c))) ∧
    s.GivesE (.vins t d a b m) w m d.val 1 (fun k =>
      if k = (s.sV b).toNat % c then ((s.sV a).toNat, 0) else (s.runAt w d.val k, 0)) ∧
    s.GivesE (.vidx t d a m) w m d.val 1 (fun k => ((s.sV a).toNat + k, 0)) ∧
    s.GivesE (.vperm t d a b m) w m d.val 1 (fun k => (x (y k % c), 0)) ∧
    s.GivesE (.vrot t d a b m) w m d.val 1 (fun k => (x ((k + (s.sV b).toNat) % c), 0)) ∧
    s.GivesE (.vslide t d a b m) w m d.val 1 (fun k =>
      if 0 ≤ (k : Int) + (s.sV b).toInt ∧ (k : Int) + (s.sV b).toInt < c
      then (x ((k : Int) + (s.sV b).toInt).toNat, 0) else (0, 0)) ∧
    (Instr.wf (.vzip t d a b m) = true → s.GivesE (.vzip t d a b m) w m d.val 2 (fun k =>
      if k % 2 = 0 then (x (k / 2), 0) else (y (k / 2), 0))) ∧
    (Instr.wf (.vunzip t d a m) = true → s.GivesE (.vunzip t d a m) w m d.val 2 (fun k =>
      if k < c then (x (2 * k), 0) else (x (2 * (k - c) + 1), 0)))

/-- VGETR and VPUTR address the register whose number they compute (R185): outside the allocation they raise REGBOUND, a
dead register that they read raises DEADREG, and the last-use bit of VGETR's base kills the computed register. -/
def Obligations.ComputedRegisterNumbersAreChecked : Prop :=
  ∀ (s : State) (t : ETy) (d : VReg) (a b : VSrc) (m : Bool),
    let w := t.width
    let kg : Int := a.r.val + (s.sV b).toInt
    let kp : Int := d.val + (s.sV b).toInt
    (s.Passes (.vgetr t d a b m) → (kg < 0 ∨ (s.alloc : Int) ≤ kg) → s.Traps (.vgetr t d a b m) tREGBOUND 0) ∧
    (s.Passes (.vgetr t d a b m) → 0 ≤ kg → kg < s.alloc → s.ln.vLive kg.toNat = false →
      s.Traps (.vgetr t d a b m) tDEADREG 0) ∧
    (s.Passes (.vgetr t d a b m) → 0 ≤ kg → kg < s.alloc → kg < 32 → s.ln.vLive kg.toNat = true →
      ∃ u, exec (.vgetr t d a b m) s = .next u ∧ u = { s with ln := u.ln } ∧ u.ln.pc = s.ln.pc + 4 ∧
        (∀ k < elemCount w, s.Active m k → u.runAt w d.val k = s.runAt w kg.toNat k) ∧
        (∀ k < elemCount w, ¬ s.Active m k → u.runAt w d.val k = s.runAt w d.val k) ∧
        (∀ r, r ≠ d → u.rV r = s.rV r) ∧ u.ln.vLive d.val = true ∧ u.ln.fpc = s.ln.fpc ∧
        (∀ n < 32, n ≠ d.val → (u.ln.vLive n = true ↔ s.ln.vLive n = true ∧ ¬ (a.last = true ∧ n = kg.toNat))) ∧
        (∀ r, u.rS r = s.rS r) ∧ (∀ r, u.rM r = s.rM r) ∧ (∀ r, u.rC r = s.rC r)) ∧
    (s.Passes (.vputr t d a b m) → (kp < 0 ∨ (s.alloc : Int) ≤ kp) → s.Traps (.vputr t d a b m) tREGBOUND 0) ∧
    (s.Passes (.vputr t d a b m) → 0 ≤ kp → kp < s.alloc → m = true → s.ln.vLive kp.toNat = false →
      s.Traps (.vputr t d a b m) tDEADREG 0) ∧
    (s.Passes (.vputr t d a b m) → 0 ≤ kp → kp < s.alloc → kp < 32 → (m = true → s.ln.vLive kp.toNat = true) →
      ∃ u, exec (.vputr t d a b m) s = .next u ∧ u = { s with ln := u.ln } ∧ u.ln.pc = s.ln.pc + 4 ∧
        (∀ k < elemCount w, s.Active m k → u.runAt w kp.toNat k = s.runAt w a.r.val k) ∧
        (∀ k < elemCount w, ¬ s.Active m k → u.runAt w kp.toNat k = s.runAt w kp.toNat k) ∧
        (∀ r, r.val ≠ kp.toNat → u.rV r = s.rV r) ∧ u.ln.vLive kp.toNat = true ∧ u.ln.fpc = s.ln.fpc ∧
        (∀ r, u.rS r = s.rS r) ∧ (∀ r, u.rM r = s.rM r) ∧ (∀ r, u.rC r = s.rC r))

/-- Conversion, widening, narrowing and VFMT (R186 to R190): VCVT converts each element of its run in blocked order and
raises FORMAT under an invalid selected format, VWADD and VWMUL write exact or once-rounded results as a pair, VNARROW
rounds its shift to nearest even and clamps, and VFMT writes 18 bits of a format register.
VNARROW's shift is the nearest integer to x / 2^k, and the even one of two that are equally near (R189). -/
def Obligations.ConversionsKeepBlockedOrder : Prop :=
  (∀ (s : State) (t st : ETy) (n sn : Bool) (d : VReg) (a b : VSrc) (sh : Fin 32) (q : Fin 8) (m : Bool),
     let w := t.width
     let x := s.runAt w a.r.val
     let y := s.runAt w b.r.val
     let u (k : Nat) : FVal := unpackF (fmtOf t) (x k)
     let v (k : Nat) : FVal := unpackF (fmtOf t) (y k)
     ((t = .x8 ∨ st = .x8) → nfValid s.nfFmt = false → s.Passes (.vcvt t n d a st sn m) →
       s.Traps (.vcvt t n d a st sn m) tFORMAT 0) ∧
     (Instr.wf (.vcvt t n d a st sn m) = true → ((t = .x8 ∨ st = .x8) → nfValid s.nfFmt = true) →
       s.GivesE (.vcvt t n d a st sn m) w m d.val (if st.width < w then w / st.width else 1) (fun k =>
         let e := s.runAt st.width a.r.val k
         if t.isInt then
           if st.isInt then (ofInt w (valOf sn st.width e), 0)
           else toIntF s.fpcMode n w (if st = .x8 then nfDecode s.nfFmt (e % 2 ^ nfW s.nfFmt) else unpackF (fmtOf st) e)
         else
           let val := if st.isInt then intV (valOf sn st.width e)
             else if st = .x8 then nfDecode s.nfFmt (e % 2 ^ nfW s.nfFmt) else unpackF (fmtOf st) e
           if t = .x8 then nfEncode s.nfFmt val else roundV (fmtOf t) s.fpcMode val)) ∧
     (Instr.wf (.vwadd t n d a b m) = true → s.GivesE (.vwadd t n d a b m) (2 * w) m d.val 2 (fun k =>
       if t.isInt then (ofInt (2 * w) (valOf n w (x k) + valOf n w (y k)), 0) else addV fmtF32 s.fpcMode (u k) (v k))) ∧
     (Instr.wf (.vwmul t n d a b m) = true → s.GivesE (.vwmul t n d a b m) (2 * w) m d.val 2 (fun k =>
       if t.isInt then (ofInt (2 * w) (valOf n w (x k) * valOf n w (y k)), 0) else mulF fmtF32 s.fpcMode (u k) (v k))) ∧
     (Instr.wf (.vnarrow t n d a sh m) = true → s.GivesE (.vnarrow t n d a sh m) w m d.val 1 (fun k =>
       (ofInt w (clampInt n w (rneShift (valOf n (2 * w) (s.runAt (2 * w) a.r.val k)) sh.val)), 0))) ∧
     (s.Passes (.vfmt q a) → ∃ r, exec (.vfmt q a) s = .next r ∧ r = { s with ln := r.ln } ∧ r.ln.pc = s.ln.pc + 4 ∧
       r.ln.fmt[q].toNat = (s.sV a).toNat % 2 ^ 18 ∧ (∀ k : Fin 8, k ≠ q → r.ln.fmt[k] = s.ln.fmt[k]) ∧
       (∀ i, r.rS i = s.rS i) ∧ (∀ i, r.rV i = s.rV i) ∧ (∀ i, r.rM i = s.rM i) ∧ (∀ i, r.rC i = s.rC i) ∧
       r.ln.fpc = s.ln.fpc ∧ r.ln.nf = s.ln.nf)) ∧
  (∀ (x : Int) (k : Nat), let y := rneShift x k
     let p : Int := (2 ^ k : Nat)
     2 * (y * p - x) ≤ p ∧ 2 * (x - y * p) ≤ p ∧ (2 * (y * p - x) = p ∨ 2 * (x - y * p) = p → y % 2 = 0))

/-- Reductions (R191, R192): VRED writes the root of the fixed tree into element 0 and zeros above it, VDOT the sum of its
products, VSCAN every prefix; a leaf whose m0 bit is clear is absent, and the flags are those of the products and nodes formed.
On integers the trees compute what no order can change (R191, R192): the wrapping sum of the active elements, the
least and the greatest of them, zero where none is active, and VSCAN the sums of the prefixes.
That VSCAN with M = 1 writes every element is the model's reading (log entry 22). -/
def Obligations.ReductionsFollowTheFixedTree : Prop :=
  (∀ (s : State) (t : ETy) (n : Bool) (d : VReg) (a b : VSrc) (op : RedOp) (m : Bool),
     let w := t.width
     let c := elemCount w
     let leaf (f : Nat → Nat) : List (Option Nat) := (List.range c).map (fun k =>
       if m = false ∨ (s.rM 0).getLsbD k = true then some (f k) else none)
     let f := redOp t n s.fpcMode op
     let p (k : Nat) : FRes := dotE t n s.fpcMode (s.runAt w a.r.val k) (s.runAt w b.r.val k)
     let g := redOp (dotTy t) n s.fpcMode .sum
     let root := treeRoot f c.log2 (leaf (s.runAt w a.r.val))
     let dot := treeRoot g c.log2 (leaf (fun k => (p k).1))
     let lv := treeLevels f c.log2 (leaf (s.runAt w a.r.val))
     (s.Passes (.vred t n d a op m) → ∃ u, exec (.vred t n d a op m) s = .next u ∧
       s.PlainF u (.vred t n d a op m) root.2 [] [d.val] [] [] ∧ elemAt w (u.rV d) 0 = root.1 % 2 ^ w ∧
       ∀ k < c, k ≠ 0 → elemAt w (u.rV d) k = 0) ∧
     (s.Passes (.vdot t n d a b m) → ∃ u fl, exec (.vdot t n d a b m) s = .next u ∧
       s.PlainF u (.vdot t n d a b m) fl [] [d.val] [] [] ∧ elemAt 32 (u.rV d) 0 = dot.1 % 2 ^ 32 ∧
       (∀ k < 128, k ≠ 0 → elemAt 32 (u.rV d) k = 0) ∧
       ∀ j < 5, fl.testBit j = true ↔ dot.2.testBit j = true ∨ ∃ k < c, s.Active m k ∧ (p k).2.testBit j = true) ∧
     (s.Passes (.vscan t n d a op m) → ∃ u fl, exec (.vscan t n d a op m) s = .next u ∧
       s.PlainF u (.vscan t n d a op m) fl [] [d.val] [] [] ∧
       (∀ k < c, elemAt w (u.rV d) k = ((prefixOf f lv.1 (k + 1) (c.log2 + 1) 0 (none, 0)).1.getD 0) % 2 ^ w) ∧
       ∀ j < 5, fl.testBit j = true ↔ lv.2.testBit j = true ∨
         ∃ k < c, (prefixOf f lv.1 (k + 1) (c.log2 + 1) 0 (none, 0)).2.testBit j = true)) ∧
  (∀ (t : ETy) (n : Bool) (rm : RMode) (l : List (Option Nat)), t.isInt = true → l.length = elemCount t.width →
     (∀ x ∈ l, ∀ y ∈ x, y < 2 ^ t.width) →
     (treeRoot (redOp t n rm .sum) l.length.log2 l).1 = (l.map (fun x => x.getD 0)).sum % 2 ^ t.width ∧
     (∀ x ∈ l, ∀ y ∈ x, valOf n t.width (treeRoot (redOp t n rm .min) l.length.log2 l).1 ≤ valOf n t.width y ∧
       valOf n t.width y ≤ valOf n t.width (treeRoot (redOp t n rm .max) l.length.log2 l).1) ∧
     ((∃ x ∈ l, x.isSome = true) → some (treeRoot (redOp t n rm .min) l.length.log2 l).1 ∈ l ∧
       some (treeRoot (redOp t n rm .max) l.length.log2 l).1 ∈ l) ∧
     ∀ k < l.length, ((prefixOf (redOp t n rm .sum) (treeLevels (redOp t n rm .sum) l.length.log2 l).1 (k + 1)
       (l.length.log2 + 1) 0 (none, 0)).1.getD 0) = ((l.take (k + 1)).map (fun x => x.getD 0)).sum % 2 ^ t.width)

/-- Sorting (R193, R194): each form writes the stable sort of its run by key, that is, keys in order and equal keys in the
order of their positions; VSORTKV moves the values along; VTOPK writes the k greatest and their positions. -/
def Obligations.SortsAreOrderedAndStable : Prop :=
  ∀ (s : State) (t : ETy) (n : Bool) (d : VReg) (a b : VSrc) (logk : Fin 4) (desc : Bool),
    let w := t.width
    let c := elemCount w
    let key (x : Nat) : Nat := sortKey t n x
    let ordered (z : Bool) (l : List (Nat × Nat)) : Prop :=
      l.Pairwise (fun p q => if z then key q.1 ≤ key p.1 else key p.1 ≤ key q.1)
    let stable (l r : List (Nat × Nat)) : Prop := ∀ x, l.filter (fun p => key p.1 = x) = r.filter (fun p => key p.1 = x)
    let len := 2 ^ logk.val
    let src (r q : Nat) : List (Nat × Nat) := (List.range (q * c)).map (fun k => (s.runAt w r k, k))
    (s.Passes (.vsort t n d logk desc) → ∃ u l, exec (.vsort t n d logk desc) s = .next u ∧
      s.Plain u (.vsort t n d logk desc) [] (List.range' d.val len) [] [] ∧ l.length = len * c ∧ ordered desc l ∧
      stable l (src d.val len) ∧ ∀ k < len * c, u.runAt w d.val k = (lget l k (0, 0)).1) ∧
    (Instr.wf (.vsortkv t n d a logk desc) = true → s.Passes (.vsortkv t n d a logk desc) →
      ∃ u l, exec (.vsortkv t n d a logk desc) s = .next u ∧
      s.Plain u (.vsortkv t n d a logk desc) [] (List.range' d.val len ++ List.range' a.r.val len) [] [] ∧
      l.length = len * c ∧ ordered desc l ∧ stable l (src d.val len) ∧
      ∀ k < len * c, u.runAt w d.val k = (lget l k (0, 0)).1 ∧
        u.runAt w a.r.val k = s.runAt w a.r.val (lget l k (0, 0)).2) ∧
    (s.Passes (.vmerge t n d a b) → ∃ u l, exec (.vmerge t n d a b) s = .next u ∧
      s.Plain u (.vmerge t n d a b) [] [d.val, d.val + 1] [] [] ∧ l.length = 2 * c ∧ ordered false l ∧
      stable l ((List.range (2 * c)).map (fun k =>
        (if k < c then s.runAt w a.r.val k else s.runAt w b.r.val (k - c), k))) ∧
      ∀ k < 2 * c, u.runAt w d.val k = (lget l k (0, 0)).1) ∧
    (s.Passes (.vtopk t n d a b) → s.topkBad t a.r.val (s.sV b) = none → s.alloc ≤ 32 → Instr.wf (.vtopk t n d a b) = true →
      ∃ u l, exec (.vtopk t n d a b) s = .next u ∧
      s.Plain u (.vtopk t n d a b) [] [d.val, d.val + 1] [] [] ∧ ordered true l ∧
      stable l (src a.r.val ((s.sV b).toNat / 256 % 16)) ∧
      (∀ k < c, elemAt w (u.rV d) k = if k < (s.sV b).toNat % 256 then (lget l k (0, 0)).1 else 0) ∧
      ∀ k < 128, elemAt 32 (u.rVn (d.val + 1)) k = if k < (s.sV b).toNat % 256 then (lget l k (0, 0)).2 else 0) ∧
    (∀ code, s.Passes (.vtopk t n d a b) → s.topkBad t a.r.val (s.sV b) = some code → s.Traps (.vtopk t n d a b) code 0)

/-- Special functions and random numbers (R195, R196): each active f32 element takes the function's result and adds its
flags, VSQRT rounds in the mode of its selector, and VRAND takes ChaCha20 words of the launch seed.
A result that the model's working precision does not decide is free (log entry 19). -/
def Obligations.SpecialFunctionsAndRandomAreElementwise : Prop :=
  ∀ (s : State) (n : Bool) (d : VReg) (a b : VSrc) (rm : RSel) (m : Bool),
    let x := s.runAt 32 a.r.val
    s.GivesE (.vrcp d a m) 32 m d.val 1 (fun k => rcpF (x k)) ∧
    s.GivesE (.vrsq d a m) 32 m d.val 1 (fun k => rsqF (x k)) ∧
    s.GivesE (.vsqrt d a rm m) 32 m d.val 1 (fun k => sqrtF fmtF32 (s.rmode rm) (unpackF fmtF32 (x k))) ∧
    s.GivesE (.vexp2 d a m) 32 m d.val 1 (fun k => exp2F (x k)) ∧
    s.GivesE (.vlog2 d a m) 32 m d.val 1 (fun k => log2F (x k)) ∧
    s.GivesE (.vtanh d a m) 32 m d.val 1 (fun k => tanhF (x k)) ∧
    s.GivesE (.vrand n d a b m) 32 m d.val 1 (fun k =>
      (lget (randWords s.seed (s.sV a).toNat (s.sV b).toNat) k 0, 0)) ∧
    -- special values of Table 8-5: a NaN gives the canonical NaN, and a zero its row of the table
    (∀ z, (unpackF fmtF32 z).isNan = true → z < 2 ^ 32 →
      (rcpF z).1 = 0x7FC00000 ∧ (rsqF z).1 = 0x7FC00000 ∧ (exp2F z).1 = 0x7FC00000 ∧ (log2F z).1 = 0x7FC00000 ∧
      (tanhF z).1 = 0x7FC00000 ∧ ((rcpF z).2.testBit 0 = (unpackF fmtF32 z).isSnan)) ∧
    rcpF 0 = (0x7F800000, fDZ) ∧ rsqF 0x80000000 = (0xFF800000, fDZ) ∧ exp2F 0 = (0x3F800000, 0) ∧
    log2F 0x3F800000 = (0, 0) ∧ log2F 0 = (0xFF800000, fDZ) ∧ tanhF 0x80000000 = (0x80000000, 0)

/-- Trit packing (R197 to R199): VPACKT packs signs five to a byte, VUNPKT raises TRITBYTE on a slot that breaks Table 3-8
and otherwise gives back the trits, and VTCHK sets one bit for each bad slot. -/
def Obligations.TritsPackUnpackAndCheck : Prop :=
  ∀ (s : State) (t : ETy) (d : VReg) (a : VSrc),
    let w := t.width
    let x := s.runAt w a.r.val
    let byte (k : Nat) : Nat := s.runAt 8 a.r.val k
    let code (k : Nat) : Nat := if 0 < sgn w (x k) then 1 else if sgn w (x k) < 0 then 2 else 0
    let trit (c : Nat) : Nat := if c = 1 then 1 else if c = 2 then 2 ^ w - 1 else 0
    let bad (h : Nat) : Prop := (∃ j < 51, 242 < byte (64 * h + j)) ∨ 2 < byte (64 * h + 51) ∨
      ∃ j, 56 ≤ j ∧ j < 64 ∧ byte (64 * h + j) ≠ 0
    (t = .i8 ∨ t = .i4 → s.Passes (.vpackt t d a) → ∃ u, exec (.vpackt t d a) s = .next u ∧
      s.Plain u (.vpackt t d a) [] [d.val] [] [] ∧ (∀ h < elemCount w / 256,
        (∀ j < 51, elemAt 8 (u.rV d) (64 * h + j) = code (256 * h + 5 * j) + 3 * code (256 * h + 5 * j + 1) +
          9 * code (256 * h + 5 * j + 2) + 27 * code (256 * h + 5 * j + 3) + 81 * code (256 * h + 5 * j + 4)) ∧
        elemAt 8 (u.rV d) (64 * h + 51) = code (256 * h + 255) ∧
        ∀ j, 52 ≤ j → j < 64 → elemAt 8 (u.rV d) (64 * h + j) = 0) ∧
      ∀ k, 64 * (elemCount w / 256) ≤ k → k < 512 → elemAt 8 (u.rV d) k = 0) ∧
    (t = .i8 ∨ t = .i4 → s.Passes (.vunpkt t d a) → (∀ h < elemCount w / 256, ¬ bad h) →
      ∃ u, exec (.vunpkt t d a) s = .next u ∧ s.Plain u (.vunpkt t d a) [] [d.val] [] [] ∧
        ∀ h < elemCount w / 256,
          (∀ j < 51, ∀ i < 5, elemAt w (u.rV d) (256 * h + 5 * j + i) = trit (byte (64 * h + j) / 3 ^ i % 3)) ∧
          elemAt w (u.rV d) (256 * h + 255) = trit (byte (64 * h + 51))) ∧
    (t = .i8 ∨ t = .i4 → s.Passes (.vunpkt t d a) → (∃ h < elemCount w / 256, bad h) →
      s.Traps (.vunpkt t d a) tTRITBYTE 0) ∧
    s.GivesSuch (.vtchk d a) (Fin.ofNat 64 d.val) (fun r => ∀ h < 64, r.getLsbD h = true ↔ h < 8 ∧ bad h)
/-! Scratchpad and neighbour windows. -/

/-- LDS, STS, VLDS and VSTS (R201, R202, R327): the offset is s[A] + IMM * z; each of the four needs its bytes inside the
scratchpad (CAPBOUND) and then its alignment (ALIGN), a load that meets a poisoned word traps with UNCORR, a store changes
its own bytes only, and each stalls while an array command of the same lane still reads or writes bytes of its own (R238). -/
def Obligations.ScratchpadLoadsAndStoresAreExact : Prop :=
  ∀ (s : State) (ty : LdTy) (w : Wd) (d : SReg) (v : VReg) (a sd : SSrc) (r : SReg) (vs : VSrc) (imm : BitVec 9),
    let offOf (base : Word) (z : Nat) : Nat := (base + BitVec.ofInt 64 (imm.toInt * z)).toNat
    let n := ldBytes ty
    let o1 := offOf (s.rS a.r) n
    let o2 := offOf (s.rS a.r) 512
    let o3 := offOf (s.rS r) (wdBytes w)
    let o4 := offOf (s.rS r) 512
    let traps (i : Instr) (off n al : Nat) (load : Bool) : Prop := s.Passes i →
      (s.scratchSize < off + n → s.Traps i tCAPBOUND (BitVec.ofNat 64 off)) ∧
      (off + n ≤ s.scratchSize → off % al ≠ 0 → s.Traps i tALIGN (BitVec.ofNat 64 off)) ∧
      (load = true → off + n ≤ s.scratchSize → off % al = 0 → s.scratchBad s.lcore off n = true →
        s.Traps i tUNCORR (BitVec.ofNat 64 off))
    traps (.lds ty d a imm) o1 n n true ∧ traps (.vlds v a imm) o2 512 4 true ∧
    traps (.sts w sd r imm) o3 (wdBytes w) (wdBytes w) false ∧ traps (.vsts vs r imm) o4 512 4 false ∧
    (o1 + n ≤ s.scratchSize → o1 % n = 0 → s.scratchBad s.lcore o1 n = false →
      s.Loads (.lds ty d a imm) [o1] n [d.val] [] (fun t f => t.rS d = if d = 0 then 0
        else if ldSigned ty then BitVec.ofInt 64 (sgn (8 * n) (ofBytes ((List.range n).map f)))
        else BitVec.ofNat 64 (ofBytes ((List.range n).map f)))) ∧
    (o2 + 512 ≤ s.scratchSize → o2 % 4 = 0 → s.scratchBad s.lcore o2 512 = false →
      s.Loads (.vlds v a imm) [o2] 512 [] [v.val] (fun t f => ∀ k < 512, elemAt 8 (t.rV v) k = (f k).toNat)) ∧
    (o3 + wdBytes w ≤ s.scratchSize → o3 % wdBytes w = 0 → s.Passes (.sts w sd r imm) →
      if s.drainWaits o3 (wdBytes w) = true then s.Stalls (.sts w sd r imm)
      else ∃ t, exec (.sts w sd r imm) s = .next t ∧
        s.StoredAt t (.sts w sd r imm) o3 (toBytes (s.rS sd.r).toNat (wdBytes w))) ∧
    (o4 + 512 ≤ s.scratchSize → o4 % 4 = 0 → s.Passes (.vsts vs r imm) →
      if s.drainWaits o4 512 = true then s.Stalls (.vsts vs r imm)
      else ∃ t, exec (.vsts vs r imm) s = .next t ∧ s.StoredAt t (.vsts vs r imm) o4 (toBytes (s.rV vs.r).toNat 512))

/-- Strided and indexed accesses (R203): row r of a strided one lies at s[A] + r * s[B], word k of an indexed one at
s[A] + 4 * b[k]; stores go in ascending order, so that a later one wins, and change no other byte. Every address is checked
before a byte moves (R201), a load that meets poison raises UNCORR (R327), and each stalls while an array command of the same lane
still reads or writes bytes of its own (R238). That the first failing place in ascending order
is the one reported, and that bounds and alignment are judged place by place, is the model's reading (log entry 16). -/
def Obligations.ScatteredAccessesReachTheirPlaces : Prop :=
  ∀ (s : State) (v : VReg) (a b : SSrc) (vb : VSrc),
    let at' (off : Nat) : Nat := scratchAddr s.kid s.lcore off
    let row (r : Nat) : Nat := (s.rS a.r + BitVec.ofNat 64 r * s.rS b.r).toNat
    let word (k : Nat) : Nat := (s.rS a.r + BitVec.ofNat 64 (4 * s.runAt 32 vb.r.val k)).toNat
    let rowsOk := ∀ r < 8, row r + 64 ≤ s.scratchSize ∧ row r % 4 = 0
    let wordsOk := ∀ k < 128, word k + 4 ≤ s.scratchSize ∧ word k % 4 = 0
    let clean (o n : Nat) : Prop := s.scratchBad s.lcore o n = false
    let chk (o n : Nat) : Option Nat :=
      if s.scratchSize < o + n then some tCAPBOUND else if o % 4 ≠ 0 then some tALIGN else none
    let waits := ∃ r < 8, s.drainWaits (row r) 64 = true
    let waits4 := ∃ k < 128, s.drainWaits (word k) 4 = true
    let traps (i : Instr) (off : Nat → Nat) (cnt n : Nat) (load : Bool) : Prop := s.Passes i → ∀ r < cnt,
      (∀ code, chk (off r) n = some code → (∀ q < r, chk (off q) n = none) → s.Traps i code (BitVec.ofNat 64 (off r))) ∧
      (load = true → (∀ q < cnt, chk (off q) n = none) → ¬ clean (off r) n → (∀ q < r, clean (off q) n) →
        s.Traps i tUNCORR (BitVec.ofNat 64 (off r)))
    traps (.vldss v a b) row 8 64 true ∧ traps (.vgats v a vb) word 128 4 true ∧
    traps (.vstss v a b) row 8 64 false ∧ traps (.vscts v a vb) word 128 4 false ∧
    (rowsOk → (∀ r < 8, clean (row r) 64) → s.Loads (.vldss v a b) ((List.range 8).map row) 64 [] [v.val] (fun t f =>
      ∀ k < 512, elemAt 8 (t.rV v) k = (f k).toNat)) ∧
    (wordsOk → (∀ k < 128, clean (word k) 4) → s.Loads (.vgats v a vb) ((List.range 128).map word) 4 [] [v.val] (fun t f =>
      ∀ k < 512, elemAt 8 (t.rV v) k = (f k).toNat)) ∧
    (rowsOk → waits → s.Passes (.vstss v a b) → s.Stalls (.vstss v a b)) ∧
    (wordsOk → waits4 → s.Passes (.vscts v a vb) → s.Stalls (.vscts v a vb)) ∧
    (rowsOk → ¬ waits → s.Passes (.vstss v a b) → ∃ t, exec (.vstss v a b) s = .next t ∧ s.Went t (.vstss v a b) (s.ln.pc + 4) [] [] [] [] ∧
      t.ln.box = s.ln.box ∧ t.ln.fpc = s.ln.fpc ∧
      (∀ r < 8, ∀ k < 64, (∀ q, r < q → q < 8 → at' (row r) + k < at' (row q) ∨ at' (row q) + 64 ≤ at' (row r) + k) →
        (t.mem.read (at' (row r) + k)).toNat = elemAt 8 (s.rV v) (64 * r + k)) ∧
      ∀ m, (∀ r < 8, m < at' (row r) ∨ at' (row r) + 64 ≤ m) → t.mem.read m = s.mem.read m) ∧
    (wordsOk → ¬ waits4 → s.Passes (.vscts v a vb) → ∃ t, exec (.vscts v a vb) s = .next t ∧
      s.Went t (.vscts v a vb) (s.ln.pc + 4) [] [] [] [] ∧ t.ln.box = s.ln.box ∧ t.ln.fpc = s.ln.fpc ∧
      (∀ k < 128, ∀ j < 4, (∀ q, k < q → q < 128 → word q ≠ word k) →
        (t.mem.read (at' (word k) + j)).toNat = elemAt 8 (s.rV v) (4 * k + j)) ∧
      ∀ m, (∀ k < 128, m < at' (word k) ∨ at' (word k) + 4 ≤ m) → t.mem.read m = s.mem.read m)

/-- Packed fields (R201, R204, R327): VLDB reads N fields of W bits from bit address s[A] into bytes, VSTB writes them and
leaves every other bit of memory alone; a bad W or N raises ILLEGAL, bytes outside the scratchpad CAPBOUND, a poisoned word that
is read UNCORR, and bytes that an array command of the same lane still reads or writes stall both (R238). That VSTB reads the
poisoned words that its fields cut, and that VA is the first byte's offset, are the model's readings (log entries 31 and 16). -/
def Obligations.PackedFieldsMoveBitByBit : Prop :=
  ∀ (s : State) (v : VReg) (a b : SSrc),
    let p := (s.rS a.r).toNat
    let w := (s.rS b.r).toNat % 16
    let n := (s.rS b.r).toNat / 65536 % 1024
    let len := (p + w * n + 7) / 8 - p / 8
    let memBit (t : State) (q : Nat) : Bool := (t.mem.read (scratchAddr s.kid s.lcore (q / 8))).getLsbD (q % 8)
    let good := fieldBad (s.rS b.r) = false
    let fits := (p + w * n + 7) / 8 ≤ s.scratchSize
    (fieldBad (s.rS b.r) = true → s.Passes (.vldb v a b) → s.Traps (.vldb v a b) tILLEGAL 0) ∧
    (fieldBad (s.rS b.r) = true → s.Passes (.vstb v a b) → s.Traps (.vstb v a b) tILLEGAL 0) ∧
    (∀ i : Instr, i = .vldb v a b ∨ i = .vstb v a b → good → ¬ fits → s.Passes i →
      s.Traps i tCAPBOUND (BitVec.ofNat 64 (p / 8))) ∧
    (good → fits → s.scratchBad s.lcore (p / 8) len = true → s.Passes (.vldb v a b) →
      s.Traps (.vldb v a b) tUNCORR (BitVec.ofNat 64 (p / 8))) ∧
    (good → fits → s.cutsBad p (w * n) = true → s.Passes (.vstb v a b) →
      s.Traps (.vstb v a b) tUNCORR (BitVec.ofNat 64 (p / 8))) ∧
    (good → fits → s.scratchBad s.lcore (p / 8) len = false →
      s.Loads (.vldb v a b) [p / 8] len [] [v.val] (fun t f =>
        (∀ j < n, ∀ i < 8, (elemAt 8 (t.rV v) j).testBit i = (decide (i < w) &&
          (f ((p + j * w + i) / 8 - p / 8)).getLsbD ((p + j * w + i) % 8))) ∧
        ∀ j, n ≤ j → j < 512 → elemAt 8 (t.rV v) j = 0)) ∧
    (good → fits → s.cutsBad p (w * n) = false → s.drainWaits (p / 8) len = true → s.Passes (.vstb v a b) →
      s.Stalls (.vstb v a b)) ∧
    (good → fits → s.cutsBad p (w * n) = false → s.drainWaits (p / 8) len = false → s.Passes (.vstb v a b) →
      ∃ t, exec (.vstb v a b) s = .next t ∧ s.Went t (.vstb v a b) (s.ln.pc + 4) [] [] [] [] ∧ t.ln.box = s.ln.box ∧
        (∀ j < n, ∀ i < w, memBit t (p + j * w + i) = (elemAt 8 (s.rV v) j).testBit i) ∧
        (∀ q < 2 ^ 23, q < p ∨ p + n * w ≤ q → memBit t q = memBit s q) ∧
        ∀ m, (m < scratchAddr s.kid s.lcore (p / 8) ∨ scratchAddr s.kid s.lcore ((p + w * n + 7) / 8) ≤ m) →
          t.mem.read m = s.mem.read m)

/-- Window stores, full bits and WAITA (R58, R201, R205 to R208, R327): each checks bounds (CAPBOUND), then alignment (ALIGN);
STN and VSTN enter a store into the named comb-mate's window, LDF and VLDF wait for their full bits, FCLR and FSET change the
full bits of the words they name, WAITA waits for its value, which it finds as soon as a write brings it, whatever is written
after; the loads stall while an array command of the same lane still reads or writes bytes of their own (R238). -/
def Obligations.WindowsAndFullBitsSynchronise : Prop :=
  ∀ (s : State) (w : Fin 3) (d r : SReg) (v : VReg) (a sd : SSrc) (vs : VSrc) (imm : BitVec 9),
    let offOf (base : Word) (z : Nat) : Nat := (base + BitVec.ofInt 64 (imm.toInt * z)).toNat
    let mate := s.lcore / 4 * 4 + (s.lcore + w.val + 1) % 4
    let o4 := offOf (s.rS r) 4
    let ov := offOf (s.rS r) 512
    let q4 := offOf (s.rS a.r) 4
    let qv := offOf (s.rS a.r) 512
    let cnt := (s.rS sd.r).toNat
    let full (t : State) (j : Nat) : Bool := (t.core s.lcore).full.testBit j
    let v4 := (s.rS d).toNat % 2 ^ 32
    let met : Bool := (((s.core s.lcore).waits.find? (fun w => w.lane == s.cur && w.off == q4 && w.v == v4)).bind (fun w => w.hit)).isSome
    let goes (i : Instr) : Prop := ∃ t, exec i s = .next t ∧ s.Went t i (s.ln.pc + 4) [] [] [] [] ∧
      t = { s with ln := t.ln, k := { s.k with cores := t.k.cores } } ∧ t.ln.box = s.ln.box ∧ t.ln.fpc = s.ln.fpc ∧
      ∀ l, t.core l = if l = s.lcore then { s.core l with waits := (s.core l).waits.filter (fun w => w.lane != s.cur) } else s.core l
    let traps (i : Instr) (size off n : Nat) : Prop := s.Passes i →
      (size < off + n → s.Traps i tCAPBOUND (BitVec.ofNat 64 off)) ∧
      (off + n ≤ size → off % 4 ≠ 0 → s.Traps i tALIGN (BitVec.ofNat 64 off))
    (o4 + 4 ≤ s.windowSize → o4 % 4 = 0 →
      s.Sends (.stn w sd r imm) (.window mate o4 (toBytes (s.rS sd.r).toNat 4)) .relaxed) ∧
    (ov + 512 ≤ s.windowSize → ov % 4 = 0 →
      s.Sends (.vstn w vs r imm) (.window mate ov (toBytes (s.rV vs.r).toNat 512)) .relaxed) ∧
    traps (.stn w sd r imm) s.windowSize o4 4 ∧ traps (.vstn w vs r imm) s.windowSize ov 512 ∧
    traps (.ldf d a imm) s.scratchSize q4 4 ∧ traps (.vldf v a imm) s.scratchSize qv 512 ∧
    traps (.waita d a imm) s.scratchSize q4 4 ∧
    (cnt ≠ 0 → traps (.fset sd r imm) s.scratchSize o4 (4 * cnt) ∧ traps (.fclr sd r imm) s.scratchSize o4 (4 * cnt)) ∧
    (q4 + 4 ≤ s.scratchSize → q4 % 4 = 0 → s.scratchBad s.lcore q4 4 = true →
      (full s (q4 / 4) = true → s.Passes (.ldf d a imm) → s.Traps (.ldf d a imm) tUNCORR (BitVec.ofNat 64 q4)) ∧
      (met = false → s.Passes (.waita d a imm) → s.Traps (.waita d a imm) tUNCORR (BitVec.ofNat 64 q4))) ∧
    (qv + 512 ≤ s.scratchSize → qv % 4 = 0 → s.scratchBad s.lcore qv 512 = true → (∀ j < 128, full s (qv / 4 + j) = true) →
      s.Passes (.vldf v a imm) → s.Traps (.vldf v a imm) tUNCORR (BitVec.ofNat 64 qv)) ∧
    (q4 + 4 ≤ s.scratchSize → q4 % 4 = 0 → full s (q4 / 4) = true → s.scratchBad s.lcore q4 4 = false →
      s.Loads (.ldf d a imm) [q4] 4 [d.val] [] (fun t f =>
        t.rS d = if d = 0 then 0 else BitVec.ofNat 64 (ofBytes ((List.range 4).map f)))) ∧
    (q4 + 4 ≤ s.scratchSize → q4 % 4 = 0 → full s (q4 / 4) = false → s.Passes (.ldf d a imm) → s.Stalls (.ldf d a imm)) ∧
    (qv + 512 ≤ s.scratchSize → qv % 4 = 0 → (∀ j < 128, full s (qv / 4 + j) = true) →
      s.scratchBad s.lcore qv 512 = false →
      s.Loads (.vldf v a imm) [qv] 512 [] [v.val] (fun t f => ∀ k < 512, elemAt 8 (t.rV v) k = (f k).toNat)) ∧
    (qv + 512 ≤ s.scratchSize → qv % 4 = 0 → (∃ j < 128, full s (qv / 4 + j) = false) → s.Passes (.vldf v a imm) →
      s.Stalls (.vldf v a imm)) ∧
    (cnt = 0 ∨ o4 + 4 * cnt ≤ s.scratchSize ∧ o4 % 4 = 0 → s.Passes (.fset sd r imm) →
      ∃ t, exec (.fset sd r imm) s = .next t ∧ s.Went t (.fset sd r imm) (s.ln.pc + 4) [] [] [] [] ∧
        t = { s with ln := t.ln, k := { s.k with cores := t.k.cores } } ∧ (∀ l, l ≠ s.lcore → t.core l = s.core l) ∧
        t.core s.lcore = { s.core s.lcore with full := (t.core s.lcore).full } ∧
        ∀ j, full t j = (full s j || decide (o4 / 4 ≤ j ∧ j < o4 / 4 + cnt))) ∧
    (cnt = 0 ∨ o4 + 4 * cnt ≤ s.scratchSize ∧ o4 % 4 = 0 → s.Passes (.fclr sd r imm) →
      ∃ t, exec (.fclr sd r imm) s = .next t ∧ s.Went t (.fclr sd r imm) (s.ln.pc + 4) [] [] [] [] ∧
        t = { s with ln := t.ln, k := { s.k with cores := t.k.cores } } ∧ (∀ l, l ≠ s.lcore → t.core l = s.core l) ∧
        t.core s.lcore = { s.core s.lcore with full := (t.core s.lcore).full, fullKnow := (t.core s.lcore).fullKnow } ∧
        ∀ j, full t j = (full s j && !decide (o4 / 4 ≤ j ∧ j < o4 / 4 + cnt))) ∧
    (q4 + 4 ≤ s.scratchSize → q4 % 4 = 0 → s.Passes (.waita d a imm) →
      (met = true → goes (.waita d a imm)) ∧
      (met = false → s.scratchBad s.lcore q4 4 = false →
        if s.drainWaits q4 4 = true then s.Stalls (.waita d a imm)
        else if ofBytes (s.mem.readN (scratchAddr s.kid s.lcore q4) 4) = v4 then goes (.waita d a imm)
        else ∃ t, exec (.waita d a imm) s = .next t ∧ t = { s with k := { s.k with cores := t.k.cores } } ∧
          s.CoresBut t s.lcore ∧ t.core s.lcore = { s.core s.lcore with waits := (t.core s.lcore).waits } ∧
          ⟨s.cur, q4, v4, none⟩ ∈ (t.core s.lcore).waits ∧
          ∀ w, w.lane ≠ s.cur → (w ∈ (t.core s.lcore).waits ↔ w ∈ (s.core s.lcore).waits)))

/-! Barriers. -/

/-- BINIT, BARR, BWAIT and BSTAT (R258 to R261): bad operands and unbound barriers raise ILLEGAL, BINIT and BARR act at
commit, BWAIT goes on when its phase lies within 32,768 phases behind P and parks otherwise, BSTAT reads P, MM, the
binding, the scope and E.
That BSTAT ignores the high bits of s[A] is the model's reading (log entry 43). -/
def Obligations.BarrierInstructionsActAtCommit : Prop :=
  ∀ (s : State) (d : SReg) (a b : SSrc),
    let x := (s.rS a.r).toNat
    let y := (s.rS b.r).toNat
    let bad := 4096 ≤ x ∨ x / 128 % 2 = 1 ∨ x / 256 % 16 = 0 ∨ 9 < x / 256 % 16 ∨ y = 0 ∨ 2 ^ 32 ≤ y
    (bad → s.Passes (.binit a b) → s.Traps (.binit a b) tILLEGAL 0) ∧
    (¬ bad → s.Sends (.binit a b) (.binit s.lcore (x % 128) (scopeOfNum (x / 256 % 16)) y) .relaxed) ∧
    (∀ sc e, x < 128 → s.barrier? x = some (sc, e) → s.Sends (.barr a) (.barr s.lcore x sc e) .relaxed) ∧
    (128 ≤ x ∨ s.barrier? x = none → s.Passes (.barr a) → s.Traps (.barr a) tILLEGAL 0) ∧
    (128 ≤ x ∨ 65536 ≤ y ∨ s.barrier? x = none → s.Passes (.bwait a b) → s.Traps (.bwait a b) tILLEGAL 0) ∧
    (∀ z, x < 128 → y < 65536 → boxInit x s.ln.box = none → tget? (s.core s.lcore).bars x = some z →
      (if (z.p - BitVec.ofNat 16 y - 1).toNat < 32768 then
        s.Passes (.bwait a b) → ∃ t, exec (.bwait a b) s = .next t ∧ s.Plain t (.bwait a b) [] [] [] []
      else s.Parks (.bwait a b) (.bwait s.lcore x y))) ∧
    s.GivesS (.bstat d a) d (BitVec.ofNat 64 (match tget? (s.core s.lcore).bars (x % 128) with
      | none => 0
      | some z => z.p.toNat + (if z.mm then 2 ^ 16 else 0) + 2 ^ 17 + scopeNum z.sc * 2 ^ 20 + z.e * 2 ^ 32))

/-! Global memory. -/

/-- The checks of R40 in their order: bounds and the object (CAPBOUND), the right (CAPRIGHT), type and owner, alignment
(ALIGN), then the range of R284; the first that fails is the trap.
Which accesses through c15 count as the frame owner's is the model's reading (log entry 61). -/
def Obligations.GlobalAccessChecksInOrder : Prop :=
  ∀ (s : State) (c : Cap) (ea n right : Nat) (al : Bool) (ty : Obj → Option Nat),
    let home := n ≠ 0 → (ownAt s.k.owns (ea / 4096)).isSome = true
    (s.obj? (capOid c) = none → s.access c ea n right al ty = .error tCAPBOUND) ∧
    ∀ x, s.obj? (capOid c) = some x →
      let w := capWindow c x
      let inside := ea < 2 ^ 60 ∧ w.1 ≤ ea ∧ ea + n ≤ w.2
      (¬ inside → s.access c ea n right al ty = .error tCAPBOUND) ∧
      (inside → capHas c right = false → s.access c ea n right al ty = .error tCAPRIGHT) ∧
      (inside → capHas c right = true → ∀ code, ty x = some code → s.access c ea n right al ty = .error code) ∧
      (inside → capHas c right = true → ty x = none → al = false → s.access c ea n right al ty = .error tALIGN) ∧
      (inside → capHas c right = true → ty x = none → al = true → ¬ home → s.access c ea n right al ty = .error tPAGEFAULT) ∧
      (inside → capHas c right = true → ty x = none → al = true → home → s.access c ea n right al ty = .ok x)

/-- Global reads (R40, R210, R214, R215, R220): LDX, VLDX, LDC, XRD and VXRD check as R40 says and leave the lane waiting for
the answer of the home, with no register written yet; the request goes to a home on another package by a port, and within the
package nothing of the hardware changes; the first failing check is the trap, with VA = EA. The answer acquires at the order's
scope (R61); that LDC's does not is the model's reading (log entry 98). -/
def Obligations.GlobalReadsLeaveForTheirHome : Prop :=
  ∀ (s : State) (lk : Fin 16) (t : LTy) (w : Wd) (o : Ord) (d : SReg) (v : VReg) (c : CReg) (g : GAddr) (one : Bool),
    let ea := s.ea g
    let n := wdBytes w
    let line := t = .fill ∨ t = .lap
    let acq : Option Scope := match o with
      | .acq x | .sc x => some x
      | _ => none
    let reads (i : Instr) (len : Nat) (al : Bool) (ty : Obj → Option Nat) (kind : ReadKind) (acquires : Option Scope) (dest : Nat) : Prop :=
      match s.access (s.rC g.c.r) ea len rR al ty with
      | .error code => s.Passes i → s.Traps i code (BitVec.ofNat 64 ea)
      | .ok _ => s.Passes i → ∃ u, exec i s = .next u ∧ s.Went u i (s.ln.pc + 8) [] [] [] [] ∧ u.ln.fpc = s.ln.fpc ∧
          u.ln.box = s.ln.box ∧ u = { s with ln := u.ln, hw := u.hw } ∧ s.Wires u ∧ (∀ m, u.mem.read m = s.mem.read m) ∧
          (∀ e, s.homeEnd ea = some e → e.pkg = (s.combEnd s.lcore).pkg → u.hw = s.hw) ∧
          u.ln.rd = some ⟨kind, ea, len, dest, s.ln.pc, acquires, s.time, 0, none⟩
    reads (.ldx lk w o d g) n (decide (ea % n = 0)) (s.exclOrMmio g.c.r w) (.ldx w) acq d.val ∧
    reads (.vldx lk o v g) 512 (decide (ea % 64 = 0)) (s.exclTy g.c.r) .vldx acq v.val ∧
    reads (.ldc lk o c g) 16 (decide (ea % 16 = 0)) (s.exclTy g.c.r) .ldc none c.val ∧
    reads (.xrd lk t w o d g) n (decide (ea % n = 0 ∧ ¬ line)) (s.latTy .exact t w) (.xrd t w) acq d.val ∧
    reads (.vxrd lk t w o v g one) (if one then 64 else 512) (decide (ea % 64 = 0)) (s.latTy .exact t w) (.vxrd t one) acq v.val

/-- Global stores, joins and caps (R40, R44, R214 to R216, R221): each checks as R40 says and enters its effect in the outbox with its
order; nothing reaches memory before the commit. A count join is counted (R44). That a store counts as one to the record's own
frame ('own') when it goes through c15 and c15 names the same object as FRAME is the model's reading (log entry 61). -/
def Obligations.GlobalStoresJoinsAndCapsEnterTheOutbox : Prop :=
  ∀ (s : State) (lk : Fin 16) (t : LTy) (w : Wd) (o : Ord) (sc : Scope) (acq : Bool) (g : GAddr) (b : SSrc) (vb : VSrc)
    (cb : CSrc) (p : Fin 8),
    let ea := s.ea g
    let n := wdBytes w
    let own := decide (g.c.r.val = 15 ∧ capOid (s.rC g.c.r) = capOid s.rec_.f.frame)
    let bytes := toBytes (s.rS b.r).toNat n
    let vec := toBytes (s.rV vb.r).toNat 512
    let part := (vec.drop (64 * p.val)).take 64
    let enters (i : Instr) (len right : Nat) (al : Bool) (ty : Obj → Option Nat) (e : Eff) (o : Ord) : Prop :=
      match s.access (s.rC g.c.r) ea len right al ty with
      | .error code => s.Passes i → s.Traps i code (BitVec.ofNat 64 ea)
      | .ok _ => s.Sends i e o
    enters (.stx lk w o g b) n rW (decide (ea % n = 0)) (s.exclOrMmio g.c.r w) (.store ea bytes own) o ∧
    enters (.vstx lk o g vb) 512 rW (decide (ea % 64 = 0)) (s.exclTy g.c.r) (.store ea vec own) o ∧
    enters (.stc lk o g cb) 16 rW (decide (ea % 16 = 0)) (s.exclTy g.c.r) (.storeCap ea (s.rC cb.r) own) o ∧
    enters (.join lk t w o g b) n rJ (decide (ea % n = 0 ∧ t ≠ .fill ∧ t ≠ .lap)) (s.latTy .join t w) (.join t w ea bytes) o ∧
    enters (.vjoin lk t w o g vb) 512 rJ (decide (ea % 64 = 0)) (s.latTy .join t w) (.join t w ea vec) o ∧
    enters (.vjoinx lk t w o g vb p) 64 rJ (decide (ea % 64 = 0)) (s.latTy .join t w) (.join t w ea part) o ∧
    enters (.cap lk t w sc acq g b) (s.rS b.r).toNat rC (decide (ea % 4096 = 0 ∧ (s.rS b.r).toNat % 4096 = 0))
      (s.latTy .cap t w) (.cap t sc ea (s.rS b.r).toNat) .relaxed ∧
    (∀ i u, i = .join lk .count w o g b ∨ i = .vjoin lk .count w o g vb ∨ i = .vjoinx lk .count w o g vb p →
      s.Passes i → exec i s = .next u → u.ln.box ≠ s.ln.box → u.ln.task = s.ln.task → u.ln.st ≠ .idle → u.ln.st ≠ .verify →
      u.ln.cnt = s.ln.cnt + 1 ∧ (s.ln.st = .run → 768 ≤ u.ln.cnt → u.ln.st = .finish))

/-- Threshold reads, FENCE and OFORK (R51 to R54, R105, R217 to R219, R222 to R224): equal triggers raise NONEXCL; a read that
no copy of the die answers parks on a watch; one that a copy answers writes its register, or traps with FILLCONF or LAPOVER;
FENCE leaves the wait to its commit; OFORK makes a provisional copy of the object at issue, or traps, with in the order of R223,
NOTCAPPED last where the first n bytes are not all capped. Whether a die holds a copy is free (log entry 23); that an unmapped
page is met at the home, that the new object's id is the model's next one, that OFORK's bounds are a check of its own and that
VA is 0 in its traps are the model's (log entries 32, 13, 26, 86). -/
def Obligations.ThresholdReadsParkOrAnswer : Prop :=
  ∀ (s : State) (lk : Fin 16) (t : LTy) (w : Wd) (o : Ord) (sc : Scope) (d : SReg) (v : VReg) (g : GAddr) (b : SSrc)
    (cd : CReg) (cs : CSrc),
    let ea := if t = .fill then s.eaFill g else s.ea g
    let len := if t = .fill ∨ t = .lap then 64 else wdBytes w
    let trigs := (List.range' b.r.val (thrCount t g.imm)).map (fun n => (s.rN n).toNat % 2 ^ wdBits w)
    let acq : Option (Scope × Nat) := match o with
      | .acq x | .sc x => some (x, s.lcore)
      | _ => none
    let wt : Watch := ⟨false, t, w, ea, trigs, d.val, s.ln.pc, acq, s.rec_.run⟩
    let ft : Watch := ⟨true, t, w, s.ea g, if t = .lap then [(s.rS b.r).toNat] else [], v.val, s.ln.pc, acq, s.rec_.run⟩
    let acc := s.access (s.rC g.c.r) ea len rR (decide (ea % len = 0)) (s.latTy .thr t w)
    let accF := s.access (s.rC g.c.r) (s.ea g) 64 rR (decide (s.ea g % 64 = 0)) (s.latTy .thrf t w)
    let i : Instr := .thr lk t w o d g b
    let f : Instr := .thrf lk t w o v g b
    let n := (s.rS b.r).toNat
    (∀ code, acc = .error code → s.Passes i → s.Traps i code (BitVec.ofNat 64 ea)) ∧
    (∀ x, acc = .ok x → ¬ trigs.Nodup → s.Passes i → s.Traps i tNONEXCL (BitVec.ofNat 64 ea)) ∧
    (∀ x, acc = .ok x → trigs.Nodup → s.unmapped? ea = none → s.copy? ea len = none → s.Parks i (.watch wt)) ∧
    (∀ x y z k, acc = .ok x → trigs.Nodup → s.unmapped? ea = none → s.copy? ea len = some (y, z) → thrReply t (wdBits w) trigs y = .index k →
      s.Passes i → ∃ u, exec i s = .next u ∧ s.Went u i (s.ln.pc + 8) [d.val] [] [] [] ∧
        (u.rS d = if d = 0 then 0 else BitVec.ofNat 64 k) ∧ u.ln.never = (k == 15) ∧ u.ln.box = s.ln.box) ∧
    (∀ x y z, acc = .ok x → trigs.Nodup → s.unmapped? ea = none → s.copy? ea len = some (y, z) → s.Passes i →
      (t = .fill → y.line = .top → s.Traps i tFILLCONF (BitVec.ofNat 64 ea))) ∧
    (∀ x y z, acc = .ok x → trigs.Nodup → s.unmapped? ea = none → s.copy? ea len = some (y, z) →
      thrReply t (wdBits w) trigs y = .wait → s.Parks i (.watch wt)) ∧
    (∀ x y z, accF = .ok x → s.unmapped? (s.ea g) = none → s.copy? (s.ea g) (if t = .fill ∨ t = .lap then 64 else wdBytes w) = some (y, z) →
      s.Passes f → (t = .fill → y.line = .top → s.Traps f tFILLCONF (BitVec.ofNat 64 (s.ea g))) ∧
        (t = .lap → n < ofBytes (y.bytes.take 8) → s.Traps f tLAPOVER (BitVec.ofNat 64 (s.ea g)))) ∧
    (∀ x y z, accF = .ok x → s.unmapped? (s.ea g) = none → s.copy? (s.ea g) (if t = .fill ∨ t = .lap then 64 else wdBytes w) = some (y, z) →
      thrfReply t ft.trigs y = .wait → s.Parks f (.watch ft)) ∧
    (∀ x m, acc = .ok x → trigs.Nodup → s.unmapped? ea = some m → s.Passes i →
      exec i s = .next (s.parkPage s.cur m s.ln.pc (BitVec.ofNat 64 ea))) ∧
    (∀ code, accF = .error code → s.Passes f → s.Traps f code (BitVec.ofNat 64 (s.ea g))) ∧
    (∀ x, accF = .ok x → s.unmapped? (s.ea g) = none → s.copy? (s.ea g) 64 = none →
      s.Parks f (.watch ft)) ∧
    (∀ x y z r nv, accF = .ok x → s.unmapped? (s.ea g) = none → s.copy? (s.ea g) (if t = .fill ∨ t = .lap then 64 else wdBytes w) = some (y, z) →
      thrfReply t ft.trigs y = .data r nv → s.Passes f →
      ∃ u, exec f s = .next u ∧ s.Went u f (s.ln.pc + 8) [] [v.val] [] [] ∧ u.rV v = r ∧ u.ln.never = nv) ∧
    (s.Passes (.fence lk sc) → ∃ u, exec (.fence lk sc) s = .next u ∧ s.Went u (.fence lk sc) (s.ln.pc + 8) [] [] [] [] ∧
      u.ln.susp = some (.fence sc) ∧ u.ln.box = s.ln.box ∧ (s.ln.st = .run → u.ln.st = .finish) ∧ u = { s with ln := u.ln }) ∧
    (∀ x k y z, s.oforkChk (s.rC cs.r) n = .ok x → s.fork (capOid (s.rC cs.r)) x n = some (k, y, z) →
      s.room 16 = true → s.Passes (.ofork lk cd cs b) →
      ∃ u, exec (.ofork lk cd cs b) s = .next u ∧ s.Went u (.ofork lk cd cs b) (s.ln.pc + 8) [] [] [] [cd.val] ∧
        u.ln.box = s.ln.box ++ [s.entryOf (.ofork k) .relaxed] ∧ u.ln.rObj = s.ln.rObj ++ [k] ∧
        (u.rC cd = if cd = 0 then 0 else mkCap y.base k (capRights (s.rC cs.r) &&& 0xF3) 0 0)) ∧
    (∀ code, s.oforkChk (s.rC cs.r) n = .error code → code ≠ tNOTCAPPED → s.Passes (.ofork lk cd cs b) →
      s.Traps (.ofork lk cd cs b) code 0) ∧
    (∀ x, s.obj? (capOid (s.rC cs.r)) = some x → s.Passes (.ofork lk cd cs b) →
      let F := capHas (s.rC cs.r) rF = true
      let fits := capWoff (s.rC cs.r) = 0 ∧ n ≤ (capWindow (s.rC cs.r) x).2 - (capWindow (s.rC cs.r) x).1 ∧ n ≤ x.len * 4096
      (¬ F → s.Traps (.ofork lk cd cs b) tCAPRIGHT 0) ∧
      (F → ¬ (x.ty = .fill ∧ x.wc = .w64) → s.Traps (.ofork lk cd cs b) tTYPEMIS 0) ∧
      (F → x.ty = .fill → x.wc = .w64 → n % 4096 ≠ 0 → s.Traps (.ofork lk cd cs b) tALIGN 0) ∧
      (F → x.ty = .fill → x.wc = .w64 → n % 4096 = 0 → ¬ fits → s.Traps (.ofork lk cd cs b) tCAPBOUND 0)) ∧
    (∀ x, s.obj? (capOid (s.rC cs.r)) = some x → capWoff (s.rC cs.r) = 0 →
      n ≤ (capWindow (s.rC cs.r) x).2 - (capWindow (s.rC cs.r) x).1 → n ≤ x.len * 4096 → capHas (s.rC cs.r) rF = true →
      x.ty = .fill → x.wc = .w64 → n % 4096 = 0 → s.allCapped (x.base / 4096) (n / 4096) = false → s.Passes (.ofork lk cd cs b) →
      if s.undone s.ln.task s.k.nextFlit (fun g => !isStore g.e.eff) then s.Stalls (.ofork lk cd cs b)
      else s.Traps (.ofork lk cd cs b) tNOTCAPPED 0)

/-! Tile-walk engine, tasks, groups and messages. -/

/-- TWGO, TWPERM, TWSTAT and TWWAIT (R243 to R245): the first two act at commit, TWSTAT reads the channel of the lane's comb,
TWWAIT goes on when DONEID has reached s[B] and parks otherwise. -/
def Obligations.TileWalkInstructionsUseTheCombsChannel : Prop :=
  ∀ (s : State) (lk : Fin 16) (ch : Fin 8) (d : SReg) (k : Fin 4) (g : GAddr) (b : SSrc),
    let n := (s.rS b.r).toNat
    let c := s.chan (s.lcore / 4) ch.val
    (match s.access (s.rC g.c.r) (s.ea g) 64 rR (decide (s.ea g % 64 = 0)) (s.exclTy g.c.r) with
      | .error code => s.Passes (.twgo lk ch g) → s.Traps (.twgo lk ch g) code (BitVec.ofNat 64 (s.ea g))
      | .ok _ => s.Sends (.twgo lk ch g) (.twgo (s.lcore / 4) ch.val (s.ea g)) .relaxed) ∧
    (n ≤ 65535 → s.Sends (.twperm lk ch b) (.twperm (s.lcore / 4) ch.val n) .relaxed) ∧
    (65535 < n → s.Passes (.twperm lk ch b) → s.Traps (.twperm lk ch b) tILLEGAL 0) ∧
    s.GivesS (.twstat lk d ch k) d (BitVec.ofNat 64 (if k.val = 0 then c.doneId else if k.val = 1 then c.permits
      else if k.val = 2 then c.head else c.st.code + 256 * c.err)) ∧
    (2 ^ 32 ≤ n → s.Passes (.twwait lk ch b) → s.Traps (.twwait lk ch b) tILLEGAL 0) ∧
    (n < 2 ^ 32 → n ≤ c.doneId → s.Passes (.twwait lk ch b) → ∃ t, exec (.twwait lk ch b) s = .next t ∧
      s.Plain t (.twwait lk ch b) [] [] [] []) ∧
    (n < 2 ^ 32 → c.doneId < n → s.Parks (.twwait lk ch b) (.twwait (s.lcore / 4) ch.val n))

/-- SPAWN and SPAWNAT (R247 to R249, R305): the checks in their order, a stall while the pool is empty, then a reserved record
with the fields of R249, an outbox entry that releases it at commit (SPAWNAT not before s[A + 1]), and its task id in d. That
the id is the model's next one and that the pool's size comes with the context are the model's choices (log entries 13 and 33).
-/
def Obligations.SpawnReservesARecord : Prop :=
  ∀ (s : State) (lk : Fin 16) (d : SReg) (a b : SSrc) (c : CSrc) (cls : Fin 16) (al : Fin 8) (pin at' : Bool),
    let i : Instr := if at' then .spawnat lk d a b c cls al pin else .spawn lk d a b c cls al pin
    let x := (s.rS b.r).toNat
    let grp := x % 2 ^ 32
    let core := x / 2 ^ 32 % 2 ^ 29
    let alloc := if al.val = 0 then s.alloc else 8 * al.val
    let when? : Option Word := if at' then some (s.rN (a.r.val + 1)) else none
    let f : RecFields := { RecFields.init with
      pc := s.rS a.r, pin := pin, gid := grp, deadline := s.rec_.f.deadline, cbud := s.rec_.f.cbud, cls := cls.val
      alloc := alloc, pcore := if pin then core % 2048 else 0, frame := s.rC c.r }
    let n := (s.boundId s.tag).getD s.k.nextTask
    let wide := if pin then 2 ^ 61 ≤ x else 2 ^ 32 ≤ x
    let okField := al.val ≤ 4 ∧ (at' = true → a.r.val ≠ 63)
    (¬ okField ∨ wide → s.Passes i → s.Traps i tILLEGAL 0) ∧
    (okField → ¬ wide → (2 ^ 60 ≤ (s.rS a.r).toNat ∨ (pin = true ∧ s.lcount ≤ core)) → s.Passes i → s.Traps i tCAPBOUND 0) ∧
    (okField → ¬ wide → (s.rS a.r).toNat < 2 ^ 60 → (pin = true → core < s.lcount) →
      (s.groupOk grp = false → s.Passes i → s.Traps i tPRIV 0) ∧
      (s.groupOk grp = true → s.valloc < alloc → s.Passes i → s.Traps i tREGBOUND 0) ∧
      (s.groupOk grp = true → alloc ≤ s.valloc → ∀ code, s.frameChk f.frame (2 * areaBytes alloc) grp = some code →
        s.Passes i → s.Traps i code 0) ∧
      (s.groupOk grp = true → alloc ≤ s.valloc → s.frameChk f.frame (2 * areaBytes alloc) grp = none →
        s.poolFree = 0 → s.boundId s.tag = none → s.Passes i → s.Stalls i) ∧
      (s.groupOk grp = true → alloc ≤ s.valloc → s.frameChk f.frame (2 * areaBytes alloc) grp = none → 0 < s.poolFree →
        s.room 64 = true → s.Passes i → ∃ t, exec i s = .next t ∧ s.Entered t i (.spawn n f (if pin then some core else none) when?) .relaxed [d.val] [] ∧
          (t.rS d = if d = 0 then 0 else BitVec.ofNat 64 n) ∧
          (s.boundId s.tag = none → t.record n = { Rec.init with f := f, st := .reserved } ∧ t.k.nextTask = n + 1 ∧
            t.ln.rTask = s.ln.rTask ++ [n])))

/-- Groups and record controls (R250 to R253): TGNEW reserves a child group's id and joins nothing before its commit, and
TGCLOSE, CANCEL, SETDL and SETBG enter their effects; a group that is not the issuer's or a descendant raises PRIV.
That the id is the model's next one is the model's choice (log entry 13). -/
def Obligations.GroupInstructionsEnterTheirEffects : Prop :=
  ∀ (s : State) (lk : Fin 16) (d : SReg) (g : GAddr) (ov : Fin 64) (a b : SSrc) (c : CSrc),
    let ea := s.ea g
    let id := (s.boundId s.tag).getD s.k.nextGid
    let x := (s.rS a.r).toNat
    let oid := if c.r = 0 then 0 else capOid (s.rC c.r)
    (match s.access (s.rC g.c.r) ea 128 rJ (decide (ea % 64 = 0)) (s.latTy .join .fill .w64) with
      | .error code => s.Passes (.tgnew lk d g ov) → s.Traps (.tgnew lk d g ov) code (BitVec.ofNat 64 ea)
      | .ok _ => s.Passes (.tgnew lk d g ov) → s.room 16 = true → ∃ t, exec (.tgnew lk d g ov) s = .next t ∧
          s.Entered t (.tgnew lk d g ov) (.tgnew id s.gid ea (ea + 64) ov.val) .relaxed [d.val] [] ∧
          (t.rS d = if d = 0 then 0 else BitVec.ofNat 64 id) ∧ id ∈ t.ln.rGid ∧
          (s.boundId s.tag = none → t.k.nextGid = id + 1)) ∧
    (s.ownGroup x = false → s.Passes (.tgclose lk a c) → s.Traps (.tgclose lk a c) tPRIV 0) ∧
    (s.tgcloseChk x c.r = none → s.Sends (.tgclose lk a c) (.tgclose x oid) .relaxed) ∧
    (s.ownGroup x = false → s.Passes (.cancel lk a) → s.Traps (.cancel lk a) tPRIV 0) ∧
    (s.ownGroup x = true → s.Sends (.cancel lk a) (.cancel x) .relaxed) ∧
    s.Sends (.setdl lk a b) (.setdl x (s.rS b.r)) .relaxed ∧
    ((s.rS b.r).toNat < 2 ^ 32 → s.Sends (.setbg lk a b) (.setbg x (s.rS b.r).toNat) .relaxed) ∧
    (2 ^ 32 ≤ (s.rS b.r).toNat → s.Passes (.setbg lk a b) → s.Traps (.setbg lk a b) tILLEGAL 0)

/-- Messages and handlers (R255 to R257): MSG carries four registers from s[B] on to a core below LCOUNT, HREG binds a class of
its own core, HDROP ends the binding; classes 0 to 3 raise PRIV.
The pool's size is what the context was made with (the model's choice, log entry 33). -/
def Obligations.MessagesAndHandlersActAtCommit : Prop :=
  ∀ (s : State) (lk : Fin 16) (a b : SSrc) (c : CSrc) (cls : Fin 64),
    let x := (s.rS a.r).toNat
    let y := (s.rS b.r).toNat
    let grp := y % 2 ^ 32
    let al := y / 2 ^ 36 % 8
    let body := [s.rS b.r, s.rN (b.r.val + 1), s.rN (b.r.val + 2), s.rN (b.r.val + 3)]
    let bd : Binding := ⟨s.rS a.r, s.rN (a.r.val + 1), grp, y / 2 ^ 32 % 16, 8 * al, s.rC c.r, s.rec_.f.cbud, []⟩
    (b.r.val ≤ 60 → x < s.lcount → s.Sends (.msg lk a b cls) (.msg ⟨s.lcore, x, cls.val, body, none, []⟩) .relaxed) ∧
    (b.r.val ≤ 60 → s.lcount ≤ x → s.Passes (.msg lk a b cls) → s.Traps (.msg lk a b cls) tCAPBOUND 0) ∧
    (y < 2 ^ 39 → 1 ≤ al → al ≤ 4 → a.r.val ≠ 63 → s.groupOk grp = true → 8 * al ≤ s.valloc →
      s.frameChk (s.rC c.r) (16 * (2 * areaBytes (8 * al))) grp = none → 16 ≤ s.poolFree →
      s.Sends (.hreg lk a b c cls) (.hreg s.lcore cls.val bd) .relaxed) ∧
    (2 ^ 39 ≤ y ∨ al = 0 ∨ 4 < al ∨ a.r.val = 63 → s.Passes (.hreg lk a b c cls) → s.Traps (.hreg lk a b c cls) tILLEGAL 0) ∧
    (y < 2 ^ 39 → 1 ≤ al → al ≤ 4 → a.r.val ≠ 63 → s.groupOk grp = false → s.Passes (.hreg lk a b c cls) →
      s.Traps (.hreg lk a b c cls) tPRIV 0) ∧
    s.Sends (.hdrop lk cls) (.hdrop s.lcore cls.val) .relaxed ∧
    (cls.val < 4 → s.ln.blk < 256 → s.Traps (.msg lk a b cls) tPRIV 0 ∧ s.Traps (.hreg lk a b c cls) tPRIV 0 ∧
      s.Traps (.hdrop lk cls) tPRIV 0)

/-! The ternary array. -/

/-- Leases, formats and tiles (R228 to R233): TLEASE goes on for the core that holds the lease and otherwise leaves the lane
asking, TREL ends the lease once what was queued before it has ended, TFMT queues the change of the core's format, TLDW starts a
load, which waits on the load path while a command before it names its buffer, and both stall only when the queue is full and raise
LEASE without a lease.
That LEASE comes after the checks of the address and before NOTCAPPED, and in TFMT before FORMAT, that a tile counts as loading from
the issue on, and that a load into a buffer in use is accepted are the model's readings (log entries 66, 28 and 79). -/
def Obligations.ArrayLeasesFormatsAndTiles : Prop :=
  ∀ (s : State) (lk : Fin 16) (kind : Fin 4) (q : Fin 8) (g : GAddr) (buf : Bool),
    let c := s.lcore / 4
    let f := s.ln.fmt[q]
    let ea := s.ea g
    let fmt : ArrFmt := if kind.val = 0 then .narrow f else if kind.val = 1 then .i8 else .i4
    (s.leaseHeld = true → s.Passes (.tlease lk) → ∃ t, exec (.tlease lk) s = .next t ∧
      s.Went t (.tlease lk) (s.ln.pc + 8) [] [] [] [] ∧ s.cur ∉ (t.comb c).asking) ∧
    (s.leaseHeld = false → s.Passes (.tlease lk) → ∃ t, exec (.tlease lk) s = .next t ∧ t.ln = s.ln ∧
      s.cur ∈ (t.comb c).asking ∧ t.mem = s.mem) ∧
    (s.Passes (.trel lk) → ∃ t, exec (.trel lk) s = .next t ∧ s.Went t (.trel lk) (s.ln.pc + 8) [] [] [] [] ∧ t.mem = s.mem ∧
      (s.leaseHeld = false → t.k = s.k) ∧
      (s.leaseHeld = true → (s.comb c).queue = [] → (t.comb c).lease = none) ∧
      (s.leaseHeld = true → (s.comb c).queue ≠ [] → (t.comb c).lease = (s.comb c).lease.map (fun x =>
        { x with ending := some (x.ending.getD (s.comb c).queue.length) }))) ∧
    (s.leaseHeld = false → s.Passes (.tfmt lk kind q) → s.Traps (.tfmt lk kind q) tLEASE 0) ∧
    (s.leaseHeld = true → kind.val = 0 → (nfValid f = false ∨ 5 < nfE f) → s.Passes (.tfmt lk kind q) →
      s.Traps (.tfmt lk kind q) tFORMAT 0) ∧
    (s.leaseHeld = true → kind.val ≠ 3 → (kind.val = 0 → nfValid f = true ∧ nfE f ≤ 5) → s.Passes (.tfmt lk kind q) →
      if (s.comb c).queueFull = true then s.Stalls (.tfmt lk kind q)
      else ∃ t, exec (.tfmt lk kind q) s = .next t ∧ s.Went t (.tfmt lk kind q) (s.ln.pc + 8) [] [] [] [] ∧ t.mem = s.mem ∧
        (∀ l, t.core l = s.core l) ∧ (t.comb c).queue = (s.comb c).queue ++
          [⟨false, some s.cur, s.ln.task, s.lcore % 4, s.ln.pc, none, some (.fmt s.lcore fmt), s.ln.box.length, none⟩] ∧
        (t.comb c).lease = (s.comb c).lease.map (fun x => { x with left := x.left - 1, tasks := nadd x.tasks s.ln.task })) ∧
    (match s.access (s.rC g.c.r) ea 8192 rR (decide (ea % 64 = 0)) (s.tileTy g.c.r) with
      | .error code => s.Passes (.tldw lk g buf) → s.Traps (.tldw lk g buf) code (BitVec.ofNat 64 ea)
      | .ok _ => s.leaseHeld = false → s.Passes (.tldw lk g buf) → s.Traps (.tldw lk g buf) tLEASE 0) ∧
    (∀ x, s.leaseHeld = true → s.access (s.rC g.c.r) ea 8192 rR (decide (ea % 64 = 0)) (s.tileTy g.c.r) = .ok x →
      (x.ty = .fill → s.rangeCapped ea 8192 = true) → (s.comb c).queueFull = false →
      s.Passes (.tldw lk g buf) →
      ∃ t, exec (.tldw lk g buf) s = .next t ∧ s.Went t (.tldw lk g buf) (s.ln.pc + 8) [] [] [] [] ∧
        (t.comb c).bufOf (!buf) = (s.comb c).bufOf (!buf) ∧ t.mem = s.mem ∧
        let busy := ∃ y ∈ (s.comb c).queue, y.buf = some buf
        (t.comb c).queue.dropLast = (s.comb c).queue ∧ ∀ y, (t.comb c).queue.getLast? = some y →
          y.load = true ∧ y.lane = some s.cur ∧ y.buf = some buf ∧ y.job = none ∧
          (busy → y.pend = some ea ∧ (t.comb c).bufOf buf = (s.comb c).bufOf buf) ∧
          (¬ busy → y.pend = none ∧ ((t.comb c).bufOf buf).st = .loading ea)) ∧
    (∀ x, s.leaseHeld = true → s.access (s.rC g.c.r) ea 8192 rR (decide (ea % 64 = 0)) (s.tileTy g.c.r) = .ok x →
      s.Passes (.tldw lk g buf) →
      (x.ty = .fill → s.rangeCapped ea 8192 = false →
        if s.undone s.ln.task s.k.nextFlit (fun h => effMeets h.e.eff ea 8192) then s.Stalls (.tldw lk g buf)
        else s.Traps (.tldw lk g buf) tNOTCAPPED (BitVec.ofNat 64 ea)) ∧
      ((x.ty = .fill → s.rangeCapped ea 8192 = true) → (s.comb c).queueFull = true → s.Stalls (.tldw lk g buf)))

/-- TMMA, TDRAIN, TZERO and TSTAT (R86 to R89, R169, R233 to R237, R239, R327, R358). M outside 1 to 64 raises ILLEGAL, then no
lease LEASE, then rows out of range CAPBOUND, then a place out of the scratchpad CAPBOUND and a misaligned one ALIGN, then an unset
format FORMAT; an invalid tile buffer raises LEASE, a bad one its own trap such as TRITBYTE, and a faulted one parks the record; while
the tile loads, or a load into its buffer waits, the command is accepted and the lane stays until the tile is judged, with a full
queue it stalls, and else TDRAIN and TZERO are accepted and retire, TMMA once its rows are read. The command then works in its turns:
TMMA, row by row, raises FORMAT on a recorded weight or on an element, whose row and later ones stay as they are, UNCORR on poison,
and else adds the exact dot products of activation rows and trit columns, clamped to 64 bits, and sets ACCOVF in the FLAGS of its
activation, if that is still there, when one is clamped; TDRAIN writes some of its words in each turn, changes no row and no full
bit; TFMT sets the format, TZERO clears rows and their recorded weight; TSTAT reads the array's state.
The order of the checks, that a buffer's poison is met as a piece is done, and the pieces in which a command works are the model's
readings and choices (log entries 28, 29, 31 and 77). -/
def Obligations.ArrayComputesExactly : Prop :=
  ∀ (s : State) (lk : Fin 16) (bf acc vecScale buf : Bool) (d : SReg) (a b : SSrc) (imm : BitVec 8) (k : Fin 4) (f : ArrFmt)
    (comb n lc : Nat) (q : ArrCmd) (tile : List Byte) (left : List Nat) (vc : Option Nat),
    let row := (s.rS d).toNat
    let m := (s.rS b.r).toNat
    let off := (s.rS a.r + BitVec.ofInt 64 (imm.toInt * 64)).toNat
    let c := s.ownComb
    let st (x : Bool) : BufState := (c.bufOf x).st
    let cols (z : Bool) : Nat := if z then 64 else 128
    let bytes := 4 * cols bf
    let vec := (s.rN (b.r.val + 1)).toNat
    let mma : Instr := .tmma lk d a b imm buf
    let drain : Instr := .tdrain lk bf acc d a b imm vecScale buf
    let zero : Instr := .tzero lk d b
    let rowsOk := 1 ≤ m ∧ m ≤ 64 ∧ s.leaseHeld = true ∧ row + m ≤ s.accRows
    let okM := rowsOk ∧ off + 256 * m ≤ s.scratchSize ∧ off % 4 = 0 ∧ s.fmtSoon ≠ .unset
    let okD := rowsOk ∧ off + bytes * m ≤ s.scratchSize ∧ off % 4 = 0 ∧
      (vecScale = true → vec + 512 ≤ s.scratchSize ∧ vec % 4 = 0)
    let jd (v : Option Nat) : Job := .drain s.lcore row off bf acc v (List.range (m * cols bf))
    let accepted (i : Instr) (x : Option Bool) (j : Job) (stays : Bool) : Prop :=
      if c.queueFull = true then s.Stalls i
      else ∃ t, exec i s = .next t ∧ t.mem = s.mem ∧ (∀ l, t.core l = s.core l) ∧ t.ownComb.queue = c.queue ++
          [⟨false, some s.cur, s.ln.task, s.lcore % 4, s.ln.pc, x, some j, s.ln.box.length, none⟩] ∧
        if stays = true then t.ln = { s.ln with acc := true } else s.Went t i (s.ln.pc + 8) [] [] [] [] ∧ t.ln.acc = s.ln.acc
    let judged (i : Instr) (x : Bool) (before : List ArrCmd) : Prop := loadAhead before x = false →
      (st x = .invalid → s.Traps i tLEASE 0) ∧ (∀ code va, st x = .bad code va → s.Traps i code (BitVec.ofNat 64 va)) ∧
      ∀ va, st x = .faulted va → exec i s = .next (match s.unmapped? va with
        | some z => s.parkPage s.cur z s.ln.pc (BitVec.ofNat 64 va)
        | none => s.abandon s.cur)
    let loading (x : Bool) (before : List ArrCmd) : Prop := loadAhead before x = true ∨ ∃ va, st x = .loading va
    let fresh (i : Instr) (j : Job) (isMma : Bool) : Prop := s.ln.acc = false → s.Passes i → judged i buf c.queue ∧
      (loading buf c.queue → accepted i (some buf) j true) ∧
      (loadAhead c.queue buf = false → st buf = .loaded → accepted i (some buf) j isMma)
    let goes (i : Instr) : Prop := ∃ t, exec i s = .next t ∧ s.Went t i (s.ln.pc + 8) [] [] [] [] ∧ t.ln.acc = false ∧
      t = { s with ln := t.ln }
    let resumed (i : Instr) (isMma : Bool) : Prop := s.ln.acc = true → s.Passes i → (s.ownJob = none → goes i) ∧
      ∀ before y, s.ownJob = some (before, y) → (y.job = none ∨ y.buf = none → goes i) ∧
        ∀ j x, y.job = some j → y.buf = some x → judged i x before ∧ (loading x before → s.Stalls i) ∧
          (loadAhead before x = false → st x = .loaded → if isMma = true then s.Stalls i else goes i)
    let e : Instr := .arrayCommandEnd comb
    let o := s.comb comb
    let job (j : Job) : Prop := o.nextMove = some n ∧ o.queue[n]? = some q ∧ q.job = some j ∧ s.combRuns comb = true
    let works (j : Job) : Prop := job j ∧ o.tileOf q = some tile
    let ends := s.onComb comb (fun c => c.setJob n none)
    let stops (code va : Nat) : Prop := (∀ l, q.lane = some l → s.Comes e (fun t =>
        t = (ends.focusLane l).takeTrap ⟨code, q.pc, BitVec.ofNat 64 va, rptOf code⟩)) ∧ (q.lane = none → s.Comes e (fun t => t = ends))
    let does (j : Option Job) (fl : Word → Word) (p : State → Prop) : Prop := s.Comes e (fun t => s.CoresBut t lc ∧ s.CombsBut t comb ∧
      t.k.recs = s.k.recs ∧ t.hw = s.hw ∧ (t.comb comb).queue[n]? = some { q with job := j } ∧ (∀ l, q.lane ≠ some l → t.lane l = s.lane l) ∧
      (∀ l, q.lane = some l → t.lane l = { s.lane l with flags := fl (s.lane l).flags, wrote := (t.lane l).wrote }) ∧ p t)
    let units := rowUnits f (s.scratch lc off 256)
    let sums (u : List Int) : List Int :=
      List.zipWith (fun (x : BitVec 64) col => x.toInt + dotI col u) (s.accOf lc row).vals (tileCols tile)
    let clash := ∃ r < m, ∃ w, (s.accOf lc (row + r)).weight = some w ∧ w ≠ lsbOf f
    let badRow (r : Nat) : Prop := r ∈ (s.core lc).badR
    let scale (i : Nat) : Nat := match vc with
      | none => ofBytes ((tile.drop (64 * i + 52)).take 4)
      | some z => ofBytes (s.scratch lc (z + 4 * i) 4)
    let word (i : Nat) : Nat :=
      let x := s.accOf lc (row + i / cols bf)
      let v (t : FFmt) (j : Nat) : Nat := drainVal t (lget x.vals j 0) (x.weight.getD 0) (scale j)
      let j := i % cols bf
      if bf = true then v fmtBF16 (2 * j) % 2 ^ 16 + 2 ^ 16 * (v fmtBF16 (2 * j + 1) % 2 ^ 16)
      else if acc = true then (addV fmtF32 .rne (unpackF fmtF32 (ofBytes (s.scratch lc (off + 4 * i) 4))) (unpackF fmtF32 (v fmtF32 j))).1 % 2 ^ 32
      else v fmtF32 j % 2 ^ 32
    (∀ i : Instr, i = mma ∨ i = drain ∨ i = zero → (i = zero ∨ s.ln.acc = false) → s.Passes i →
      (m < 1 ∨ 64 < m → s.Traps i tILLEGAL 0) ∧ (1 ≤ m → m ≤ 64 → s.leaseHeld = false → s.Traps i tLEASE 0) ∧
      (1 ≤ m → m ≤ 64 → s.leaseHeld = true → s.accRows < row + m → s.Traps i tCAPBOUND 0)) ∧
    (s.ln.acc = false → rowsOk → s.Passes mma →
      (s.scratchSize < off + 256 * m → s.Traps mma tCAPBOUND (BitVec.ofNat 64 off)) ∧
      (off + 256 * m ≤ s.scratchSize → off % 4 ≠ 0 → s.Traps mma tALIGN (BitVec.ofNat 64 off)) ∧
      (off + 256 * m ≤ s.scratchSize → off % 4 = 0 → s.fmtSoon = .unset → s.Traps mma tFORMAT 0)) ∧
    (s.ln.acc = false → rowsOk → s.Passes drain →
      let vecIn := vecScale = true → vec + 512 ≤ s.scratchSize
      (s.scratchSize < off + bytes * m → s.Traps drain tCAPBOUND (BitVec.ofNat 64 off)) ∧
      (off + bytes * m ≤ s.scratchSize → ¬ vecIn → s.Traps drain tCAPBOUND (BitVec.ofNat 64 vec)) ∧
      (off + bytes * m ≤ s.scratchSize → vecIn → off % 4 ≠ 0 → s.Traps drain tALIGN (BitVec.ofNat 64 off)) ∧
      (off + bytes * m ≤ s.scratchSize → vecIn → off % 4 = 0 → vecScale = true → vec % 4 ≠ 0 →
        s.Traps drain tALIGN (BitVec.ofNat 64 vec))) ∧
    (okM → fresh mma (.mma s.lcore row m off s.fmtSoon) true) ∧ (okD → vecScale = false → fresh drain (jd none) false) ∧
    (okD → vecScale = true → s.ln.acc = false → s.Passes drain → accepted drain none (jd (some vec)) false) ∧
    (rowsOk → s.Passes zero → accepted zero none (.zero s.lcore row m) false) ∧ resumed mma true ∧ resumed drain false ∧
    (works (.mma lc row m off f) → (clash → stops tFORMAT 0) ∧ (¬ clash → badRow row → stops tUNCORR 0) ∧
      (¬ clash → ¬ badRow row → s.scratchBad lc off 256 = true → stops tUNCORR off) ∧
      (¬ clash → ¬ badRow row → s.scratchBad lc off 256 = false → (units = none → stops tFORMAT 0) ∧
        ∀ u, units = some u → does (if m ≤ 1 then none else some (.mma lc (row + 1) (m - 1) (off + 256) f))
          (fun x => if ∃ z ∈ sums u, z < -(2 ^ 63) ∨ 2 ^ 63 ≤ z then x ||| 1 else x) (fun t => t.mem = s.mem ∧
            t.accOf lc row = ⟨(sums u).map (fun z => BitVec.ofInt 64 (max (-(2 ^ 63)) (min z (2 ^ 63 - 1)))), some (lsbOf f)⟩ ∧
            t.core lc = { s.core lc with acc := (t.core lc).acc } ∧ ∀ r, r ≠ row → t.accOf lc r = s.accOf lc r))) ∧
    (works (.drain lc row off bf acc vc left) →
      ((∀ i ∈ left, badRow (row + i / cols bf)) → left ≠ [] → stops tUNCORR 0) ∧
      ((∀ i ∈ left, ¬ badRow (row + i / cols bf)) →
        ((∀ i ∈ left, s.scratchBad lc (off + 4 * i) 4 = true) → acc = true → left ≠ [] → stops tUNCORR off) ∧
        ((∀ i ∈ left, acc = true → s.scratchBad lc (off + 4 * i) 4 = false) →
          (∀ z, vc = some z → s.scratchBad lc z 512 = true → stops tUNCORR z) ∧
          ((∀ z, vc = some z → s.scratchBad lc z 512 = false) → ∃ rest : List Nat, rest.Sublist left ∧ (left ≠ [] → rest.length < left.length) ∧
            does (if rest = [] then none else some (.drain lc row off bf acc vc rest)) id (fun t => (t.core lc).full = (s.core lc).full ∧
              (∀ r, t.accOf lc r = s.accOf lc r) ∧
              (∀ x, (∀ i ∈ left, i ∉ rest → x < scratchAddr s.kid lc (off + 4 * i) ∨ scratchAddr s.kid lc (off + 4 * i) + 4 ≤ x) →
                t.mem.read x = s.mem.read x) ∧
              (left.Nodup → (∀ z, vc = some z → ∀ i ∈ left, off + 4 * i + 4 ≤ z ∨ z + 512 ≤ off + 4 * i) → ∀ i ∈ left, i ∉ rest →
                ofBytes (t.scratch lc (off + 4 * i) 4) = word i)))))) ∧
    (works (.fmt lc f) → does none id (fun t => t.mem = s.mem ∧ t.core lc = { s.core lc with fmt := f })) ∧
    (works (.zero lc row m) → does none id (fun t => t.mem = s.mem ∧
      t.core lc = { s.core lc with acc := (t.core lc).acc, badR := (t.core lc).badR } ∧
      (∀ r, row ≤ r → r < row + m → t.accOf lc r = ⟨List.replicate 128 0, none⟩ ∧ r ∉ (t.core lc).badR) ∧
      ∀ r, (r < row ∨ row + m ≤ r) → t.accOf lc r = s.accOf lc r ∧ (r ∈ (t.core lc).badR ↔ r ∈ (s.core lc).badR))) ∧
    (∀ j, job j → o.tileOf q = none → s.Comes e (fun t => t = ends)) ∧
    (k.val ≠ 3 → s.GivesS (.tstat lk d k) d (BitVec.ofNat 64 (s.tstat k.val)))
/-! What the machine does between instructions: each event, when what it needs holds, leaves the state that is said. -/

/-- Lanes (R96, R110, R112, R301 to R303, R324, R325): DISPATCH gives an idle lane the record of R303, REGISTERS_LOADED loads
the live registers of every kind from save area ACTN mod 2, FRAME_LOAD_FAULT parks the record on the page, LOCAL_QUEUE_FILL
moves a record to its core's queue, BUDGET_EXHAUSTED sets TPD and asks for a commit, BLOCK_VERIFY lets the lane drain, and a
mismatch abandons its activation, the fourth one its record, with SIGFAIL and the PC of the SIG; an allocation above the launch's
ends the record with REGBOUND (R18). The starting registers of a
record are in save area 0 before its first dispatch goes on (R94).
A frame with K = 1 ends the record with KRES (R289).
That the local queue and the bank are compared together, that BUDG falls while CBUD = 0, and that a starting area whose page is
not mapped parks the record are the model's readings (log entries 37, 44, 45), and so are the PC of a REGBOUND record (log
entry 80) and the PC and VA of the records of a load (log entry 94). -/
def Obligations.LanesTakeLoadAndVerify : Prop :=
  ∀ (s : State) (n l c va a : Nat) (m : Missed) (ws : List (Nat × Word)) (cs : List (Nat × Cap)) (r : Rec) (par : Bool),
    let u := s.focusLane l
    let x := s.lane l
    let f := (s.record x.task).f
    let area := u.areaVa f f.actn
    let own (y : Rec) : Prop := y.die = s.bankOf (l / 8) ∨ y.st = .loc (l / 8)
    let sigPc := x.mism.getD (x.lastSig.getD 0)
    (s.offer l = some (n, r) → (n, r) ∈ s.k.recs ∧ s.mayTake l r = true ∧ ∀ y ∈ s.k.recs, s.mayTake l y.2 = true →
      (own y.2 → own r) ∧ ((own y.2 ↔ own r) → beforeRec y (n, r) = false)) ∧
    (s.offer l = some (n, r) → s.laneFree l = true → r.f.alloc ≤ s.valloc → (r.f.alloc = 8 ∨ r.f.alloc = 16 ∨
      r.f.alloc = 24 ∨ r.f.alloc = 32) → tget? s.k.recs n = some r → s.Comes (.dispatch n l) (fun t => s.LanesBut t l ∧
        s.RecsBut t n ∧ t.hw = s.hw ∧ (t.lane l).st = .load ∧ (t.lane l).task = n ∧ (t.lane l).box = [] ∧
        (t.lane l).pc = r.f.pc ∧ (t.record n).st = .active l ∧ (t.record n).f = r.f ∧ (t.record n).run = r.run + 1 ∧
        (t.lane l).know = r.know ∧
        ((t.lane l).budg = if r.f.cbud = 0 then BitVec.allOnes 64 else BitVec.ofNat 64 r.f.cbud) ∧
        (t.k.dlmiss = if r.f.deadline.toNat < s.timeAt (l / 8) then s.k.dlmiss + 1 else s.k.dlmiss) ∧
        (r.first = none → s.InLanes t ∧ (t.record n).first = none) ∧
        (r.first = some (ws, cs) → s.areaVa r.f 0 = some va →
          (∀ b z, s.firstUnmapped va 0x360 = some b → s.unmapped? b = some z → t.mem = s.mem ∧ (t.record n).first = r.first) ∧
          (s.firstUnmapped va 0x360 = none → (t.record n).first = none ∧ (s.kernelAt va 0x360 = true → t.mem = s.mem) ∧
            (s.kernelAt va 0x360 = false → s.PlainRange va 0x360 → (ws.map (fun y => y.1)).Nodup → (cs.map (fun y => y.1)).Nodup →
              (∀ y ∈ ws, y.1 < 64 → t.getWord (va + 8 * y.1) = y.2) ∧
              (∀ y ∈ cs, y.1 < 16 → t.readV (va + 0x200 + 16 * y.1) 16 = toBytes y.2.toNat 16) ∧
              ∀ j < 11, t.getWord (va + 0x300 + 8 * j) = 0))))) ∧
    (s.offer l = some (n, r) → s.laneFree l = true → s.valloc < r.f.alloc → n < s.k.nextTask → s.Comes (.dispatch n l) (fun t =>
      t.mem = s.mem ∧ t.hw = s.hw ∧ (∀ j, t.lane j = s.lane j) ∧ (t.record n).st = .ended ∧
      ((s.k.flogHead - s.k.flogCons).toNat ≠ 4096 → tget? t.k.flog (s.k.flogHead.toNat % 4096) =
        some ⟨⟨tREGBOUND, r.f.pc, 0, false⟩, n, r.f.actn % 2 ^ 24⟩))) ∧
    (s.laneOn l = true → x.st = .load → (s.record x.task).first = none → area = some va → u.loadMeet f va = .ok →
      u.loadPoisoned f va = false → s.Comes (.registersLoaded l) (fun t => s.InLanes t ∧ s.LanesBut t l ∧
        t.k.recs = s.k.recs ∧ (t.lane l).pc = f.pc ∧ (t.lane l).c[15] = f.frame ∧
        ((t.lane l).st = if x.preq.isSome = true then .finish else .run) ∧ (t.lane l).liveS = (f.slive ||| 1) ∧
        (t.lane l).liveV = f.vlive ∧ (t.lane l).liveM = f.mlive ∧
        (t.lane l).liveC = ((u.getWord (va + 0x358)).setWidth 16 ||| 0x8001) ∧
        (t.lane l).fpc = (u.getWord (va + 0x300) &&& 0x1F03) ∧ (t.lane l).flags = (u.getWord (va + 0x308) &&& 0xFFFF0001) ∧
        (t.lane l).nf = (u.getWord (va + 0x310) &&& 7) ∧
        (∀ j : Fin 8, (t.lane l).fmt[j] = ((u.getWord (va + 0x318 + 8 * j.val)).setWidth 32 &&& 0x3FFFF)) ∧
        (∀ k : Fin 64, k ≠ 0 → f.slive.getLsbD k = true → (t.lane l).s[k] = u.getWord (va + 8 * k.val)) ∧
        (∀ k : Fin 16, k ≠ 0 → k ≠ 15 → (t.lane l).liveC.getLsbD k = true →
          (t.lane l).c[k] = if u.tagAt (va + 0x200 + 16 * k.val) = true then
            BitVec.ofNat 128 (ofBytes (u.readV (va + 0x200 + 16 * k.val) 16)) else 0) ∧
        (∀ k : Fin 8, f.mlive.getLsbD k = true →
          (t.lane l).m[k] = BitVec.ofNat 1024 (ofBytes (u.readV (va + 0x400 + 128 * k.val) 128))) ∧
        ∀ k : Fin 32, f.vlive.getLsbD k = true →
          (t.lane l).v[k] = BitVec.ofNat 4096 (ofBytes (u.readV (va + 0x800 + 512 * k.val) 512)))) ∧
    (s.laneOn l = true → x.st = .load → s.Runs l n → (s.record n).first = none → area = some va → u.loadMeet f va = .kernel →
      s.Comes (.registersLoaded l) (fun t => t.mem = s.mem ∧ s.LanesBut t l ∧ (t.lane l).st = .idle ∧
        (n < s.k.nextTask → (t.record n).st = .ended) ∧ ((s.k.flogHead - s.k.flogCons).toNat ≠ 4096 →
          tget? t.k.flog (s.k.flogHead.toNat % 4096) = some ⟨⟨tKRES, f.pc, BitVec.ofNat 64 va, false⟩, n, f.actn % 2 ^ 24⟩))) ∧
    (s.laneOn l = true → x.st = .load → s.Runs l n → area = some va →
      (u.loadMeet f va = .missing m → u.slotUnmapped va (loadSlots f (u.savedC va)) = some a → s.Comes (.frameLoadFault l) (fun t =>
        t.mem = s.mem ∧ s.LanesBut t l ∧ (t.lane l).st = .idle ∧ (t.record n).f = f ∧
        ∃ i y, (t.record n).st = .parked (.page i f.pc (BitVec.ofNat 64 a)) ∧ t.k.faults[i]? = some y ∧
          y.isFor m = true ∧ y.done = false)) ∧
      ((∀ z, u.loadMeet f va ≠ .missing z) → (s.record n).first.isSome = true → s.Comes (.frameLoadFault l) (fun t =>
        t.mem = s.mem ∧ s.LanesBut t l ∧ (t.lane l).st = .idle ∧ (t.record n).st = .ready ∧ (t.record n).f = f))) ∧
    (s.laneOn (c * 8) = true → (∃ j < s.lanesOn, s.laneFree (c * 8 + j) = true) → (s.core c).localq.length < 4 →
      bestRec (s.k.recs.filter (fun y => y.2.st == .ready && y.2.die == s.bankOf c && s.mayTake (c * 8) y.2)) = some (n, r) →
      s.Comes (.localQueueFill n c) (fun t => s.InCtx t ∧ s.RecsBut t n ∧ (t.record n).st = .loc c ∧
        (t.core c).localq = (s.core c).localq ++ [n] ∧ s.CoresBut t c)) ∧
    (s.laneOn l = true → (x.st = .run ∨ x.st = .finish) → u.budgetDue = true →
      s.Comes (.budgetExhausted l) (fun t => s.InLanes t ∧ s.LanesBut t l ∧ t.k.recs = s.k.recs ∧
        t.lane l = { x with tpd := true, st := .finish })) ∧
    (s.laneOn l = true → x.st = .verify → x.mism = none → u.commandsOf l = false →
      s.Comes (.blockVerify l false) (fun t => s.InLanes t ∧ s.LanesBut t l ∧ t.k.recs = s.k.recs ∧
        t.lane l = { x with st := .drain })) ∧
    (s.laneOn l = true → (x.st = .run ∨ x.st = .finish ∨ x.st = .verify) → (x.mism.isSome = true ∨ par = true ∧ x.lastSig.isSome = true) → s.Runs l n →
      s.Comes (.blockVerify l par) (fun t => t.mem = s.mem ∧ s.LanesBut t l ∧ (t.lane l).st = .idle ∧ (t.lane l).box = [] ∧
        ((s.record n).mism < 3 → (t.record n).st = .ready ∧ (t.record n).f = f ∧ (t.record n).mism = (s.record n).mism + 1 ∧
          t.k.rfcount = s.k.rfcount) ∧
        (3 ≤ (s.record n).mism → t.k.rfcount = s.k.rfcount + 1 ∧ (n < s.k.nextTask → (t.record n).st = .ended) ∧
          ((s.k.flogHead - s.k.flogCons).toNat ≠ 4096 → tget? t.k.flog (s.k.flogHead.toNat % 4096) =
            some ⟨⟨tSIGFAIL, sigPc, 0, true⟩, n, f.actn % 2 ^ 24⟩))))

/-- The commit (R94, R95, R98, R100, R102, R104 to R106, R111, R215, R326, R336): draining sends each outbox entry with its
identity fields and touches no memory, saving writes the live registers of every kind, the special registers and the capability
live mask into the other save area, and no other byte, once its pages are served, and the core's scratchpad, full bits and rows
to the save region; the record takes its new fields and its next state, ABANDON_TIMEOUT leaves it as it was, FENCE_RELEASE and
WAKE let it go on, but a wake of another run of the record is dropped (R99). What comes after a read in program order waits for
what came before it (R61). An entry that acts as it drains, or that finds no room at its target, is held back by what drainHeld
names (R210, R227, R310). Which instructions count as reads is the model's reading (log entry 78), and so are that a save whose
page cannot be served is discarded with a report (log entry 37), the report's PC and VA (log entry 94), and that a pinned record
whose local queue is full is READY (log entry 68). -/
def Obligations.CommitsDrainSaveAndWrite : Prop :=
  ∀ (s : State) (n l va i : Nat) (e : Entry) (rest : List Entry) (tr : TrapInfo) (sc : Scope) (w : Wake),
    let u := s.focusLane l
    let x := s.lane l
    let r := s.record n
    let size := areaBytes r.f.alloc
    let other := u.areaVa r.f (r.f.actn + 1)
    (s.laneOn l = true → x.st = .drain → x.box = e :: rest → s.drainHeld l e = false → s.Comes (.commitDrain l) (fun t =>
      t.mem = s.mem ∧ s.Wires t ∧ s.LanesBut t l ∧ ((∀ g, e.eff ≠ .cancel g) → (t.lane l).box = rest) ∧
      (∀ g, e.eff = .cancel g → (t.lane l).box = if s.within g (s.record x.task).f.gid = true then [] else rest) ∧
      (goesHome e.eff = true → s.RecsBut t x.task ∧ (∀ y, tget? s.k.recs x.task = some y →
          let q := if x.reads.contains e.seq = true then s.k.nextFlit else y.mark
          tget? t.k.recs x.task = some { y with mark := if ordSc e.ord = true ∨ s.deviceEff e.eff = true then t.k.nextFlit else q } ∧
          ∀ f ∈ t.k.flits.drop s.k.flits.length, f.after = q) ∧ t.k.flits.take s.k.flits.length = s.k.flits ∧
        (t.k.flits.drop s.k.flits.length).map (fun f => f.e.eff) = flitsOf e.eff ∧
        ∀ f ∈ t.k.flits.drop s.k.flits.length, f.task = x.task ∧ f.actn = (s.record x.task).f.actn ∧ f.lcore = l / 8 ∧
          f.gid = (s.record x.task).f.gid ∧ f.e.pc = e.pc ∧ f.e.seq = e.seq ∧ f.e.ord = e.ord ∧ f.e.know = e.know ∧ f.done = false) ∧ ∀ f, t.k.flits = s.k.flits ++ [f] → t.hw = s.wired f)) ∧
    (s.laneOn l = true → x.st = .drain → x.box = [] → x.fin = none → s.Runs l n → other = some va →
      u.slotMeet va (saveSlots x) = .ok → s.Comes (.commitSave l) (fun t =>
        s.LanesBut t l ∧ t.lane l = { x with st := .save } ∧ t.k.recs = s.k.recs ∧ t.hw = s.hw ∧
        ((∀ k, r.f.alloc ≤ k → x.liveV.getLsbD k = false) → u.PlainRange va size →
          (∀ k : Fin 64, k ≠ 0 → x.liveS.getLsbD k = true → t.getWord (va + 8 * k.val) = x.s[k]) ∧
          (∀ k : Fin 32, x.liveV.getLsbD k = true →
            t.readV (va + 0x800 + 512 * k.val) 512 = toBytes x.v[k].toNat 512) ∧
          (∀ k : Fin 8, x.liveM.getLsbD k = true → t.readV (va + 0x400 + 128 * k.val) 128 = toBytes x.m[k].toNat 128) ∧
          (∀ k : Fin 16, x.liveC.getLsbD k = true →
            t.readV (va + 0x200 + 16 * k.val) 16 = toBytes (if k = 0 then 0 else x.c[k].toNat) 16 ∧
            (s.Granules va size → t.tagAt (va + 0x200 + 16 * k.val) = true)) ∧
          t.getWord (va + 0x300) = x.fpc ∧ t.getWord (va + 0x308) = x.flags ∧ t.getWord (va + 0x310) = x.nf ∧
          (∀ j : Fin 8, t.getWord (va + 0x318 + 8 * j.val) = x.fmt[j].setWidth 64) ∧
          t.getWord (va + 0x358) = (x.liveC ||| 0x8001).setWidth 64 ∧
          ∀ b, (∀ y ∈ saveSlots x, ∀ j < y.2, u.phys? (va + y.1 + j) ≠ some b) → t.mem.read b = s.mem.read b) ∧
        (t.core (l / 8)).saved.full = (s.core (l / 8)).full ∧ (t.core (l / 8)).saved.acc = (s.core (l / 8)).acc ∧
        ∀ off < 2 ^ 20, cellAt (t.core (l / 8)).saved.bytes off = cellAt t.mem.cells (scratchAddr s.kid (l / 8) off))) ∧
    (s.laneOn l = true → x.st = .drain → x.box = [] → x.fin = none → s.Runs l n → other = some va →
      (∀ m, u.slotMeet va (saveSlots x) = .missing m → u.failedFor x.pg m = false → s.Comes (.commitSave l) (fun t => t.mem = s.mem ∧
        t.k.recs = s.k.recs ∧ s.LanesBut t l ∧ ∃ i y, t.lane l = { x with pg := some i } ∧ t.k.faults[i]? = some y ∧
          y.isFor m = true ∧ y.done = false)) ∧
      ∀ code, (code = tKRES ∧ u.slotMeet va (saveSlots x) = .kernel) ∨
        (code = tPAGEFAULT ∧ ∃ m, u.slotMeet va (saveSlots x) = .missing m ∧ u.failedFor x.pg m = true) →
        s.Comes (.commitSave l) (fun t => t.mem = s.mem ∧ t.k.recs = s.k.recs ∧ s.LanesBut t l ∧ t.lane l = { x with st := .save } ∧
          t.k.rfcount = s.k.rfcount + 1 ∧ ((s.k.flogHead - s.k.flogCons).toNat ≠ 4096 →
            tget? t.k.flog (s.k.flogHead.toNat % 4096) =
              some ⟨⟨code, x.pc, BitVec.ofNat 64 va, true⟩, n, r.f.actn % 2 ^ 24⟩))) ∧
    (s.laneOn l = true → x.st = .save → x.fin = none → x.selfCancel = false → s.Runs l n → s.cancelledAt r.f.gid r.pkg = false → n < s.k.nextTask →
      s.Comes (.recordWrite l) (fun t => t.mem = s.mem ∧ s.LanesBut t l ∧ (t.lane l).st = .idle ∧ (t.lane l).box = [] ∧
        (t.record n).f.pc = (x.pc &&& 0x0FFFFFFFFFFFFFFF) ∧ (t.record n).f.actn = (r.f.actn + 1) % 2 ^ 24 ∧ (t.record n).f.slive = (x.liveS ||| 1) ∧
        (t.record n).f.vlive = x.liveV ∧ (t.record n).f.mlive = x.liveM ∧ (t.record n).f.gid = r.f.gid ∧
        (t.record n).f.deadline = r.newDl.getD r.f.deadline ∧ (t.record n).f.cbud = r.newBg.getD r.f.cbud ∧
        (t.record n).f.cls = r.newCls.getD r.f.cls ∧ (t.record n).confirm = false ∧ (t.record n).mism = 0 ∧
        (t.record n).know = x.know ∧ (x.reads.contains x.seqn = true → tget? s.k.recs n ≠ none → (t.record n).mark = s.k.nextFlit) ∧
        (x.susp = some .finish → (t.record n).st = .ended) ∧
        (∀ b, x.susp = some (.park (.watch b)) → (t.record n).st = .parked .watch) ∧
        (∀ b, x.susp = some (.fence b) → (t.record n).st = .fenced b) ∧
        ((x.susp = some .yield ∨ x.susp = none) → r.f.tpd = false → x.tpd = false →
          (t.record n).st = if r.f.pin = true ∧ (s.core (l / 8)).localq.length < 4 then .loc (l / 8) else .ready))) ∧
    (s.laneOn l = true → x.st = .drain → x.box = [] → x.fin = some tr → x.selfCancel = false → s.Runs l n → s.cancelledAt r.f.gid r.pkg = false →
      n < s.k.nextTask → thas s.k.groups r.f.gid = true → s.Comes (.recordWrite l) (fun t => t.mem = s.mem ∧ s.LanesBut t l ∧
        (t.lane l).st = .idle ∧ (t.record n).st = .ended ∧ (t.record n).f = r.f ∧
        (t.group r.f.gid).trapped = (s.group r.f.gid).trapped + 1)) ∧
    (s.laneOn l = true → (x.st = .run ∨ x.st = .finish ∨ x.st = .load) → (∃ q, x.preq = some q ∧ q + 2000 ≤ s.time) →
      s.Runs l n → s.Comes (.abandonTimeout l) (fun t => t.mem = s.mem ∧ s.LanesBut t l ∧ (t.lane l).st = .idle ∧
        (t.lane l).box = [] ∧ (t.record n).st = .ready ∧ (t.record n).f = r.f)) ∧
    (r.st = .fenced sc → s.undone n s.k.nextFlit (fun _ => true) = false → r.f.tpd = false →
      s.Comes (.fenceRelease n) (fun t => s.InCtx t ∧ s.RecsBut t n ∧ (t.record n).f = r.f ∧ (t.record n).mark = s.k.nextFlit ∧
        (∀ line, tget r.know line 0 ≤ tget (t.record n).know line 0) ∧
        (∀ o ∈ r.own, o.2.2.2 ≤ tget (t.record n).know o.2.2.1 0) ∧
        (∀ y ∈ s.k.fenceKnow, reaches y.1 (some y.2.1) sc r.core = true → ∀ line, tget y.2.2 line 0 ≤ tget (t.record n).know line 0) ∧
        (sc, r.core, (t.record n).know) ∈ t.k.fenceKnow ∧
        ((t.record n).st = .ready ∨ (r.f.pin = true ∧ (t.record n).st = .loc r.core)))) ∧
    (s.k.wakes[i]? = some w → w.task = n → r.run = w.run → (r.st = .parked .watch ∨ r.st = .parked .barrier ∨ r.st = .parked .twe) →
      (w.res = .none → r.f.tpd = false → s.Comes (.wake i) (fun t => s.InNet t ∧ s.RecsBut t n ∧ (t.record n).st = .ready ∧
        (∀ line, tget r.know line 0 ≤ tget (t.record n).know line 0 ∧ tget w.know line 0 ≤ tget (t.record n).know line 0) ∧ t.k.wakes = s.k.wakes.take i ++ s.k.wakes.drop (i + 1))) ∧
      (∀ q, w.res = .trap q → n < s.k.nextTask → s.Comes (.wake i) (fun t => t.mem = s.mem ∧ (t.record n).st = .ended)) ∧
      ∀ d v, w.res = .scalar d v → d ≠ 0 → d < 64 → r.f.tpd = false → s.areaVa r.f r.f.actn = some va →
        let at' := s.slotMeet va [(8 * d, 8)]
        (∀ m, at' = .missing m → s.failedFor w.pg m = false → s.Comes (.wake i) (fun t => t.mem = s.mem ∧ t.k.recs = s.k.recs ∧
          ∃ j y, t.k.wakes[i]? = some { w with pg := some j } ∧ t.k.faults[j]? = some y ∧ y.isFor m = true ∧ y.done = false)) ∧
        (at' = .kernel ∨ (∃ m, at' = .missing m ∧ s.failedFor w.pg m = true) → s.Comes (.wake i) (fun t => t.mem = s.mem ∧
          (t.record n).st = .ready ∧ t.k.rfcount = s.k.rfcount + 1)) ∧
        (at' = .ok → s.Comes (.wake i) (fun t => s.RecsBut t n ∧ (t.record n).st = .ready ∧ (t.record n).f.slive.getLsbD d = true ∧
          (t.record n).f.pc = r.f.pc ∧ (s.PlainRange (va + 8 * d) 8 → t.getWord (va + 8 * d) = v ∧
            ∀ b, (∀ j < 8, s.phys? (va + 8 * d + j) ≠ some b) → t.mem.read b = s.mem.read b)))) ∧
    (s.k.wakes[i]? = some w → w.task = n → r.run ≠ w.run ∨ r.st = .ended →
      s.Comes (.wake i) (fun t => s.Wires t ∧ t = { s with k := { s.k with wakes := s.k.wakes.take i ++ s.k.wakes.drop (i + 1) }, hw := t.hw }))

/-- Pre-emption, cancels and ends (R93, R108, R109, R120, R252, R308 to R313, R322): a pre-emption asks every running lane of
its core to commit and returns its unpinned records, CORE_RESUME ends it, URGENCY_PREEMPT takes the core whose most urgent class
is the least urgent; a cancel's mark ends what is queued in the package, its request ends what runs before its commit point, its
end and a completion write the group's line, the root group's end ends the launch, whose records and accumulator rows stay as
they are until the next start (R11); RECLAIM frees the subtree's objects and an ended record's id is free 100 us later. What
TRAPPC a cancelled record shows is the model's reading (log entry 17) and no part of this statement. -/
def Obligations.PreemptionsCancelsAndEnds : Prop :=
  ∀ (s : State) (c g n p : Nat) (r : Rec) (L : Launch),
    let gs := s.subtree g
    let x := s.group g
    let top (c : Nat) : Nat := (s.coreClasses c).foldl min 16
    let urgent (y : Rec) : Prop := y.st = .ready ∧ y.pkg = p ∧ y.f.cls ≤ s.k.precls.toNat % 16 ∧
      max y.since y.lack + 1000 ≤ s.time ∧ s.idleFor y = false
    (s.laneOn (c * 8) = true → (s.core c).asked = true → s.Comes (.preemptionMessage c) (fun t => t.mem = s.mem ∧
      (t.core c).pre = true ∧ (t.core c).asked = false ∧ (t.core c).urgAsked = false ∧
      (t.core c).urgent = ((s.core c).urgent || (s.core c).urgAsked) ∧ s.CoresBut t c ∧
      (∀ l ∈ s.coreLanes c, (s.lane l).st = .run → (t.lane l).st = .finish ∧ (t.lane l).preq.isSome = true ∧
        (t.lane l).box = (s.lane l).box) ∧ (∀ l, l ∉ s.coreLanes c → t.lane l = s.lane l) ∧
      (∀ m, m ∈ (t.core c).localq ↔ m ∈ (s.core c).localq ∧ (s.record m).f.pin = true) ∧
      ∀ m ∈ (s.core c).localq, (s.record m).f.pin = false → thas s.k.recs m = true → (t.record m).st = .ready)) ∧
    ((s.core c).pre = true → (∀ l ∈ s.coreLanes c, (s.lane l).st = .idle) → s.Comes (.coreResume c) (fun t =>
      t.mem = s.mem ∧ (t.core c).pre = false ∧ (t.core c).urgent = false ∧ (t.core c).urgAsked = (s.core c).urgAsked ∧
      ∀ l, t.lane l = s.lane l)) ∧
    (s.k.precls.toNat / 16 % 2 = 1 → (n, r) ∈ s.k.recs → urgent r → (∀ y ∈ s.k.recs, urgent y.2 → r.f.cls ≤ y.2.f.cls) →
      (∀ e ∈ s.k.cores, e.1 / 2048 = p → e.2.urgent = false ∧ e.2.urgAsked = false) →
      (∃ y ∈ s.runningCores p, r.f.cls < top y) → s.Comes (.urgencyPreempt p) (fun t => s.InCtx t ∧ t.k.recs = s.k.recs ∧
        ∃ y ∈ s.runningCores p, (t.core y).asked = true ∧ (t.core y).urgAsked = true ∧ s.CoresBut t y ∧
          ∀ z ∈ s.runningCores p, top z ≤ top y ∧ (top z = top y → y ≤ z))) ∧
    (s.liveGroup g = true → p < s.npkg → (x.cancelling = true ∧ p ∉ x.marks ∨ s.cancelDue? g ≠ none) → s.Comes (.cancelMark g p) (fun t =>
      t.mem = s.mem ∧ (t.group g).cancelling = true ∧ p ∈ (t.group g).marks ∧ t.k.flogHead = s.k.flogHead ∧
      (∀ z, s.cancelDue? g = some z → t.Done z.id) ∧
      (∀ f ∈ t.k.flits, f ∈ s.k.flits ∨ ∃ y ∈ s.k.flits, f = { y with done := true } ∧ ∃ z, s.cancelDue? g = some z ∧ y.id = z.id) ∧
      (∀ f ∈ s.k.flits, (∀ m, f.e.eff = .msg m → m.ovr = none) → (∀ z, s.cancelDue? g = some z → f.id ≠ z.id) → f ∈ t.k.flits) ∧
      (∀ l, t.lane l = s.lane l) ∧ ∀ m y, tget? s.k.recs m = some y → y.f.gid ∈ gs → y.pkg = p → y.st.queued = true → m < s.k.nextTask →
        (t.record m).st = .ended ∧ (∀ w ∈ t.k.watches, w.task ≠ m) ∧ (∀ w ∈ t.k.wakes, w.task ≠ m) ∧ (∀ w ∈ t.k.bwaits, w.task ≠ m) ∧
          (∀ w ∈ t.k.refused, w.2.task ≠ m) ∧
          ∀ f ∈ t.k.flits, ∀ z v, f.e.eff = .msg z → z.ovr ≠ some (m, v))) ∧
    (∀ z, s.cancelDue? g = some z → s.liveGroup g = false → s.Comes (.cancelMark g p) (fun t =>
      s.InCtx t ∧ t.k.recs = s.k.recs ∧ t.Done z.id)) ∧
    (x.cancelling = true → c / 2048 ∈ x.marks → s.laneOn (c * 8) = true → s.Comes (.cancelRequest g c) (fun t =>
      t.mem = s.mem ∧ ∀ l ∈ s.coreLanes c, ∀ m < s.k.nextTask, s.Runs l m → s.within g (s.record m).f.gid = true →
        ((s.lane l).st = .load ∨ (s.lane l).st = .run ∨ (s.lane l).st = .finish ∨ (s.lane l).st = .verify →
          (t.lane l).st = .idle ∧ (t.lane l).box = [] ∧ (t.record m).st = .ended) ∧
        ((s.lane l).st = .drain ∨ (s.lane l).st = .save → t.lane l = s.lane l))) ∧
    (s.liveGroup g = true → x.cancelling = true → (∀ q < s.npkg, q ∈ x.marks) →
      (∀ y ∈ s.k.recs, y.2.f.gid ∈ gs → y.2.st = .ended ∨ y.2.st = .reserved) → s.settledEffects g = true →
      (∀ e ∈ s.k.combs, ∀ h ∈ e.2.chans, h.2.owner ∈ gs → h.2.st ≠ .walking ∧ h.2.st ≠ .waiting) →
      s.Comes (.cancelFinish g) (fun t => s.InNet t ∧ (t.group g).status = 2 ∧
        ∃ f ∈ t.k.flits, f.e.eff = .join .fill .w64 x.compl (completionLine 2 0 0 0))) ∧
    (x.status = 2 → thas s.k.groups g = true → s.Comes (.reclaim g) (fun t => t.mem = s.mem ∧ t.k.recs = s.k.recs ∧
      ∀ o y, tget? s.k.objs o = some y → y.owner ∈ gs → (y.handed = false → y.kept = false → t.obj? o = none) ∧
        ∀ q, (y.handed = true ∨ y.kept = true) → y.ret = false → (s.k.objs.map (fun e => e.1)).Nodup →
          s.above (s.k.groups.length + 1) y.owner = some q →
          ∃ z, tget? t.k.objs o = some z ∧ z.owner = q ∧ z.handed = false ∧ z.kept = true ∧ z.ret = false)) ∧
    (s.liveGroup g = true → s.isClosed g = true → x.cancelling = false → (∀ y ∈ s.k.recs, y.2.f.gid = g → y.2.st = .ended) →
      (∀ e ∈ s.k.groups, e.2.parent = some g → e.2.status ≠ 0) → s.settledEffects g = true →
      s.Comes (.groupComplete g) (fun t => t.mem = s.mem ∧ (t.group g).status = 1 ∧ t.k.recs = s.k.recs ∧
        ∃ f, t.k.flits = s.k.flits ++ [f] ∧
          f.e.eff = .join .fill .w64 x.compl (completionLine 1 x.ended x.trapped x.nevers))) ∧
    (s.k.launch = some L → L.root = g → s.settledEffects g = true →
      (x.status = 1 → s.chansEnd = false → s.Comes (.groupComplete g) (fun t => t.mem = s.mem ∧ t.k.launch = none ∧ t.k.recs = s.k.recs ∧
        t.k.flits = [] ∧ (∀ y, (t.core y).acc = (s.core y).acc) ∧
        t.k.host.waiting = s.k.host.waiting ++ [cqEntry L.cmd 0 L.tt x.ended x.trapped x.nevers])) ∧
      (x.status = 2 → s.Comes (.cancelFinish g) (fun t => t.mem = s.mem ∧ t.k.launch = none ∧ t.k.recs = s.k.recs ∧
        t.k.flits = [] ∧ (∀ y, (t.core y).acc = (s.core y).acc) ∧
        t.k.host.waiting = s.k.host.waiting ++ [cqEntry L.cmd 1 L.tt 0 0 0]))) ∧
    (tget? s.k.recs n = some r → r.st = .ended → (∃ q, r.doneAt = some q ∧ q + 100000 ≤ s.time) →
      (∀ f ∈ s.k.flits, f.task = n → f.lost = true) → thas s.k.holds n = false →
      s.Comes (.taskIdFree n) (fun t => s.InCtx t ∧ s.RecsBut t n ∧ tget? t.k.recs n = none))

/-- Spawns, messages, timers, watches and barriers at their homes (R55, R99, R114 to R117, R218, R247, R256, R259, R300, R311,
R315): an accepted spawn is READY or TIMED in the bank of its core, a message starts a handler of its binding with s1 to s4 from
the message or waits in order, or is sent anew where the spill region is full, a timer releases its record at its tick, a watch
is answered, kept or, in a full table, refused for 256 cycles, one of an earlier run of its record is dropped, and the arrival
that brings a node to E completes the phase for every member. That a message which meets a full spill region is sent anew, its
times counted from then, is the model's form of R310, whose words are that the sender's commit waits (log entry 33); the Skep's
redelivery of what FNMODE.SR = 1 left to it is R310's own. That a handler's record takes the model's next task id (log entry
13), and that a bank's wheel catches up with every tick that TIME has passed when WHEEL_TICK comes (log entry 40), are the
model's choices. -/
def Obligations.SpawnsMessagesTimersAndBarriersArrive : Prop :=
  ∀ (s : State) (id n q p d j b en l : Nat) (f : Flit) (r0 : RecFields) (lc : Option Nat) (rel : Option Word) (m : Msg)
    (bd : Binding) (w : Watch) (x : Waiter) (sc : Scope) (h : HomeAt),
    let c := lc.getD f.lcore
    let pend := tget (s.core m.dst).pend m.cls []
    let spilled := (s.core m.dst).spill.any (fun y => y.2.cls == m.cls)
    let key := (scopeNum sc * 128 + b) * 2 ^ 32 + scopeInst sc l
    let node := (tget? s.k.nodes key).getD ⟨0, en, []⟩
    let know := Know.join node.know (s.knowOf f)
    let m' : Msg := { m with know := s.knowOf f }
    let live (y : Waiter) : Prop := y.w.run = (s.record y.task).run ∧ (s.record y.task).st ≠ .ended
    let registers (i : Instr) (y : Waiter) : Prop :=
      (y.w.run ≠ (s.record y.task).run ∨ (s.record y.task).st = .ended → s.Comes i (fun t => s.InCtx t ∧ t.k.watches = s.k.watches ∧ t.k.wakes = s.k.wakes)) ∧
      (∀ res nv, live y → s.watchRes y.w = some (res, nv) → s.Comes i (fun t => s.InNet t ∧
        t.k.watches = s.k.watches ∧ t.k.wakes = s.k.wakes ++
          [⟨y.task, y.w.run, s.watchKnow y.w (s.changes (y.w.va / 64)), res, nv, ((s.homeEnd y.w.va).getD ⟨0, 0, 0⟩).pkg, s.time, 0,
            none⟩])) ∧
      (live y → s.watchRes y.w = none → s.homeOf y.w.va = some h → (s.watchCount h < 16384 ∨ s.fnField 3 ≠ 0) → s.Comes i (fun t =>
        s.InCtx t ∧ t.k.watches = s.k.watches.filter (fun z => z.task != y.task) ++ [y] ∧ t.k.wakes = s.k.wakes)) ∧
      (live y → s.watchRes y.w = none → s.homeOf y.w.va = some h → 16384 ≤ s.watchCount h → s.fnField 3 = 0 → s.Comes i (fun t =>
        s.InCtx t ∧ t.k.watches = s.k.watches ∧ (s.cyc + 256, y) ∈ t.k.refused))
    (s.due? id = some f → f.e.eff = .spawn n r0 lc rel →
      (s.tagSeen f = true → s.Comes (.spawnAccept id) (fun t => s.InCtx t ∧ t.k.recs = s.k.recs ∧ t.Done id)) ∧
      (s.tagSeen f = false → (s.record n).st = .reserved → s.cancelledAt (s.record n).f.gid (c / 2048) = false →
        thas s.k.groups (s.record n).f.gid = true → s.Comes (.spawnAccept id) (fun t => s.InCtx t ∧ s.RecsBut t n ∧
          t.tagSeen f = true ∧ t.Done id ∧ (t.record n).know = s.knowOf f ∧ (t.record n).pkg = c / 2048 ∧ (t.record n).die = s.bankOf c ∧
          (t.record n).f.pc = (s.record n).f.pc ∧ (t.record n).f.cls = s.classFor (s.record n).f.gid (s.record n).f.cls ∧
          match rel with
            | some v => (t.record n).st = .timed v ∧ (t.record n).wheel = wheelPlace ((v.toNat + 99) / 100) (s.timeAt c / 100)
            | none => (t.record n).st = .ready))) ∧
    (s.due? id = some f → f.e.eff = .msg m →
      (f.task ≠ 0 → s.tagSeen f = true → s.Comes (.messageDeliver (.effect id)) (fun t => s.InCtx t ∧ t.k.recs = s.k.recs ∧
        t.k.cores = s.k.cores ∧ t.Done id)) ∧
      ((f.task = 0 ∨ s.tagSeen f = false) → s.combRuns (m.dst / 4) = true → s.spillFull m = true →
        s.Comes (.messageDeliver (.effect id)) (fun t => s.InCtx t ∧ t.k.recs = s.k.recs ∧ t.k.cores = s.k.cores ∧
          ∀ g ∈ t.k.flits, g.id = id → g.t0 = s.time ∧ g.resends = 0)) ∧
      ((f.task = 0 ∨ s.tagSeen f = false) → s.combRuns (m.dst / 4) = true → s.spillFull m = false →
        (tget? (s.core m.dst).binds m.cls = none → s.Comes (.messageDeliver (.effect id)) (fun t => s.InCtx t ∧ t.k.recs = s.k.recs ∧
          s.CoresBut t m.dst ∧ t.Done id ∧
          if (s.core m.dst).pre = false ∧ pend.length < 16 ∧ spilled = false then
            tget (t.core m.dst).pend m.cls [] = pend ++ [m'] ∧ (t.core m.dst).spill = (s.core m.dst).spill
          else tget (t.core m.dst).pend m.cls [] = pend ∧ (t.core m.dst).spill = (s.core m.dst).spill ++ [(s.fnField 4 != 0, m')])) ∧
        (tget? (s.core m.dst).binds m.cls = some bd → s.freeHandFrame bd = some j → (s.handsOf m.dst m.cls).length < 16 →
          (s.core m.dst).pre = false → pend = [] → spilled = false → s.Comes (.messageDeliver (.effect id)) (fun t => s.InCtx t ∧
            s.RecsBut t s.k.nextTask ∧ s.CoresBut t m.dst ∧ tget (t.core m.dst).pend m.cls [] = [] ∧ t.Done id ∧
            t.k.nextTask = s.k.nextTask + 1 ∧
            let y := t.record s.k.nextTask
            y.st = .ready ∧ y.f.pc = (bd.entry &&& 0x0FFFFFFFFFFFFFFF) ∧ y.f.hnd = true ∧ y.f.pin = true ∧ y.f.gid = bd.gid ∧ y.f.alloc = bd.alloc ∧
            y.f.pcore = m.dst % 2048 ∧ y.pkg = m.dst / 2048 ∧ y.die = s.bankOf m.dst ∧ y.f.slive = 0x3F ∧ y.know = s.knowOf f ∧
            y.first = some ([(1, lget m.body 0 0), (2, lget m.body 1 0), (3, lget m.body 2 0), (4, lget m.body 3 0),
              (5, BitVec.ofNat 64 (m.src + m.cls * 2 ^ 32))], [])))))∧
    (∀ bd, (s.core l).spill = (true, m) :: bd → m.dst = l → (s.core l).pre = false → (tget (s.core l).pend m.cls []).length < 16 →
      tget? (s.core l).binds m.cls = none → s.combRuns (l / 4) = true → s.Comes (.messageDeliver (.skep l m.cls)) (fun t =>
        s.InCtx t ∧ t.k.recs = s.k.recs ∧ s.CoresBut t l ∧ (t.core l).spill = bd ∧
        tget (t.core l).pend m.cls [] = tget (s.core l).pend m.cls [] ++ [m])) ∧
    s.Comes (.wheelTick p d) (fun t => s.InCtx t ∧ ∀ m y, tget? s.k.recs m = some y →
      let now := s.timeOn (lget s.pkgmap p 0) / 100
      (∀ v a, y.st = .timed v → y.pkg = p → y.die = d → y.wheel = wheelPlace ((v.toNat + 99) / 100) a → a ≤ now →
        let T := (v.toNat + 99) / 100
        (t.record m).f = y.f ∧
        (a ≤ T → if T ≤ now then (t.record m).st = .ready
          else (t.record m).st = y.st ∧ ∃ b ≤ now, (t.record m).wheel = wheelPlace T b) ∧
        (T < a → (t.record m).st = if a < now then .ready else y.st)) ∧
      ((∀ v, y.st = .timed v → y.pkg ≠ p ∨ y.die ≠ d) → tget? t.k.recs m = some y)) ∧
    (s.due? id = some f → f.e.eff = .watch w → registers (.watchRegister id) ⟨f.task, w⟩) ∧
    (s.k.refused[n]? = some (q, x) → q ≤ s.cyc → registers (.watchRetry n) x) ∧
    (s.due? id = some f → f.e.eff = .barr l b sc en → s.tagSeen f = true → s.Comes (.barrierArrival id) (fun t => s.InCtx t ∧
      t.k.nodes = s.k.nodes ∧ t.k.cores = s.k.cores ∧ t.Done id)) ∧
    (s.due? id = some f → f.e.eff = .barr l b sc en → s.tagSeen f = false → s.Comes (.barrierArrival id) (fun t => s.InNet t ∧ t.Done id ∧
      (if node.count + 1 = node.e then tget? t.k.nodes key = none else tget? t.k.nodes key = some ⟨node.count + 1, node.e, know⟩) ∧
      ∀ m y z, tget? s.k.cores m = some y → (s.k.cores.map (fun e => e.1)).count m = 1 → tget? y.bars b = some z → z.sc = sc →
        sameScope sc m l = true → (tget? (t.core m).bars b).map (fun v => (v.p, v.know)) =
          some (if node.count + 1 = node.e then (z.p + 1, tset z.know z.p.toNat know) else (z.p, z.know))))

/-- Effects at their homes (R41 to R44, R49, R58, R99, R205, R206, R215, R221, R326, R328): a join combines an element with what
stands there and changes no other byte, a count is taken once for its tag, fill and lap follow their states, a join that would
change a capped block, and one that meets a fill line at top, is a report with its code instead, a store and a cap reach exactly
their bytes and blocks, a window store whose tag has not been accepted before
sets the full bit of each word it writes, in one step or in several, some words in each, which is the model's form of R206 (log
entry 77), and a block of a cap waits for the one before it; a store to a device register changes the package that has it, in the
model's own way but for the power cap (R351, R355; log entry 9). The combinations of the types commute, and all but count and
arr can be repeated. -/
def Obligations.EffectsActAtTheirHomes : Prop :=
  ∀ (s : State) (id n va a len key t0 l : Nat) (f : Flit) (ty : LTy) (scp : Scope) (w : Wd) (d : List Byte) (byOwner rest : Bool)
    (ws : List (Nat × List Byte)),
    let got := ofBytes (s.mem.readN a (wdBytes w))
    let new := joinElem ty (wdBits w) got (ofBytes d)
    let capped := s.mem.capped.contains (a / 4096)
    let same (t : State) (lo n : Nat) : Prop := ∀ b, (b < lo ∨ lo + n ≤ b) → t.mem.read b = s.mem.read b
    let seen := ty = .count ∧ s.pairSeen (countKey f va) = true
    let reports (t : State) (code : Nat) : Prop := t.k.rfcount = s.k.rfcount + 1 ∧
      ((s.k.flogHead - s.k.flogCons).toNat ≠ 4096 → tget? t.k.flog (s.k.flogHead.toNat % 4096) =
        some ⟨⟨code, f.e.pc, BitVec.ofNat 64 va, true⟩, f.task, f.actn % 2 ^ 24⟩)
    let quiet (t : State) : Prop := t.k.rfcount = s.k.rfcount
    let old := s.mem.readN a 64
    (∀ x y z, x < 2 ^ wdBits w → y < 2 ^ wdBits w → z < 2 ^ wdBits w → elementwise ty = true → ty ≠ .arr →
      ((ty = .maxf ∨ ty = .minf) → w = .w32) →
      let op := joinElem ty (wdBits w)
      op x y = op y x ∧ op (op x y) z = op x (op y z) ∧ (ty ≠ .count → op x x = x)) ∧
    (s.arriving? id = some f → f.merged = false → s.meet va (min d.length 4096) = .apply → s.phys? va = some a → f.e.eff = .join ty w va d →
      (elementwise ty = true → d.length = wdBytes w → s.Comes (.joinApply id) (fun t => s.InNet { t with mem := s.mem } ∧
        t.Done id ∧ same t a (wdBytes w) ∧
        (¬ seen → capped = false → ofBytes (t.mem.readN a (wdBytes w)) = new % 2 ^ wdBits w) ∧
        (seen ∨ capped = true → t.mem = s.mem) ∧
        (¬ seen → capped = true → new ≠ got → reports t tCAPVIOL) ∧ (seen ∨ capped = false ∨ new = got → quiet t))) ∧
      (ty = .fill → d.length = 64 → capped = false → s.Comes (.joinApply id) (fun t => t.Done id ∧ same t a 64 ∧
        (s.mem.lineAt a = .empty → t.mem.readN a 64 = d ∧ t.mem.lineAt a = .full ∧ quiet t) ∧
        (s.mem.lineAt a = .full → old = d → t.mem = s.mem ∧ quiet t) ∧
        (s.mem.lineAt a = .full → old ≠ d → t.mem.lineAt a = .top ∧ t.mem.readN a 64 = old ∧ reports t tFILLCONF) ∧
        (s.mem.lineAt a = .top → t.mem = s.mem ∧ reports t tFILLCONF))) ∧
      (ty = .fill → d.length = 64 → capped = true → s.Comes (.joinApply id) (fun t => t.Done id ∧ t.mem = s.mem ∧
        (s.mem.lineAt a = .empty → reports t tCAPVIOL) ∧ (s.mem.lineAt a = .full → old = d → quiet t) ∧
        (s.mem.lineAt a = .full → old ≠ d → reports t tCAPVIOL) ∧ (s.mem.lineAt a = .top → reports t tFILLCONF))) ∧
      (ty = .lap → d.length = 64 → capped = true → s.Comes (.joinApply id) (fun t => t.Done id ∧ t.mem = s.mem ∧
        (ofBytes (old.take 8) < ofBytes (d.take 8) → reports t tCAPVIOL) ∧
        (ofBytes (d.take 8) < ofBytes (old.take 8) → quiet t) ∧
        (ofBytes (d.take 8) = ofBytes (old.take 8) → if old = d then quiet t else reports t tFILLCONF))) ∧
      (ty = .lap → d.length = 64 → capped = false → s.Comes (.joinApply id) (fun t => t.Done id ∧ same t a 64 ∧
        (ofBytes (old.take 8) < ofBytes (d.take 8) → t.mem.readN a 64 = d ∧ quiet t) ∧
        (ofBytes (d.take 8) ≤ ofBytes (old.take 8) → t.mem = s.mem) ∧
        (ofBytes (d.take 8) = ofBytes (old.take 8) → old ≠ d → reports t tFILLCONF)))) ∧
    (s.arriving? id = some f → f.e.eff = .store va d byOwner → s.meet va (min d.length 4096) = .apply → s.mmioAt va = none →
      s.PlainRange va d.length → s.Comes (.exclStoreApply id) (fun t => s.InCtx { t with mem := s.mem } ∧ t.Done id ∧
        t.readV va d.length = d ∧ ∀ b, (∀ j < d.length, s.phys? (va + j) ≠ some b) → t.mem.read b = s.mem.read b)) ∧
    (s.arriving? id = some f → f.e.eff = .store va d byOwner → s.meet va (min d.length 4096) = .apply → s.mmioAt va = some key →
      s.Comes (.exclStoreApply id) (fun t => t.mem = s.mem ∧ t.Done id ∧
        let p := lget s.pkgmap 0 0
        thas s.hw p = true → s.InPkg { t with k := s.k } p ∧ t.pkg p = (s.pkg p).mmioStore key d s.time ∧
          (key = 2 * 2 ^ 16 + Config.powerCap.toNat → let v := ofBytes d % 4096
            (t.pkg p).pwrcap = BitVec.ofNat 64 (if 1 ≤ v ∧ v < 800 then 800 else v)))) ∧
    (s.arriving? id = some f → f.e.eff = .cap ty scp va len → 0 < len → s.capLogged id = false → s.meet va (min len 4096) = .apply → s.phys? va = some a →
      s.Comes (.capApply id) (fun t => (∀ b, t.mem.read b = s.mem.read b) ∧ (∀ b, b ∈ t.mem.capped ↔ b ∈ s.mem.capped ∨ b = a / 4096) ∧
        (len ≤ 4096 → t.Done id) ∧ (4096 < len → ∀ g ∈ t.k.flits, g.id = id → g.e.eff = .cap ty scp (va + 4096) (len - 4096)))) ∧
    (s.arriving? id = some f → f.e.eff = .cap ty scp va len → s.capLogged id = true → exec (.capApply id) s = .next s) ∧
    (s.arriving? id = some f → f.e.eff = .words l ws rest → s.combRuns (l / 4) = true →
      (rest = false → s.tagSeen f = true → s.Comes (.windowStoreApply id) (fun t => s.InCtx t ∧ t.k.cores = s.k.cores ∧ t.Done id)) ∧
      ((rest = true ∨ s.tagSeen f = false) → WordsOk ws → s.Comes (.windowStoreApply id) (fun t =>
        s.Landed t id l ws true (fun u => .words l u true)))) ∧
    (s.k.seen[n]? = some (key, t0) → t0 + 40000 ≤ s.time → s.heldAct (key / 2 ^ 70) = false →
      s.Comes (.tagExpiry n) (fun t => s.InCtx t ∧ tget? t.k.seen key = none ∧
        ∀ q, q ≠ key → tget? t.k.seen q = tget? s.k.seen q)) ∧
    (s.k.accepted[n]? = some (key, t0) → t0 + 40000 < s.time → s.heldAct (key / 2 ^ 20) = false →
      s.Comes (.tagExpiry (s.k.seen.length + n)) (fun t => s.InCtx t ∧ t.tagKnown key = false ∧
        ∀ q, q ≠ key → tget? t.k.accepted q = tget? s.k.accepted q)) ∧
    (s.k.bound[n]? = some (key, l, t0) → t0 + 40000 < s.time → s.heldAct (key / 2 ^ 20) = false →
      s.Comes (.tagExpiry (s.k.seen.length + s.k.accepted.length + n)) (fun t => s.InCtx t ∧ t.boundId key = none ∧
        ∀ q, q ≠ key → tget? t.k.bound q = tget? s.k.bound q))

/-- Reads and pages (R210 to R212, R214, R220, R289, R292 to R295, R327, R345): the home answers a read once the task's own
effects on its bytes are applied and no accuser holds the request (R332), with UNCORR on a poisoned line (R327), and for an
exact read NOTCAPPED or FILLCONF (R50, R220); a plain read finds the bytes of the activation's own latest uncommitted stores
over those of memory, and the tag that they leave (R47, R214, R215); a read of a kernel frame ends the record with KRES; the
response writes the register, 20 us without one abandon the activation, a page that is not mapped parks the record; a fault is
served, by the walker or the Skep, or found unserviceable, and then its logged effects are replayed in order and its records go
on, or end with PAGEFAULT. A read that acquires comes after what the releases come after that its value contains (R61). Which
frame is taken (log entry 21), and that NOTCAPPED comes before FILLCONF (log entry 72), are the model's choices, and so is where
the registers of R351 stand in the blocks that R296 gives a launch, those of its first package, with the power cap of R355 in
block 2 (log entry 9). Effects logged for an object that is gone are discarded (R291). -/
def Obligations.ReadsAndPagesAreServed : Prop :=
  ∀ (s : State) (l n va a fr mt : Nat) (q : ReadReq) (b : List Byte) (tag : Bool) (know : Know) (m : Missed) (x : Fault292) (y : Logged)
    (o : Obj) (tr : TrapInfo),
    let ln := s.lane l
    let ready := s.laneOn l = true ∧ ln.rd = some q ∧ q.ans = none ∧ s.readHeld ln.task q.va q.len = false ∧
      s.muted (l / 32) (2 * (l + 2 ^ 32 * q.t0) + 1) = false ∧
      (objAt s.k.objs q.va).isSome = true
    let mapped := s.firstUnmapped q.va q.len = none
    let served (i : Instr) (failed : Bool) : Prop := s.Comes i (fun t => t.k.recs = s.k.recs ∧ (∀ l, t.lane l = s.lane l) ∧
      t.k.faults[n]? = some { x with done := true, failed := failed } ∧ tget t.k.fltcnt x.page.pkg 0 = tget s.k.fltcnt x.page.pkg 0 + 1 ∧
      (failed = true → t.mem = s.mem))
    (ready → mapped → s.kernelAt q.va q.len = false → s.Comes (.readRequest l) (fun t => t.mem = s.mem ∧ t.k.recs = s.k.recs ∧
      s.LanesBut t l ∧ ∃ z, t.lane l = { ln with rd := some { q with ans := some z } } ∧
        (s.poisonedAt q.va q.len = true → z = .trap ⟨tUNCORR, q.pc, BitVec.ofNat 64 q.va, true⟩) ∧
        (s.poisonedAt q.va q.len = false → s.mmioAt q.va = none → q.kind.exact = false →
          ∃ b k, s.Forwards ln.box q.va q.len b ∧ z = .data b (overTag q.va (s.tagAt q.va) ln.box) k ∧
            ∀ sc y, q.acq = some sc → s.device q.va = false → y ∈ s.k.rels → y.cap = false → y.ver ≤ s.changes (q.va / 64) →
              reaches y.sc y.lcore sc (l / 8) = true →
              (∃ i < q.len, y.va ≤ q.va + i ∧ q.va + i < y.va + y.len ∧ MissesByte ln.box (q.va + i)) →
              ∀ line, tget y.know line 0 ≤ tget k line 0) ∧
        (∀ fr, s.poisonedAt q.va q.len = false → s.mmioAt q.va = some fr → ∃ b, (∃ k, z = .data b false k) ∧
          ((∀ i < q.len, MissesByte ln.box (q.va + i)) → let p := s.pkg (lget s.pkgmap 0 0)
            (fr = Config.ptpDomain.toNat → b = toBytes p.domain.toNat q.len) ∧
            (∀ v, fr / 2 ^ 16 = 1 → p.enablesAt (fr % 2 ^ 16) = some v → b = toBytes v q.len) ∧
            (fr = 2 * 2 ^ 16 + Config.powerCap.toNat → b = toBytes p.pwrcap.toNat q.len))) ∧
        (s.poisonedAt q.va q.len = false → s.mmioAt q.va = none → q.kind.exact = true →
          z = if s.rangeCapped q.va q.len = false then .trap ⟨tNOTCAPPED, q.pc, BitVec.ofNat 64 q.va, false⟩
            else if s.anyTop q.va q.len = true then .trap ⟨tFILLCONF, q.pc, BitVec.ofNat 64 q.va, true⟩
            else .data (s.readV q.va q.len) false (s.readKnow q ln.box (l / 8))))) ∧
    (ready → s.Runs l n → n < s.k.nextTask → mapped → s.kernelAt q.va q.len = true → s.Comes (.readRequest l) (fun t =>
      t.mem = s.mem ∧ s.LanesBut t l ∧ (t.lane l).st = .idle ∧ (t.record n).st = .ended ∧ t.k.rfcount = s.k.rfcount ∧
        ((s.k.flogHead - s.k.flogCons).toNat ≠ 4096 → tget? t.k.flog (s.k.flogHead.toNat % 4096) =
          some ⟨⟨tKRES, q.pc, BitVec.ofNat 64 q.va, false⟩, n, (s.record n).f.actn % 2 ^ 24⟩))) ∧
    (ready → s.Runs l n → s.firstUnmapped q.va q.len = some a → s.unmapped? a = some m →
      s.Comes (.readRequest l) (fun t => t.mem = s.mem ∧ s.LanesBut t l ∧ (t.lane l).st = .idle ∧ (t.lane l).box = [] ∧
        (t.record n).f = (s.record n).f ∧ ∃ i z, (t.record n).st = .parked (.page i q.pc (BitVec.ofNat 64 q.va)) ∧
          t.k.faults[i]? = some z ∧ z.isFor m = true ∧ z.done = false)) ∧
    (s.laneOn l = true → ln.rd = some q → q.ans = some (.data b tag know) → s.Comes (.readResponse l) (fun t => t.mem = s.mem ∧
      s.LanesBut t l ∧ t.cur = l ∧ t.ln.rd = none ∧ t.ln.pc = ln.pc ∧ t.k.recs = s.k.recs ∧
      (∀ line, tget know line 0 ≤ tget t.ln.know line 0 ∧ tget ln.know line 0 ≤ tget t.ln.know line 0) ∧
      (∀ w, q.kind = .ldx w → q.d < 64 → q.d ≠ 0 → t.rN q.d = BitVec.ofNat 64 (ofBytes b)) ∧
      (q.kind = .vldx → q.d < 32 → t.rVn q.d = BitVec.ofNat 4096 (ofBytes b)) ∧
      (∀ ty w, q.kind = .xrd ty w → q.d < 64 → q.d ≠ 0 → t.rN q.d = if ty = .maxi ∨ ty = .mini then
        BitVec.ofInt 64 (sgn (8 * b.length) (ofBytes b)) else BitVec.ofNat 64 (ofBytes b)) ∧
      (∀ ty one, q.kind = .vxrd ty one → q.d < 32 → t.rVn q.d = BitVec.ofNat 4096 (ofBytes b)) ∧
      (q.kind = .ldc → q.d < 16 → q.d ≠ 0 → t.rC (Fin.ofNat 16 q.d) = if tag = true then BitVec.ofNat 128 (ofBytes b) else 0))) ∧
    (s.laneOn l = true → ln.rd = some q → q.ans = some (.trap tr) → s.Comes (.readResponse l) (fun t =>
      t = (s.focusLane l).takeTrap tr)) ∧
    (s.laneOn l = true → ln.rd = some q → q.t0 + 20000 ≤ s.time → s.Runs l n → s.Comes (.readTimeout l) (fun t =>
      t.mem = s.mem ∧ s.LanesBut t l ∧ (t.lane l).st = .idle ∧ (t.record n).st = .ready ∧ (t.record n).f = (s.record n).f)) ∧
    (s.k.faults[n]? = some x → x.done = false → tget? s.k.objs x.page.oid = some o →
      let page := s.mapPageAt x.page.oid x.page.pkg x.page.die x.page.pg
      (x.skep = false → x.page.cause ≠ .missing → served (.pageFaultService n) true) ∧
      (x.skep = false → x.page.cause = .missing → (page 0 none).isSome = true → served (.pageFaultService n) false) ∧
      (x.skep = false → x.page.cause = .missing → page 0 none = none → served (.pageFaultService n) true) ∧
      (x.skep = true → s.time < x.t0 + 100000000 → served (.skepFaultResume n .decline) true) ∧
      (x.skep = true → s.time < x.t0 + 100000000 → x.page.cause = .table → s.Comes (.skepFaultResume n .kill) (fun t => t = s.killCtx)) ∧
      (x.skep = true → s.time < x.t0 + 100000000 → mt < 4 → (o.ty = .excl ∨ (o.ty = .mmio ∧ 2 ≤ mt) ∨ (o.ty ≠ .mmio ∧ mt = 0)) →
        (s.leafOf x.page = none → (page mt (some fr)).isSome = true → served (.skepFaultResume n (.resume fr mt)) false) ∧
        (∀ leaf, s.leafOf x.page = some (a, leaf) → leaf / 65536 % 2 ^ 24 = fr →
          served (.skepFaultResume n (.resume fr mt)) false ∧ s.Comes (.skepFaultResume n (.resume fr mt)) (fun t =>
            t.mem = s.mem.writeL (physAddr x.page.pkg a) (toBytes (fr * 65536 + ltyNum o.ty * 16 + mt * 4 +
              (if s.kAt x.page.pkg (fr * 65536) = true then 2 else 0) + 1) 8)))) ∧
      (x.skep = true → x.t0 + 100000000 ≤ s.time → served (.faultServiceTimeout n) true)) ∧
    (s.k.faults[n]? = some x → x.done = false → tget? s.k.objs x.page.oid = none →
      (x.skep = false → served (.pageFaultService n) false) ∧
      (x.skep = true → s.time < x.t0 + 100000000 → served (.skepFaultResume n .decline) false)) ∧
    (s.k.faults[n]? = some x → x.done = true →
      (s.k.sideLog.find? (fun z => z.n == n) = some y →
        (s.retired (effVa y.f.e.eff) = true → s.Comes (.sideLogReplay n) (fun t => t.mem = s.mem ∧ t.k.rfcount = s.k.rfcount ∧
          t.k.sideLog.length + 1 = s.k.sideLog.length)) ∧
        (x.failed = true → s.retired (effVa y.f.e.eff) = false → s.translate (effVa y.f.e.eff) ≠ .absent → s.Comes (.sideLogReplay n) (fun t =>
          t.mem = s.mem ∧ t.k.rfcount = s.k.rfcount + 1 ∧
          t.k.sideLog.length + 1 = s.k.sideLog.length)) ∧
        (x.failed = false → s.retired (effVa y.f.e.eff) = false → s.translate (effVa y.f.e.eff) = .at va false mt →
          (∀ j < (effLen y.f.e.eff + 63) / 64, va / 64 + j ∉ s.mem.poison) →
          s.Comes (.sideLogReplay n) (fun t => t.k.sideLog.length + 1 = s.k.sideLog.length ∧
            t.mem = (s.applyEff y.f).mem ∧ (isJoin y.f.e.eff = false → t.k.recs = s.k.recs)))) ∧
      (s.k.sideLog.find? (fun z => z.n == n) = none → s.Comes (.sideLogReplay n) (fun t => t.mem = s.mem ∧
        ∀ j r pc v, tget? s.k.recs j = some r → r.st = .parked (.page n pc v) → j < s.k.nextTask →
          (t.record j).st = if x.failed = true then .ended else .ready)))

/-- Links (R46, R340 to R345): an acknowledged effect leaves its requester, an unacknowledged one is sent again after 2, 6 and
14 us and given up after 20 with a LINKLOST report, but not a message that waits for the spill region; other effects, wakes,
read requests and a fence's notice are sent again every 8 us while a path exists; a merged flit that would raise a report is
split; an effect for another package leaves by a port, which keeps its flit with the fields of Tables 19-1 and 19-2 until it is
acknowledged; a link takes only a good flit's sequence after its last one, asks for a bad one again, and replays what is not
acknowledged after an error or 1 us; a port's rate follows its working lanes, and a package that no port has reached for 100 us
ends the launch that spans it, while one that a port reaches does not. That a message is never lost while the spill region is
full is the model's reading of R310 beside R344 (log entry 33), and that a cap is not while a block of it waits in a side log
its reading of R221 (log entry 49). Which effects are acknowledged, that given up effects may still arrive (log entries 36, 49),
how ports pair and what a LACK empties (log entry 48), and that the context of such a package is killed by an event of its own
(log entry 50) are the model's readings and choices. -/
def Obligations.LinksAcknowledgeResendAndReplay : Prop :=
  ∀ (s : State) (id x y pkg port va : Nat) (f g : Flit) (head : BitVec 128) (rest : BitVec 896) (mg : Option (Nat × Nat)) (w : Wd)
    (failed up : BitVec 8) (peer : BitVec 18) (d d' : List Byte) (L : Launch) (z : Wake) (k : ReadReq) (e : End) (site : Site),
    let p := s.port pkg port
    let st (v : BitVec 8) : Nat :=
      let n := (List.range 8).countP (fun j => v.getLsbD j)
      if n = 8 then 3 else if 4 ≤ n then 2 else 0
    let flit : BitVec 1024 := rest ++ head
    let q : BitVec 32 := flit.extractLsb' 64 32
    let lattice (v : BitVec 1024) : Prop := v.extractLsb' 188 4 = 0 ∧ v.extractLsb' 892 4 = 0 ∧ v.extractLsb' 952 8 = 0 ∧
      (v.extractLsb' 204 3).toNat ≤ 4 ∧ (8 ≤ (v.extractLsb' 192 4).toNat → (v.extractLsb' 192 4).toNat ≤ 10 → v.extractLsb' 768 64 = 0)
    let good := (flit.extractLsb' 0 4).toNat ≤ 8 ∧ flit.extractLsb' 7 1 = 0 ∧ flit.extractLsb' 10 6 = 0 ∧
      (flit.extractLsb' 0 4 = 1 → lattice flit) ∧
      (flit.extractLsb' 960 64).toNat = crc64 (toBytes flit.toNat 120)
    let next := good ∧ q = p.lack + 1
    let lone (h : Flit) : Prop := h.merged = false ∧ h.pending = true ∧ s.held h = false ∧ s.partOf h.id = false
    let wait := if f.resends = 0 then 2000 else if f.resends = 1 then 6000 else 14000
    let u : FaultUnit := .serdes pkg (port / 4) (port % 4 * 8)
    let counter (t : State) : Nat := (tget (t.pkg pkg).counters (unitNo u) ⟨0, false, 0⟩).val
    (s.flit? id = some f →
      (f.done = true → s.partOf id = false → s.Comes (.joinAck id) (fun t => s.InNet t ∧
        (∀ m, t.record m = s.record m ∨ (s.record m).st = .ended ∧ t.record m = { s.record m with doneAt := some s.time }) ∧ ∀ h ∈ t.k.flits, h.id ≠ id ∧ h ∈ s.k.flits)) ∧
      (acked f.e.eff = true → f.lost = false → f.resends < 3 → s.partOf id = false → f.t0 + wait ≤ s.time →
        s.Comes (.joinResend id) (fun t => s.InNet t ∧ t.hw = s.wired f ∧ t.k.flits.length = s.k.flits.length ∧
          ∀ h ∈ t.k.flits, h.id = id → ∃ k ∈ s.k.flits, h = { k with resends := k.resends + 1 })) ∧
      (acked f.e.eff = true → f.lost = false → f.done = false → f.merged = false → s.partOf id = false → f.t0 + 20000 ≤ s.time →
        (∀ m, f.e.eff = .msg m → s.spillFull m = false) → (∀ ty sc a n, f.e.eff = .cap ty sc a n → s.capLogged id = false) →
        s.Comes (.linklost id) (fun t => t.mem = s.mem ∧ t.k.rfcount = s.k.rfcount + 1 ∧
          (∀ h ∈ t.k.flits, h.id = id → h.lost = true) ∧ ∀ n r lc rel, f.e.eff = .spawn n r lc rel →
            (s.record n).st = .reserved → (t.record n).st = .ended)) ∧
      (∀ m, f.e.eff = .msg m → s.spillFull m = true → exec (.linklost id) s = .next s) ∧
      (∀ ty sc a n, f.e.eff = .cap ty sc a n → s.capLogged id = true → exec (.linklost id) s = .next s) ∧
      (acked f.e.eff = false → f.leaves = true → f.pending = true → f.t0 + 8000 * (f.resends + 1) ≤ s.time →
        s.path (s.pkgOf f.lcore) (((s.target f).map (fun y => y.pkg)).getD (s.pkgOf f.lcore)) = true →
        s.Comes (.controlResend (.flit id)) (fun t => s.InNet t ∧ t.hw = s.wired f ∧ t.k.flits.length = s.k.flits.length ∧
          ∀ h ∈ t.k.flits, h.id = id → ∃ k ∈ s.k.flits, h = { k with resends := k.resends + 1 }))) ∧
    (s.k.wakes[x]? = some z → z.t0 + 8000 * (z.resends + 1) ≤ s.time → s.path z.src (lget s.pkgmap (s.record z.task).pkg 0) = true →
      s.Comes (.controlResend (.wake x)) (fun t => s.InNet t ∧ t.k.wakes[x]? = some { z with resends := z.resends + 1 } ∧
        ∀ y, y ≠ x → t.k.wakes[y]? = s.k.wakes[y]?)) ∧
    (s.laneOn x = true → (s.lane x).rd = some k → k.ans = none → k.t0 + 8000 * (k.resends + 1) ≤ s.time →
      s.path (s.pkgOf (x / 8)) (((s.homeEnd k.va).map (fun y => y.pkg)).getD (s.pkgOf (x / 8))) = true →
      s.Comes (.controlResend (.read x)) (fun t => s.InLanesNet t ∧ s.LanesBut t x ∧
        t.lane x = { s.lane x with rd := some { k with resends := k.resends + 1 } })) ∧
    (let b := site.die * 64 + site.comb
      let w := (s.pkg site.pkg).wagOf b
      thas s.hw site.pkg = true → w.telling = true → w.since + 8000 * (w.resends + 1) ≤ s.time →
        s.Comes (.controlResend (.control site)) (fun t => t = { s with hw := t.hw } ∧ ∀ q, t.pkg q = { s.pkg q with
          ports := (t.pkg q).ports
          wag := if q = site.pkg then tset (s.pkg q).wag b { w with resends := w.resends + 1 } else (s.pkg q).wag })) ∧
    (s.target f = some e → e.pkg ≠ (s.combEnd f.lcore).pkg → (s.pkg (s.combEnd f.lcore).pkg).portTowards e.pkg = some port →
      let a := s.combEnd f.lcore
      let o := s.port a.pkg port
      let n := tget (tget (s.wired f) a.pkg Pkg.init).ports port Port.init
      n = { o with lseq := o.lseq + 1, replay := n.replay } ∧ ∃ v : BitVec 1024, n.replay = o.replay ++ [(v, s.time)] ∧
        (v.extractLsb' 0 4).toNat = f.e.eff.kind ∧ (v.extractLsb' 4 3).toNat = s.k.num % 8 ∧ (v.extractLsb' 16 18).toNat = e.pkg % 2 ^ 18 ∧
        (v.extractLsb' 34 3).toNat = e.die % 8 ∧ (v.extractLsb' 37 6).toNat = e.unit % 64 ∧ (v.extractLsb' 43 18).toNat = a.pkg % 2 ^ 18 ∧
        (v.extractLsb' 61 3).toNat = a.die % 8 ∧ v.extractLsb' 64 32 = o.lseq + 1 ∧ v.extractLsb' 96 32 = o.lack ∧
        (∀ y t, f.e.eff = .join t w va y → (v.extractLsb' 128 60).toNat = va % 2 ^ 60 ∧ (v.extractLsb' 192 4).toNat = ltyNum t % 16 ∧
          (v.extractLsb' 832 60).toNat = f.e.pc.toNat % 2 ^ 60 ∧ (v.extractLsb' 896 32).toNat = f.task % 2 ^ 32 ∧
          (v.extractLsb' 928 24).toNat = f.actn % 2 ^ 24)) ∧
    (s.arriving? id = some f → f.merged = true → s.anyReports (s.constituents f) = true → s.Comes (.splitResponse id) (fun t =>
      s.InNet t ∧ t.k.recs = s.k.recs ∧ ∀ h ∈ t.k.flits, h.id ≠ id ∧ (h.id ∈ f.parts → h.t0 = s.time ∧ h.resends = 0))) ∧
    (thas s.hw pkg = true → p.live = true →
      s.Comes (.flitReceive pkg port head rest mg) (fun t => t.mem = s.mem ∧ t.k.recs = s.k.recs ∧ (t.port pkg port).st = p.st ∧
        (next → (t.port pkg port).lack = q) ∧
        (good → ∀ r ∈ (t.port pkg port).replay, r ∈ p.replay ∧ seqAfter (flitSeq r.1) (flit.extractLsb' 96 32) = true ∨
          mg ≠ none ∧ r.2 = s.time) ∧
        (∀ z, s.farEnd pkg port = some z → z ≠ (pkg, port) →
          (good → mg = none → t.port z.1 z.2 = s.port z.1 z.2) ∧ (¬ good → t.port z.1 z.2 = { s.port z.1 z.2 with nak := true })) ∧
        (¬ next → (t.port pkg port).lack = p.lack ∧ t.k = s.k) ∧ (mg = none → t.k = s.k) ∧
        (next → mg = some (x, y) → x ≠ y → s.flit? x = some f → s.flit? y = some g → lone f → lone g →
          f.e.eff = .join .maxn w va d → g.e.eff = .join .maxn w va d' → d.length = d'.length → f.e.ord = .relaxed →
          g.e.ord = .relaxed → ∃ h ∈ t.k.flits, h.id = s.k.nextFlit ∧ h.parts = [x, y] ∧ h.merged = true ∧ h.done = false)) ∧
      (∀ z zs, p.replay = z :: zs → (p.nak = true ∨ z.2 + 1000 ≤ s.time) → s.Comes (.linkReplay pkg port) (fun t =>
        t.mem = s.mem ∧ t.k = s.k ∧
        t.port pkg port = { p with nak := false, replay := p.replay.map (fun r => (r.1, s.time)) } ∧ counter t = min 65535 (counter s + p.replay.length * cfgWC (s.pkg pkg).bkcfgl.toNat))) ∧
      s.Comes (.portLaneFailure pkg port failed) (fun t => s.InPkg t pkg ∧
        let lanes := (p.good &&& ~~~failed) &&& p.enables
        t.port pkg port = { p with good := p.good &&& ~~~failed, lanes := lanes, st := st lanes
                                   downAt := if st lanes = 0 then s.time else p.downAt })) ∧
    (thas s.hw pkg = true → port < 32 → p.st = 1 → s.Comes (.portTrainingDone pkg port up peer) (fun t => s.InPkg t pkg ∧
      t.port pkg port = ⟨st (up &&& p.enables), up &&& p.enables, peer, 0, 0, [], false, p.downAt, up, p.enables⟩)) ∧
    (s.k.launch = some L → pkg ∈ L.pkgmap → 2 ≤ L.npkg →
      ((∀ e ∈ (s.pkg pkg).ports, e.2.live = false ∧ e.2.downAt + 100000 ≤ s.time) → s.k.killing = none →
        s.Comes (.packageUnreachable pkg) (fun t => t.mem = s.mem ∧ t.k.launch = none ∧ t.k.recs = [] ∧
          t.k.killing = some (some (answerOf L.cmd 2 L.tt)))) ∧
      (∀ z ∈ L.pkgmap, z ≠ pkg → thas s.hw z = true → s.portTo pkg z = true → s.portTo z pkg = true →
        exec (.packageUnreachable pkg) s = .next s))

/-- The tile-walk engine (R240 to R245): TWGO starts an idle or halted channel and kicks a waiting one, permits saturate, and
the oldest lets a channel that waits for one go on with the record it holds, the record at HEAD is checked and taken, waited for
or refused with a halt; each row, from a scratchpad or from memory, is sent to its cores or to memory, and lands there word by
word with its full bits, or as an exclusive store or a join, in any order with the others, but a row that meets bytes of an
earlier one waits for it; once all have landed, none in a side log, the completion action is sent and lands, and the end of the
record sets DONEID, clears O, goes to NEXT and wakes what waits for its id. A place that a row may not reach halts the channel
with its code. The reserved completion address, the state and code of a channel that waits or halts in a record, the owner and
alignment of a record, and the steps in which words land are the model's readings and choices (log entries 18, 24, 38, 39, 77).
-/
def Obligations.TileWalksMoveTheirRows : Prop :=
  ∀ (s : State) (id comb ch va n r l code a : Nat) (f : Flit) (y : Obj) (d : List Byte) (pay : List PayTo)
    (ws : List (Nat × List Byte)) (full rest : Bool),
    let c := s.chan comb ch
    let x := c.line
    let rec' : Line := BitVec.ofNat 512 (ofBytes (s.readV c.head 64))
    let heard := s.engineMuted comb (comb * 8 + ch) = false
    let reads := c.st = .walking ∧ c.row = none ∧ s.combRuns comb = true ∧ heard ∧ s.ownerGone c = false
    let moves := (c.st = .walking ∨ c.st = .waiting) ∧ s.combRuns comb = true
    let landed := s.paying comb ch = false ∧ s.loggedPayload comb ch = false
    let halted (t : State) (code : Nat) : Prop := t.mem = s.mem ∧ (t.chan comb ch).st = .halted ∧ (t.chan comb ch).err = code ∧
      (t.chan comb ch).row = none ∧ t.k.flogHead + t.k.flogLost = s.k.flogHead + s.k.flogLost + 1 ∧
      ((s.k.flogHead - s.k.flogCons).toNat ≠ 4096 → tget? t.k.flog (s.k.flogHead.toNat % 4096) =
        some ⟨⟨code, c.pc, BitVec.ofNat 64 c.head, false⟩, c.task, c.actn % 2 ^ 24⟩)
    let sent (t : State) (n : Nat) (l : List PayTo) : Prop := t.mem = s.mem ∧ s.CombsBut t comb ∧ t.k.recs = s.k.recs ∧
      s.PaySent t comb ch c l ∧ t.chan comb ch = { c with row := some n, st := .walking, pg := none }
    let only (t : State) : Prop := s.InCtx t ∧ s.CombsBut t comb ∧ t.k.recs = s.k.recs
    let read (t : State) : Prop := s.InNet t ∧ s.CombsBut t comb ∧ t.k.recs = s.k.recs
    let added := min n (65535 - c.permits)
    let permits := c.perms ++ if added = 0 then [] else [(added, s.knowOf f)]
    let entered (z : Line) (u : List (Nat × Know)) (know : Know) : Chan :=
      { c with line := z, row := some 0, gate := false, st := .walking, perms := u, know := know }
    (s.due? id = some f → f.e.eff = .twgo comb ch va →
      (s.tagSeen f = true → s.Comes (.tweStart id) (fun t => only t ∧ t.Done id ∧ t.chan comb ch = c)) ∧
      (s.tagSeen f = false → s.Comes (.tweStart id) (fun t => only t ∧ t.Done id ∧ t.tagSeen f = true ∧
        (c.st = .idle ∨ c.st = .halted → t.chan comb ch = { c with
          head := va, owner := f.gid, pc := f.e.pc, task := f.task, actn := f.actn, lcore := f.lcore, err := 0, st := .walking, row := none
          gate := false, pg := none, know := [] }) ∧
        (c.st = .waiting → t.chan comb ch = { c with st := .walking, gate := false }) ∧ (c.st = .walking → t.chan comb ch = c)))) ∧
    (s.due? id = some f → f.e.eff = .twperm comb ch n →
      (s.tagSeen f = true → s.Comes (.twePermit id) (fun t => only t ∧ t.Done id ∧ t.chan comb ch = c)) ∧
      (s.tagSeen f = false → s.Comes (.twePermit id) (fun t => only t ∧ t.Done id ∧ t.tagSeen f = true ∧
        (c.gate = false ∨ c.permits + added = 0 → t.chan comb ch = { c with perms := permits }) ∧
        ∀ i k u, c.gate = true → c.permits + added ≠ 0 → trPg x = true → permits = (i, k) :: u →
          t.chan comb ch = entered x (if i ≤ 1 then u else (i - 1, k) :: u) k))) ∧
    (c.st = .walking → c.row = none → s.combRuns comb = true → heard → s.ownerGone c = true → s.Comes (.tweRecordRead comb ch) (fun t =>
      only t ∧ t.chan comb ch = { c with st := .halted })) ∧
    (reads → objAt s.k.objs c.head = none → s.Comes (.tweRecordRead comb ch) (fun t => halted t tCAPBOUND)) ∧
    (reads → objAt s.k.objs c.head = some (a, y) → y.ret = false → c.head + 64 ≤ y.base + y.len * 4096 →
      (s.kernelAt c.head 64 = true → s.Comes (.tweRecordRead comb ch) (fun t => halted t tKRES)) ∧
      (s.kernelAt c.head 64 = false → y.ty ≠ .excl → s.Comes (.tweRecordRead comb ch) (fun t => halted t tTYPEMIS)) ∧
      (s.kernelAt c.head 64 = false → y.ty = .excl → y.owner ≠ c.owner → s.Comes (.tweRecordRead comb ch) (fun t =>
        halted t tEXCLOWN)) ∧
      (s.kernelAt c.head 64 = false → y.ty = .excl → y.owner = c.owner → c.head % 64 ≠ 0 →
        s.Comes (.tweRecordRead comb ch) (fun t => halted t tALIGN)) ∧
      (s.kernelAt c.head 64 = false → y.ty = .excl → y.owner = c.owner → c.head % 64 = 0 → s.firstUnmapped c.head 64 = none →
        s.poisonedAt c.head 64 = true → s.Comes (.tweRecordRead comb ch) (fun t => halted t tUNCORR))) ∧
    (reads → s.HeldBy c.head 64 y → y.ty = .excl → y.owner = c.owner → c.head % 64 = 0 → s.poisonedAt c.head 64 = false →
      s.Comes (.tweRecordRead comb ch) (fun t => t.mem = s.mem ∧
      (trO rec' = false → read t ∧ t.chan comb ch = { c with st := .waiting, since := s.cyc }) ∧
      (trO rec' = true → ∀ e, trChk rec' c.doneId = some e → (t.chan comb ch).st = .halted ∧ (t.chan comb ch).err = e) ∧
      (trO rec' = true → trChk rec' c.doneId = none → trPg rec' = true → c.permits = 0 → read t ∧
        t.chan comb ch = { c with st := .waiting, line := rec', gate := true }) ∧
      (trO rec' = true → trChk rec' c.doneId = none → trPg rec' = false → read t ∧ t.chan comb ch = entered rec' c.perms []) ∧
      ∀ i k u, trO rec' = true → trChk rec' c.doneId = none → trPg rec' = true → c.permits ≠ 0 → c.perms = (i, k) :: u → read t ∧
        t.chan comb ch = entered rec' (if i ≤ 1 then u else (i - 1, k) :: u) k)) ∧
    (c.st = .waiting → c.row = none → c.gate = false → c.since + 4096 ≤ s.cyc → s.combRuns comb = true → s.Comes (.twePoll comb ch) (fun t =>
      only t ∧ t.chan comb ch = { c with st := if s.ownerGone c = true then .halted else .walking })) ∧
    (moves → c.row = some r → r < trRows x → s.rowWaits comb ch r = false → (trSsp x = 2 ∨ heard) →
      (s.RowFrom comb c r d → s.RowTo comb c r d pay → s.Comes (.twePayloadWrite comb ⟨ch, none⟩) (fun t => sent t (r + 1) pay)) ∧
      (s.tweSrc comb c r = .halt code ∨ s.tweSrc comb c r = .bytes d ∧ s.tweDst comb c r d = .halt code →
        s.Comes (.twePayloadWrite comb ⟨ch, none⟩) (fun t => halted t code))) ∧
    (c.row = some r → s.rowWaits comb ch r = true → exec (.twePayloadWrite comb ⟨ch, none⟩) s = .next s) ∧
    (s.flit? id = some f → f.done = false → f.stop = false → f.e.eff = .payload comb ch (.scratch l ws full rest) →
      s.mutedFlit f = false → s.combRuns (l / 4) = true → WordsOk ws → s.Comes (.twePayloadWrite comb ⟨ch, some id⟩) (fun t =>
        t.chan comb ch = c ∧ s.Landed t f.id l ws full (fun u => .payload comb ch (.scratch l u full true)))) ∧
    (s.flit? id = some f → f.done = false → f.stop = false → f.e.eff = .payload comb ch (.mem va d) → s.mutedFlit f = false → s.meet va (min d.length 4096) = .apply →
      objAt s.k.objs va = some (a, y) → s.Comes (.twePayloadWrite comb ⟨ch, some id⟩) (fun t => t.Done f.id ∧
        t.chan comb ch = { c with know := Know.see c.know (va / 64) (t.changes (va / 64)) } ∧
        (y.ty = .excl → s.PlainRange va d.length → t.readV va d.length = d ∧
          ∀ b, (∀ j < d.length, s.phys? (va + j) ≠ some b) → t.mem.read b = s.mem.read b) ∧
        (y.ty ≠ .excl → t.mem = (s.applyJoin f y.ty y.wc va d).mem))) ∧
    (moves → landed → c.row = some (trRows x) → s.ActionOf c pay → s.Comes (.tweTransferDone comb ch) (fun t => sent t (trRows x + 1) pay)) ∧
    (moves → ¬ landed → exec (.tweTransferDone comb ch) s = .next s) ∧
    (moves → landed → c.row = some (if trCk x = 0 then trRows x else trRows x + 1) →
      s.Comes (.tweTransferDone comb ch) (fun t => s.CombsBut t comb ∧ t.k.recs = s.k.recs ∧
        t.chan comb ch = { c with doneId := trId x + 1, done := c.done ++ [(trId x, c.know)], know := [], row := none, pg := none, st := if trNext x = 0 then .idle else .walking
                                  head := if trNext x = 0 then c.head else trNext x } ∧
        (s.PlainRange (c.head + 7) 1 →
          t.readV (c.head + 7) 1 = toBytes (ofBytes (s.readV (c.head + 7) 1) % 128) 1 ∧
          ∀ b, s.phys? (c.head + 7) ≠ some b → t.mem.read b = s.mem.read b) ∧
        ∀ w ∈ (s.comb comb).twait, w.ch = ch → w.id ≤ trId x + 1 →
          (∃ k ∈ t.k.wakes, k.task = w.task ∧ k.run = w.run ∧ k.know = (t.chan comb ch).doneKnow w.id ∧ k.res = .none) ∧ w ∉ (t.comb comb).twait))

/-- The array (R24, R228, R229, R232, R233, R238, R239, R297): a free lease goes to the slot's owner, in a free slot to the
first asker from the pointer on, a slot's end ends its lease, a new slot table waits for its period, a tile load ends with the
tile or with the trap that a command will meet, a command whose work is done ends in its turn, and then the first TLDW that no
earlier command keeps from its buffer starts; a comb that shares its host stops at a slot boundary, where the slice goes to the
next comb. A lease that TREL released ends with the last command accepted before the TREL. The origin of the slot period, that a
load is judged at its end, and that a TLDW waits for its buffer in its place of the queue and starts from there are the model's
readings (log entries 46, 47 and 79). -/
def Obligations.ArrayLeasesSlotsAndLoadsEnd : Prop :=
  ∀ (s : State) (comb va i j p z : Nat) (q : ArrCmd) (buf : Bool) (site : Site),
    let c := s.comb comb
    let only (t : State) : Prop := s.InCtx t ∧ s.CombsBut t comb ∧ t.k.recs = s.k.recs
    let read (t : State) : Prop := s.InNet t ∧ s.CombsBut t comb ∧ t.k.recs = s.k.recs
    let box := match q.lane with
      | some l => (s.lane l).box.take q.sees
      | none => []
    let tile := overlay va (s.readV va 8192) box
    let left := c.queue.take i ++ c.queue.drop (i + 1)
    let starts (k : Nat) (x : ArrCmd) (w : Nat) (b : Bool) : Prop := left[k]? = some x ∧ x.pend = some w ∧ x.buf = some b ∧
      ∀ y ∈ left.take k, y.buf ≠ some b
    let ended (x : CombSt) : Option Lease := if x.queue = [] then none else x.lease.map (fun y => { y with left := 0 })
    let l := s.served site.pkg (site.die * 64 + site.comb)
    (s.combRuns comb = true → c.lease = none → c.queue = [] → s.slotUsed c < 2048 →
      (s.slotOwner c ≠ 4 → s.slotOwner c ∈ c.askers → s.Comes (.leaseGrant comb) (fun t => only t ∧
        t.comb comb = { c with lease := some ⟨s.slotOwner c, 64, none, []⟩, buf0 := Buf.init, buf1 := Buf.init })) ∧
      (s.slotOwner c = 4 → j < 4 → (c.rr + j) % 4 ∈ c.askers → (∀ k < j, (c.rr + k) % 4 ∉ c.askers) →
        s.Comes (.leaseGrant comb) (fun t => only t ∧ t.comb comb = { c with
          lease := some ⟨(c.rr + j) % 4, 64, none, []⟩, rr := ((c.rr + j) % 4 + 1) % 4, buf0 := Buf.init, buf1 := Buf.init }))) ∧
    (2048 ≤ s.slotUsed c → comb < 512 * s.npkg → s.sharedComb comb = true →
      s.Comes (.slotEnd comb) (fun t => t = s) ∧ s.combRuns comb = false) ∧
    (2048 ≤ s.slotUsed c → comb < 512 * s.npkg → s.sharedComb comb = false → s.Comes (.slotEnd comb) (fun t => only t ∧
      (t.comb comb).slot = (c.slot + s.slotUsed c / 2048) % 16 ∧ (t.comb comb).lease = ended c ∧
      (t.comb comb).queue = c.queue)) ∧
    (s.k.slotPend = some p → (s.k.launch = none ∨ p < s.period32k) → s.Comes .slottabApply (fun t =>
      t = { s with k := { s.k with slotNow := s.k.slottab, slotPend := none } })) ∧
    (c.loadHead = some q → (c.bufOf buf).st = .loading va → q.buf = some buf → q.pend = none → s.readHeld q.task va 8192 = false →
      s.combRuns comb = true → s.engineMuted comb (2 ^ 64 + comb) = false → s.Comes (.tldwLoadEnd comb buf) (fun t => read t ∧ (t.comb comb).queue = c.queue ∧
        (t.comb comb).bufOf (!buf) = c.bufOf (!buf) ∧
        (∀ a, s.firstUnmapped va 8192 = some a → ((t.comb comb).bufOf buf).st = .faulted a) ∧
        (s.firstUnmapped va 8192 = none → s.kernelAt va 8192 = false → s.poisonedAt va 8192 = false → s.anyTop va 8192 = false →
          (badSlotFrom 0 (chunks 64 128 tile) = none → (t.comb comb).bufOf buf = ⟨.loaded, tile⟩) ∧
          (badSlotFrom 0 (chunks 64 128 tile) = some i → ((t.comb comb).bufOf buf).st = .bad tTRITBYTE (va + 64 * i))))) ∧
    (c.nextMove = some i → c.queue[i]? = some q → q.job = none → s.combRuns comb = true → s.Comes (.arrayCommandEnd comb) (fun t =>
      only t ∧ t.k.cores = s.k.cores ∧
      ((∀ k x w b, ¬ starts k x w b) → (t.comb comb).queue = left ∧ (t.comb comb).buf0 = c.buf0 ∧ (t.comb comb).buf1 = c.buf1) ∧
      (∀ k x w b, starts k x w b → (∀ k' x' w' b', k' < k → ¬ starts k' x' w' b') →
        (t.comb comb).queue = left.set k { x with pend := none } ∧ (t.comb comb).bufOf b = ⟨.loading w, []⟩ ∧
        (t.comb comb).bufOf (!b) = c.bufOf (!b)) ∧
      (t.comb comb).lease = match c.lease with
        | some y =>
          let n := y.ending.map (fun n => if i < n then n - 1 else n)
          if n = some 0 ∨ (c.queue.length = 1 ∧ y.left = 0) then none else some { y with ending := n }
        | none => none)) ∧
    (l.find? (fun y => (s.comb y).since.isSome) = some z → 2 ≤ l.length → 2048 ≤ s.slotUsed (s.comb z) →
      s.Comes (.timeSliceSwitch site) (fun t => s.InCtx t ∧ t.k.recs = s.k.recs ∧
        (t.comb (nextIn l z)).since = some s.cyc ∧
        (nextIn l z ≠ z → (t.comb z).since = none ∧ (t.comb z).lease = ended (s.comb z))))

/-- Waggle (R331 to R333, Table 18-4): heartbeats count up every 2 us, a good one is noted, a second malformed one within 8
periods and a silence of three periods accuse, accusations spread to neighbours, and expire; a comb that a neighbour
knows accused by as many live combs as its live neighbours demand is fenced.
The steps of a fence are the model's reading (log entry 51). -/
def Obligations.WaggleAccusesAndFences : Prop :=
  ∀ (s : State) (x y z : Site) (seq : BitVec 16) (hb : Heartbeat) (f u n : Nat),
    let w := s.wag x
    let b := s.beat x y
    let live := ((s.pkg x.pkg).liveNb (siteNo x)).length
    let accused (t : State) (by' : Site) : Prop :=
      (t.wag x).st = .fenced ∨ thas (t.wag x).accusers (siteNo y * 512 + siteNo by') = true
    let others := w.accusers.filter (fun e => e.1 / 512 == siteNo y && e.1 != siteNo y * 512 + siteNo y && decide (s.time < e.2.2) &&
      ((s.pkg x.pkg).wagOf (e.1 % 512)).st != .fenced)
    let bad := hb.crcOk = false ∨ hb.id ≠ x ∨ hb.digest ≠ s.digest x ∨ seq ≠ b.seq + 1
    let badBefore := (b.badAt.filter (fun t => decide (s.time < t + 16000))).length
    let here := (b.arrived.filter (fun t => decide (s.time < t + 2000))).length
    (thas s.hw x.pkg = true → (s.pkg x.pkg).wagOn = true → w.beats = true → w.beat + 2000 ≤ s.time →
      s.Comes (.heartbeat x) (fun t => s.InPkg t x.pkg ∧ t.wag x = { w with seq := w.seq + 1, beat := s.time })) ∧
    (s.nbOf x y = true → w.beats = true →
      (¬ bad → badBefore < 2 → here < 2 → s.Comes (.heartbeatReceive x y seq hb) (fun t => s.InPkg t x.pkg ∧
        t.wag x = w ∧ (t.beat x y).seq = seq ∧ (t.beat x y).last = s.time ∧ (t.beat x y).good = b.good + 1)) ∧
      (bad → badBefore = 0 → here < 2 → s.Comes (.heartbeatReceive x y seq hb) (fun t => s.InPkg t x.pkg ∧ t.wag x = w ∧
        (t.beat x y).good = 0)) ∧
      (2 ≤ here → s.Comes (.heartbeatReceive x y seq hb) (fun t => t.mem = s.mem ∧ accused t y)) ∧
      (bad → 1 ≤ badBefore → s.Comes (.heartbeatReceive x y seq hb) (fun t => t.mem = s.mem ∧ accused t y)) ∧
      (max b.last (max (s.pkg x.pkg).wagFrom w.since) + 6000 ≤ s.time → s.Comes (.heartbeatSilence x y) (fun t =>
        t.mem = s.mem ∧ accused t y ∧
        (w.st = .active → live ≠ 1 → (if live = 4 then 3 else 2) ≤ others.length + 1 →
          (t.wag x).st = .fenced ∧ .fence x ∈ (t.pkg x.pkg).posted))) ∧
      (z.pkg = x.pkg → z ≠ y → tget? w.accusers (siteNo z * 512 + siteNo z) = some (f, u) → s.time < u →
        s.Comes (.accusation x z (.told y)) (fun t => t.mem = s.mem ∧ accused t z)) ∧
      ((s.pkg x.pkg).wgrate.toNat % 2 ^ 16 < n → s.Comes (.accusation x y (.counted y n)) (fun t => t.mem = s.mem ∧ accused t y))) ∧
    (tget? w.accusers (siteNo z * 512 + siteNo z) = some (f, u) → u ≤ s.time →
      ((s.pkg x.pkg).liveNb (siteNo x) ≠ [siteNo z] → s.Comes (.accusationExpiry x z) (fun t =>
        s.InPkg t x.pkg ∧ ∀ e ∈ (t.wag x).accusers, e.1 % 512 ≠ siteNo z)) ∧
      ((s.pkg x.pkg).liveNb (siteNo x) = [siteNo z] → w.st = .active → s.Comes (.accusationExpiry x z) (fun t =>
        t.mem = s.mem ∧ (t.wag x).st = .fenced ∧ .fence x ∈ (t.pkg x.pkg).posted)))

/-- After a fence (R298, R328, R334 to R336, Table 18-5): the hold set takes what ran on the comb, the notice abandons it for 25
us, with what the routers dropped of it, and once nothing runs there starts the self-test, which fails, appeals or is refused
after three appeals in an hour; votes readmit, 64 periods without them fence again, and a neighbour that this leaves without a live
one is fenced; the remap moves each logical comb to an
active comb of its die, of its sector if there is one, that serves the fewest, by the Skep's choice where FNMODE.FR was 1 at the
fence; a moved comb finds each line of its scratchpads as it was last written back, but those that the abandoned activations had
written as either that or as they were last, and no lease, tile or command.
The steps of a fence, that no comb is fused off, and what becomes of a Skep choice are the model's (log entries 42, 51, 52,
53). -/
def Obligations.FencedCombsAreTestedAndReplaced : Prop :=
  ∀ (s : State) (x y : Site) (n c h : Nat) (choice : List (Nat × Nat)) (u : State),
    let w := s.wag x
    let recent := (w.appeals.filter (fun t => decide (s.time < t + 3600000000000))).length
    let need := votesFor ((s.pkg x.pkg).liveNb (siteNo x)).length
    let cs := s.served x.pkg (siteNo x)
    let moved := s.moveAll x.pkg (if w.fr = 0 then [] else choice) cs
    let here := s.k.ownsDie x.pkg x.die = true
    let mine (k : Nat) : Prop := k % 64 / 16 = c % 64 / 16
    let again (t : State) : Prop := t.mem = s.mem ∧ (t.wag x).st = .fenced ∧
      ((∀ j ∈ neighbours (siteNo x), ((s.pkg x.pkg).wagOf j).beats = false) → s.InPkg t x.pkg) ∧
      ∀ j ∈ neighbours (siteNo x), ((s.pkg x.pkg).wagOf j).beats = true → (s.pkg x.pkg).liveNb j = [siteNo x] →
        ((t.pkg x.pkg).wagOf j).st = .fenced
    let of (g : Flit) (m : Nat) : Bool := g.task == m && g.actn == (s.record m).f.actn && !g.e.eff.engine
    (w.st = .fenced → here → s.Comes (.holdSet x) (fun t => s.InCtx t ∧ t.k.recs = s.k.recs ∧ ∀ e ∈ s.ranOn x,
      ∃ r, (e.1, r) ∈ s.ranOn x ∧ tget? t.k.holds e.1 = some r.f.actn)) ∧
    ((s.record n).st = .ready → (s.record n).notBefore ≠ 0 → (s.record n).notBefore ≤ s.time → thas s.k.recs n = true →
      (if s.k.flits.any (fun g => of g n && g.pending) then s.Comes (.holdSetRedispatch n) (fun t => t = s)
      else s.Comes (.holdSetRedispatch n) (fun t => s.InCtx t ∧ s.RecsBut t n ∧ t.record n = { s.record n with notBefore := 0 } ∧
        t.k.flits = s.k.flits.map (fun g => if of g n && g.lost then { g with stop := true } else g)))) ∧
    (w.st = .fenced → here → s.ranOn x ≠ [] → (∀ e ∈ s.ranOn x, tget? s.k.holds e.1 = some e.2.f.actn) →
      s.Comes (.fenceNotice x) (fun t => t.mem = s.mem ∧ ∀ l m, s.Runs l m → laneComb l ∈ cs →
        (t.lane l).st = .idle ∧ (t.record m).st = .ready ∧ (t.record m).f = (s.record m).f ∧
        (t.record m).notBefore = s.time + 25000 ∧
        (∀ j, j ∈ (t.core (l / 8)).dirty ↔ j ∈ (s.core (l / 8)).dirty ∨ ∃ e ∈ s.ranOn x, ∃ l', e.2.st = .active l' ∧
          l' / 8 = l / 8 ∧ j ∈ (s.lane l').wrote) ∧
        ∀ g ∈ t.k.flits, g.stop = true → g.task = m → g.actn ≠ (s.record m).f.actn)) ∧
    (w.st = .fenced → here → s.ranOn x = [] → w.failed = false → w.refused = false → s.Comes (.fenceNotice x) (fun t =>
      s.InPkg t x.pkg ∧ (t.wag x).st = .selftest ∧ (t.wag x).since = s.time)) ∧
    (w.st = .selftest → s.Comes (.selftestDone x false) (fun t => again t ∧
        (t.wag x).failed = true ∧ .testfail x ∈ (t.pkg x.pkg).posted) ∧
      s.Comes (.selftestDone x true) (fun t =>
        if recent < 3 then s.InPkg t x.pkg ∧ (t.wag x).st = .appeal ∧ (t.wag x).appeals = w.appeals ++ [s.time] ∧ .appeal x ∈ (t.pkg x.pkg).posted
        else again t ∧ (t.wag x).refused = true ∧ .appealRef x ∈ (t.pkg x.pkg).posted)) ∧
    (w.st = .appeal → s.nbOf x y = true → 8 ≤ (s.beat x y).good → s.time < w.since + 128000 →
      s.Comes (.appealVote x y) (fun t => s.InPkg t x.pkg ∧ siteNo y ∈ (t.wag x).votes ∧
        if need ≤ (nadd w.votes (siteNo y)).length then (t.wag x).st = .readmitted ∧ .readmit x ∈ (t.pkg x.pkg).posted
        else (t.wag x).st = .appeal)) ∧
    (w.st = .appeal → w.since + 128000 ≤ s.time → s.Comes (.appealTimeout x) (fun t => again t ∧
      (t.wag x).votes = [])) ∧
    (w.st = .fenced → w.refused = true → (w.appeals.drop (w.appeals.length - 3)).headD 0 + 3600000000000 ≤ s.time →
      s.Comes (.appealHoldExpiry x) (fun t => s.InPkg t x.pkg ∧ (t.wag x).st = .selftest ∧ (t.wag x).refused = false)) ∧
    (here → s.k.launch.isSome = true → w.st ≠ .active → w.st ≠ .readmitted → cs ≠ [] → s.ranOn x = [] →
      (moved = some u → s.Comes (.fenceRemap x choice) (fun t => t.hw = (u.tellAll x).hw ∧ t.mem = u.mem ∧ t.k.rmver = s.k.rmver + 1 ∧
        t.k.recs = s.k.recs)) ∧
      (moved = none → s.Comes (.fenceRemap x choice) (fun t => t.mem = s.mem ∧ t.k.launch = none ∧ t.k.recs = []))) ∧
    (let t := s.moveComb x.pkg c h;
      (t.comb c).lease = none ∧ (t.comb c).queue = [] ∧ (t.comb c).buf0 = Buf.init ∧ (t.comb c).buf1 = Buf.init ∧
      s.CombsBut t c ∧ (∀ l, l / 4 ≠ c → t.core l = s.core l) ∧
      (∀ b, (∀ l, l / 4 = c → b < scratchAddr s.kid l 0 ∨ scratchAddr s.kid l 0 + 2 ^ 20 ≤ b) → t.mem.read b = s.mem.read b) ∧
      ∀ l, l / 4 = c → ((s.core l).saved.bytes.map (fun y => y.1)).Nodup → (t.core l).badW = [] ∧ (t.core l).badR = [] ∧
        (t.core l).dirty = [] ∧ (t.core l).waits = [] ∧ (t.core l).saved = (s.core l).saved ∧
        ∃ kept : Nat → Bool, (∀ j, kept j = true → j ∈ (s.core l).dirty) ∧ ∀ off < 2 ^ 20,
          let a := scratchAddr s.kid l off
          t.mem.read a = if kept (off / 64) = true then s.mem.read a
            else (cellAt (s.core l).saved.bytes off).getD (s.mem.background a)) ∧
    (s.hostFor x.pkg c = some h → s.mayHost x.pkg c h = true ∧ ∀ k, k / 64 = h / 64 → s.mayHost x.pkg c k = true →
      (mine k → mine h) ∧ ((mine k ↔ mine h) → (s.served x.pkg h).length ≤ (s.served x.pkg k).length))

/-- Errors, clocks and power (R327, R329, R352 to R354): a counter leaks one an interval and takes WC or WU up to 65,535, an
uncorrectable error poisons, abandons, halts or ends what it meets, and leaves a lane in DRAIN or SAVE alone, a scrub only
poisons; PTP locks after 32 offsets of its domain in a row within 5 ns, TIME that lies behind then steps forward and one that
lies ahead is slewed back, after a holdover in either case, and while locked at each Sync; it loses the lock beyond 100 ns or
after 8 Sync intervals, the clock moves in steps of 100 MHz between 600 and 1,100, and a thermal shutdown kills what runs on the
package. Where an error strikes is an argument of its event (the model's choice, log entry 54); the sign of an offset and the
length of a Sync interval are the model's choices (log entry 71). -/
def Obligations.ErrorsClocksAndPowerAct : Prop :=
  ∀ (s : State) (v : FaultUnit) (pkg va a l off row comb ch n c : Nat) (o : BitVec 32) (dom : BitVec 8),
    let p := s.pkg pkg
    let counter (t : State) : Counter := tget (t.pkg (unitPkg v)).counters (unitNo v) ⟨0, false, 0⟩
    let cfg := (s.pkg (unitPkg v)).unitCfg v
    let adds (t : State) (k : Nat) : Prop := (counter t).val = min 65535 ((counter s).val + k) ∧
      ((counter t).mark = true ↔ (counter s).mark = true ∨
        ((counter s).val < cfgMark cfg ∧ cfgMark cfg ≤ min 65535 ((counter s).val + k)))
    let upset (q : ErrPlace) (r : State → Prop) : Prop := s.Comes (.uncorrectableError v q) (fun t => adds t (cfgWU cfg) ∧
      (∀ b, t.mem.read b = s.mem.read b) ∧ r t)
    let d := o.toInt.natAbs
    (thas s.hw (unitPkg v) = true →
      (cfgInterval cfg ≠ 0 → (counter s).val ≠ 0 → (counter s).last + 1000 * cfgInterval cfg ≤ s.time →
        s.Comes (.faultCounterLeak v) (fun t => s.InPkg t (unitPkg v) ∧ (counter t).val + 1 = (counter s).val ∧
          ((counter t).mark = true ↔ (counter s).mark = true ∧ cfgMark cfg / 2 ≤ (counter t).val))) ∧
      s.Comes (.correctedError v) (fun t => s.InPkg t (unitPkg v) ∧ adds t (cfgWC cfg)) ∧
      upset .cacheCopy (fun t => t.k = s.k ∧ t.mem = s.mem) ∧
      (s.phys? va = some a → upset (.homeLine c va) (fun t => t.k = s.k ∧ a / 64 ∈ t.mem.poison)) ∧
      (l < s.lcount → off < s.scratchSize → upset (.scratchWord l off) (fun t => off / 4 ∈ (t.core l).badW ∧ s.CoresBut t l)) ∧
      (l < s.lcount → row < s.accRows → upset (.accRow l row) (fun t => row ∈ (t.core l).badR ∧ s.CoresBut t l)) ∧
      (s.hasLane l = true → ((s.lane l).st = .load ∨ (s.lane l).st = .run ∨ (s.lane l).st = .finish ∨ (s.lane l).st = .verify) →
        s.Runs l n → upset (.laneState l) (fun t =>
        (t.lane l).st = .idle ∧ (t.record n).st = .ready ∧ (t.record n).f = (s.record n).f ∧ s.LanesBut t l)) ∧
      ((s.lane l).st = .drain ∨ (s.lane l).st = .save → upset (.laneState l) (fun t => t.k = s.k ∧ t.ln = s.ln)) ∧
      (s.hasLane l = true → (s.lane l).st = .load → s.Runs l n → n < s.k.nextTask → upset (.saveArea l) (fun t =>
        (t.lane l).st = .idle ∧ (t.record n).st = .ended ∧ t.k.rfcount = s.k.rfcount + 1)) ∧
      ((s.chan comb ch).st = .walking → (s.chan comb ch).row = none → upset (.transferRecord comb ch) (fun t =>
        (t.chan comb ch).st = .halted ∧ (t.chan comb ch).err = tUNCORR)) ∧
      (s.alive n = true → (s.record n).st.queued = true → n < s.k.nextTask → upset (.recordPool n) (fun t =>
        (t.record n).st = .ended ∧ t.k.rfcount = s.k.rfcount + 1)) ∧
      (off < 2 ^ 40 → s.Comes (.scrub v off) (fun t => t.k = s.k ∧ (∀ b, t.mem.read b = s.mem.read b) ∧ adds t (cfgWU cfg) ∧
        physAddr (unitPkg v) off / 64 ∈ t.mem.poison))) ∧
    (dom ≠ p.domain → s.Comes (.ptpSync pkg o dom) (fun t => t = s)) ∧
    (thas s.hw pkg = true → p.state = 2 → dom = p.domain → dom.toNat < 128 → s.Comes (.ptpSync pkg o dom) (fun t => s.InPkg t pkg ∧
      (t.pkg pkg).offset = o ∧ (t.pkg pkg).domain = dom ∧ (t.pkg pkg).lastSync = s.time ∧
      ((t.pkg pkg).goodSync = if d ≤ 5 then p.goodSync + 1 else 0) ∧
      (t.pkg pkg).syncGap = s.time - p.lastSync ∧
      let follows (slews : Bool) : Prop :=
        if slews = false ∧ o.toInt < 0 then (t.pkg pkg).ahead = p.ahead - o.toInt ∧ (t.pkg pkg).slew = 0
        else (t.pkg pkg).ahead = p.ahead ∧ (t.pkg pkg).slew = -o.toInt
      (p.locked = false → (d ≤ 5 ∧ 31 ≤ p.goodSync → (t.pkg pkg).locked = true ∧ (t.pkg pkg).holdover = false ∧ follows p.holdover) ∧
        (¬ (d ≤ 5 ∧ 31 ≤ p.goodSync) → (t.pkg pkg).locked = false ∧ (t.pkg pkg).ahead = p.ahead)) ∧
      (p.locked = true → d ≤ 100 → (t.pkg pkg).locked = true ∧ follows p.relock ∧
        ((t.pkg pkg).relock = true → p.relock = true ∧ 5 < d)) ∧
      (p.locked = true → 100 < d → (t.pkg pkg).locked = false ∧ (t.pkg pkg).holdover = true ∧ (t.pkg pkg).ahead = p.ahead))) ∧
    (thas s.hw pkg = true → p.locked = true → p.lastSync + 8 * p.syncGap ≤ s.time → s.Comes (.ptpHoldover pkg) (fun t => s.InPkg t pkg ∧
      (t.pkg pkg).locked = false ∧ (t.pkg pkg).holdover = true)) ∧
    (thas s.hw pkg = true →
      (700 ≤ p.clock → s.Comes (.clockThrottle pkg true) (fun t => s.InPkg t pkg ∧ (t.pkg pkg).clock = p.clock - 100)) ∧
      (p.clock ≤ 1000 → s.Comes (.clockThrottle pkg false) (fun t => s.InPkg t pkg ∧ (t.pkg pkg).clock = p.clock + 100)) ∧
      s.Comes (.thermalShutdown pkg) (fun t => t.mem = s.mem ∧ (t.pkg pkg).state = 3 ∧ (∀ e ∈ (t.pkg pkg).ports, e.2.st = 0 ∧ e.2.good = 0) ∧
        (pkg ∈ s.k.pkgs → t.k.launch = none ∧ t.k.recs = [])))

/-- Launches and host commands (R17, R280, R306 to R308, R317 to R322): a firing enters the queue ahead of host launches, is
dropped, or replaces the running launch by its rule; the first waiting launch is refused with its status or starts with its root
record READY; each command is rejected with 0x21 or answered and carried out, and a kill, which a KILL begins, ends later with
the entry of the launch that it took; completions are posted in order while the ring has room, and with that of an ended launch
its objects go. The ids of the root record and group are the model's next ones (log entry 13). Placing, what KILL leaves, the
firings of the past and the commands that are rejected, and that a package that has failed takes none, are the model's choices
or readings (log entries 14, 34, 41, 55, 56, 58). -/
def Obligations.LaunchesAndCommandsAreCarriedOut : Prop :=
  ∀ (s : State) (x : Line) (rest : List Line) (desc : BitVec 2048) (pm : Placing) (bytes : BitVec 256) (e : Fin 256)
    (q : LaunchReq) (ql : List LaunchReq) (code at' : Nat) (i : Loaded) (u : State) (c : BitVec 256) (cl : List (BitVec 256))
    (L : Launch) (ins : Instr),
    let h := s.k.host
    let a := cmdArg0 x
    let b := cmdArg1 x
    let up := ∀ p ∈ s.k.pkgs, (s.pkg p).state ≠ 3
    let given (op : Nat) : Prop := h.cmds = x :: rest ∧ cmdOp x = op ∧ cmdReserved x = false ∧ up
    let done (i : Instr) (p : State → Prop) : Prop := s.Comes i (fun t => t.mem = s.mem ∧ p t)
    let ok (t : State) : Prop := answerOf (cmdId x) 0x20 none ∈ t.k.host.waiting
    let fires := s.k.ttOn e.val = true ∧ s.k.ttTime e.val = some at' ∧ at' ≤ s.timeOn (s.k.pkgs.headD 0) ∧ s.fnField 5 = 0
    let firing : LaunchReq := ⟨desc, pm.pkgmap, 0, some e.val, pm.place⟩
    let drops : State → Prop := fun t => s.InCtx t ∧ t.k.host.launches = h.launches ∧
      t.k.host.waiting = h.waiting ++ [answerOf 0 3 (some e.val)]
    let enters : State → Prop := fun t => t.k.host.waiting = h.waiting ∧
      t.k.host.launches = h.launches.takeWhile (fun y => y.tt.isSome) ++ firing :: h.launches.dropWhile (fun y => y.tt.isSome)
    (h.cmds = x :: rest → up → (1 ≤ cmdOp x ∧ cmdOp x ≤ 7) → cmdReserved x = true → (cmdOp x = 5 → s.k.killing = none) →
      (ins = .launch desc pm ∧ cmdOp x = 1 ∨ ins = .hostCancel ∧ cmdOp x = 2 ∨ ins = .setclass ∧ cmdOp x = 3 ∨
        ins = .release ∧ cmdOp x = 4 ∨ ins = .kill ∧ cmdOp x = 5 ∨ ins = .ttwrite bytes ∧ cmdOp x = 6 ∨
        ins = .preempt ∧ cmdOp x = 7) →
      s.Comes ins (fun t => s.InCtx t ∧ t.k.recs = s.k.recs ∧ t.k.host.launches = h.launches ∧
        answerOf (cmdId x) 0x21 none ∈ t.k.host.waiting)) ∧
    (given 1 → b = 0 → done (.launch desc pm) (fun t => s.InCtx t ∧
      t.k.host.launches = h.launches ++ [⟨desc, pm.pkgmap, cmdId x, none, pm.place⟩] ∧ t.k.recs = s.k.recs)) ∧
    (given 2 → b = 0 → a < 65536 → done .hostCancel (fun t => ok t ∧
      (∀ y ∈ t.k.host.launches, y ∈ h.launches ∧ ¬ (y.tt = none ∧ y.cmd = a)) ∧
      (∀ y ∈ h.launches, y.tt = none → y.cmd = a → answerOf a 1 none ∈ t.k.host.waiting) ∧
      (s.k.launch = some L → L.tt = none → L.cmd = a → s.liveGroup L.root = true → (t.group L.root).cancelling = true))) ∧
    (given 3 → b = 0 → a < 2 ^ 37 → s.liveGroup (a % 2 ^ 32) = true → done .setclass (fun t => ok t ∧ s.InCtx t ∧
      (a / 2 ^ 36 = 1 → (t.group (a % 2 ^ 32)).ovr = none ∧ t.k.recs = s.k.recs) ∧
      (a / 2 ^ 36 = 0 → (t.group (a % 2 ^ 32)).ovr = some (a / 2 ^ 32 % 16) ∧ ∀ m y, tget? s.k.recs m = some y →
        if y.f.gid = a % 2 ^ 32 then (t.record m).st = y.st ∧
          (y.st = .ready → (t.record m).f.cls = a / 2 ^ 32 % 16 ∧ (t.record m).newCls = none) ∧
          (∀ l, y.st = .active l → (t.record m).newCls = some (a / 2 ^ 32 % 16) ∧ (t.record m).f.cls = y.f.cls)
        else tget? t.k.recs m = some y))) ∧
    (given 4 → a < 2 ^ 32 → (s.record a).st = .held → (s.group (s.record a).f.gid).cancelling = false →
      done .release (fun t => ok t ∧ s.InCtx t ∧ s.RecsBut t a ∧ (t.record a).st = .ready ∧ (t.record a).f.tpd = false ∧
        (t.record a).f.pc = ((if b = 0 then (s.record a).f.pc else BitVec.ofNat 64 b) &&& 0x0FFFFFFFFFFFFFFF))) ∧
    (given 5 → a = 0 → b = 0 → s.k.killing = none → s.k.launch = some L → done .kill (fun t => ok t ∧ t.k.launch = none ∧
      t.k.recs = [] ∧ t.k.killing = some (some (answerOf L.cmd 2 L.tt)))) ∧
    (∀ z, s.k.killing = some z → done .kill (fun t => s.InCtx t ∧ t.k.killing = none ∧ t.k.launch = s.k.launch ∧
        t.k.host.waiting = h.waiting ++ z.toList) ∧ exec .launchStart s = .next s) ∧
    (given 6 → a < 256 → (quad bytes 3).toNat < 8 → (quad bytes 3).toNat / 2 ≠ 3 → done (.ttwrite bytes) (fun t =>
      ok t ∧ s.InCtx t ∧ ∀ j < 4, tget t.k.tttab (4 * a + j) 0 = quad bytes j)) ∧
    (given 7 → b = 0 → s.k.service = true → a < s.lcount → done .preempt (fun t => ok t ∧ s.InCtx t ∧
      (t.core a).asked = true ∧ s.CoresBut t a)) ∧
    (fires → (s.k.ttRule e.val = 0 → s.k.launch = none → done (.ttFire e desc pm) (fun t => s.InCtx t ∧ enters t)) ∧
      (s.k.ttRule e.val = 0 → s.k.launch.isSome = true → done (.ttFire e desc pm) drops) ∧
      (s.k.ttRule e.val = 1 → (∃ y ∈ h.launches, y.tt = some e.val) → done (.ttFire e desc pm) drops) ∧
      (s.k.ttRule e.val = 1 → (∀ y ∈ h.launches, y.tt ≠ some e.val) → done (.ttFire e desc pm) (fun t => s.InCtx t ∧ enters t)) ∧
      (s.k.ttRule e.val = 2 → s.k.launch = some L → s.liveGroup L.root = true → done (.ttFire e desc pm) (fun t =>
        enters t ∧ (t.group L.root).cancelling = true))) ∧
    (h.launches = q :: ql → s.k.launch = none → s.k.killing = none → h.waiting = [] → up →
      let s1 := s.onHost (fun h => { h with launches := ql })
      (s.refusal q = some code → done .launchStart (fun t => s.InCtx t ∧ t.k.host.launches = ql ∧ t.k.launch = none ∧
        t.k.host.waiting = [answerOf q.cmd code q.tt])) ∧
      (s.refusal q = none → s.k.images.find? (fun y => y.handle == dImage q.desc) = some i →
        (s1.startLaunch q i.img = none → done .launchStart (fun t => s.InCtx t ∧ t.k.launch = none ∧
          t.k.host.waiting = [answerOf q.cmd 0x15 q.tt])) ∧
        (s1.startLaunch q i.img = some u → s.Comes .launchStart (fun t => t.k.host.launches = ql ∧ t.k.rfcount = 0 ∧
          t.k.fences = 0 ∧ t.k.launchSeq = s.k.launchSeq + 1 ∧ (t.record s.k.nextTask).st = .ready ∧
          (t.record s.k.nextTask).f.gid = s.k.nextGid ∧ (t.group s.k.nextGid).status = 0 ∧ ∃ y, t.k.launch = some y ∧
            y.npkg = dNpkg q.desc ∧ y.part = dPart q.desc ∧ y.root = s.k.nextGid ∧ y.rootTask = s.k.nextTask ∧
            (t.record s.k.nextTask).f.pc = (BitVec.ofNat 64 (y.codeBase + dEntry q.desc) &&& 0x0FFFFFFFFFFFFFFF))))) ∧
    (h.waiting = c :: cl → h.cqSize ≠ 0 → (h.cqTail + 1) % h.cqSize ≠ h.cqHead → done .completionPost (fun t =>
      (s.k.endAt ≠ 1 → s.InCtx t ∧ t.k.objs = s.k.objs) ∧ (s.k.endAt = 1 → t.k.objs = []) ∧
      t.k.host = { h with waiting := cl, posted := h.posted ++ [c], cqTail := (h.cqTail + 1) % h.cqSize }))

/-- Rings, images, the mailbox and resets (R276, R280, R346 to R349): a bad doorbell index only sets the error bit, ring
registers change only at rest, identical images share a handle, a mailbox request makes or removes a context, a reset starts the
package anew, boot steps follow each other, and a function-level or hot reset kills what runs. The physical function's BAR0
holds the global registers and the context blocks, and a virtual function's its own block; CTXSTAT is 3 while a kill is under
way. A package that has failed takes no host write and no mailbox request but for diagnostics (R349). The handle of an image is
the model's next one (log entry 13). What the several resets leave, what makes an image well formed, and the free code of a
failed load, are the model's choices (log entries 57, 58, 59). So are two clauses that no rule of the spec gives: that a mailbox
request makes a context with K regions of kBytes for the pool and the spill limit that it names, reserved in frames of 1 GiB of
each die (log entry 33, DESIGN CHOICE; the areas of a die are log entry 21), and that the kernel memory of boot step 3 is the
frame at address 2^35 of the package (log entries 21 and 33). -/
def Obligations.RingsImagesMailboxAndResets : Prop :=
  ∀ (s w : State) (pkg n o ctx d0 logn pool spill : Nat) (v : Word) (es : List Line) (req : MboxReq) (ln : Line) (img : Image) (i : Loaded)
    (svc : Bool) (pkgs : List Nat) (fn : BitVec 64) (res : BitVec 8) (off : Fin 256) (code : BitVec 16),
    let h := s.k.host
    let p := s.pkg pkg
    let t' := v.toNat
    let up := ∀ p ∈ s.k.pkgs, (s.pkg p).state ≠ 3
    let rest := s.k.launch = none ∧ h.launches = [] ∧ h.sqHead = h.sqTail ∧ h.cqHead = h.cqTail ∧ up
    let host (i : Instr) (g : HostSt) : Prop := s.Comes i (fun t => t = { s with k := { s.k with host := g } })
    let known (y : Line) : Prop := 1 ≤ cmdOp y ∧ cmdOp y ≤ 7
    let quiet (t : State) : Prop := t.mem = s.mem ∧ (pkg ∈ s.k.pkgs → t.k.launch = none ∧ t.k.recs = [] ∧ t.k.killing = none ∧
      t.k.host = { HostSt.init with posted := t.k.host.posted })
    (up → h.sqSize ≤ t' ∨ ringDist h.sqSize h.sqHead t' < ringDist h.sqSize h.sqHead h.sqTail → host (.sqtail v es) { h with bellErr := true }) ∧
    (up → t' < h.sqSize → ringDist h.sqSize h.sqHead h.sqTail ≤ ringDist h.sqSize h.sqHead t' →
      es.length ≤ ringDist h.sqSize h.sqHead t' → (∀ y ∈ h.cmds ++ es, known y) →
      host (.sqtail v es) { h with sqTail := t', sqHead := (h.sqHead + es.length) % h.sqSize, cmds := h.cmds ++ es }) ∧
    (n < 8 → o < 0x10000 → let far := 0x100000 + 0x10000 * n + o
      (∀ j, j < 0x100000 → s.barRead pkg none j = (s.pkg pkg).hostReg j) ∧
      s.barRead pkg none far = s.barRead pkg (some n) o ∧ barWrite none far v = barWrite (some n) o v ∧
      (s.k.num = n → pkg ∈ s.k.pkgs → s.barRead pkg (some n) o = s.k.hostReg o) ∧
      (s.ctxOn pkg n = none → s.barRead pkg (some n) o = 0) ∧
      (o = 0x10 → barWrite (some n) o v = some (.sqtail n v)) ∧ (o = 0x30 → barWrite (some n) o v = some (.cqhead n v)) ∧
      (o = 0x48 → barWrite (some n) o v = some (.imgload n v)) ∧ (o = 0x68 → barWrite (some n) o v = some (.flogcons n v)) ∧
      (o = 0x70 → barWrite (some n) o v = some (.flogmir n v)) ∧ barWrite none 0x18 v = some (.mbox v)) ∧
    (s.k.hostReg 0x60).toNat = (if s.k.pkgs = [] then 0 else if s.k.killing ≠ none then 3 else if s.k.launch ≠ none then 2 else 1) +
      (if h.bellErr = true then 256 else 0) ∧
    (up → t' < h.cqSize → ringDist h.cqSize h.cqHead t' ≤ ringDist h.cqSize h.cqHead h.cqTail →
      host (.cqhead v) { h with cqHead := t' }) ∧
    (up → h.cqSize ≤ t' ∨ ringDist h.cqSize h.cqHead h.cqTail < ringDist h.cqSize h.cqHead t' →
      host (.cqhead v) { h with bellErr := true }) ∧
    (rest → v &&& 0xFFF = 0 → host (.ringConfigWrite 0x00 v) { h with sqBase := v, sqHead := 0, sqTail := 0 } ∧
      host (.ringConfigWrite 0x20 v) { h with cqBase := v, cqHead := 0, cqTail := 0 }) ∧
    (rest → ringSize t' = true → host (.ringConfigWrite 0x08 v) { h with sqSize := t', sqHead := 0, sqTail := 0 } ∧
      host (.ringConfigWrite 0x28 v) { h with cqSize := t', cqHead := 0, cqTail := 0 }) ∧
    (rest → host (.ringConfigWrite 0x38 v) { h with cqTailWb := v, cqHead := 0, cqTail := 0 }) ∧
    (up → host (.ringConfigWrite 0x40 v) { h with irq := v &&& 0x13F }) ∧
    (¬ rest → off ≠ 0x40 → host (.ringConfigWrite off v) h) ∧
    (¬ up → host (.sqtail v es) h ∧ host (.cqhead v) h ∧ host (.imgload ln) h) ∧
    (up → h.imgBusy = none → host (.imgload ln) { h with imgBusy := some ln }) ∧
    (h.imgBusy = some ln → imgBad ln = false → imageOk img = true →
      (s.k.images.find? (fun x => x.img == img) = some i →
        host (.imageLoaded (some img)) { h with imgBusy := none, imgResult := 0, imgHandle := i.handle }) ∧
      (s.k.images.find? (fun x => x.img == img) = none → s.Comes (.imageLoaded (some img)) (fun t => s.InCtx t ∧
        t.k.images = s.k.images ++ [⟨s.k.nextHandle, img⟩] ∧ t.k.nextHandle = s.k.nextHandle + 1 ∧
        t.k.host = { h with imgBusy := none, imgResult := 0, imgHandle := s.k.nextHandle }))) ∧
    (h.imgBusy = some ln → (imgBad ln = true ∨ imageOk img = false ∨ n = 0) → s.Comes (.imageLoaded (if n = 0 then none else some img)) (fun t =>
      t.k.images = s.k.images ∧ t.k.host.imgBusy = none ∧ t.k.host.imgResult ≠ 0 ∧ t.k.host.imgHandle = h.imgHandle)) ∧
    (thas s.hw pkg = true → p.mboxReq = none →
      (p.state ≠ 3 ∨ req = .other → s.Comes (.mbox pkg v req) (fun t => s.InPkg t pkg ∧
        t.pkg pkg = { p with mbox := v, mboxReq := some req })) ∧
      (p.state = 3 → req ≠ .other → s.Comes (.mbox pkg v req) (fun t => t = s))) ∧
    (p.state = 3 → (p.mboxReq = some (.fnmode ctx fn) ∨ p.mboxReq = some (.remove ctx)) → s.Comes (.mboxRequestDone pkg 0) (fun t => t = s)) ∧
    (p.mboxReq = some req → res ≠ 0 → s.Comes (.mboxRequestDone pkg res) (fun t => s.InPkg t pkg ∧
      t.pkg pkg = { p with mboxReq := none, mboxRes := res })) ∧
    (p.mboxReq = some (.create ctx d0 logn svc pkgs pool spill) → s.k.pkgs = [] → s.mayCreate ctx d0 logn pkgs = true →
      (s.onPkg pkg (fun p => { p with mboxReq := none, mboxRes := 0 })).reserveAll ((kBytes (2 ^ logn) pool spill + 2 ^ 30 - 1) / 2 ^ 30)
        (pkgs.flatMap (fun p => (List.range (2 ^ logn)).map (fun d => (p, d0 + d)))) = some w →
      s.Comes (.mboxRequestDone pkg 0) (fun t => t.mem = s.mem ∧ t.hw = w.hw ∧
        (t.pkg pkg).mboxReq = none ∧ (t.pkg pkg).mboxRes = 0 ∧
        (∀ q ∈ pkgs, ∃ a, (a, 2 ^ 30, true) ∈ (t.pkg q).kframes ∧ t.kAt q a = true) ∧
        t.k = { Ctx.init with
          num := ctx, pkgs := pkgs, d0 := d0, logn := logn, service := svc, pool := pool, spillMax := spill })) ∧
    (p.mboxReq = some (.fnmode s.k.num fn) → p.state ≠ 3 → pkg ∈ s.k.pkgs → fnmodeBad fn.toNat = false → s.Comes (.mboxRequestDone pkg 0) (fun t =>
      t.mem = s.mem ∧ t.k = { s.k with fnmode := fn.setWidth 12 } ∧ t.pkg pkg = { p with mboxReq := none, mboxRes := 0 })) ∧
    (p.mboxReq = some (.remove s.k.num) → p.state ≠ 3 → pkg ∈ s.k.pkgs → s.Comes (.mboxRequestDone pkg 0) (fun t => t.mem = s.mem ∧
      t.k = Ctx.init ∧ (t.pkg pkg).mboxReq = none)) ∧
    (thas s.hw pkg = true → s.Comes (.reset pkg) (fun t => t.mem = s.mem ∧ t.pkg pkg = { Pkg.init with cyc0 := s.cyc, ahead := p.ahead } ∧
        (pkg ∈ s.k.pkgs → t.k = Ctx.init)) ∧
      s.Comes (.functionLevelReset pkg none) quiet ∧ s.Comes (.hotReset pkg) quiet) ∧
    (pkg ∈ s.k.pkgs → s.Comes (.functionLevelReset pkg (some s.k.num)) (fun t => t.mem = s.mem ∧ t.k.launch = none ∧
      t.k.recs = [] ∧ t.k.pkgs = s.k.pkgs ∧ (s.k.killing = none → t.k.killing = some (s.k.launch.map (fun L => answerOf L.cmd 2 L.tt))))) ∧
    (thas s.hw pkg = true → p.state ≤ 1 → p.step < 7 →
      s.Comes (.bootStepDone pkg none) (fun t => s.InPkg t pkg ∧ (t.pkg pkg).step = p.step + 1 ∧
        ((t.pkg pkg).state = if p.step = 6 then 2 else 1) ∧ (p.step = 4 → ∀ j < 32, (t.port pkg j).st = 1) ∧
        (p.step = 3 → t.kAt pkg (2 ^ 35) = true)) ∧
      s.Comes (.bootStepDone pkg (some code)) (fun t => s.InPkg t pkg ∧ t.pkg pkg = { p with state := 3, failure := code }))

/-- Privileged registers (R99, R172, R297 to R299, R304, R306, R317, R330, R339, R347, R355): a write takes its effect when it
is applied; FLOGCONS only rises, up to FLOGHEAD; SLOTTAB counts in STVER and waits for its period; PWRCAP is at least 800 when
it is not zero (Table 19-7), FLOGMIR takes its address from the host (Table 19-5), which a failed package does not hear (R349);
a write whose tag was accepted before is dropped; a plain register reads back what was written; ATTCTL signs the manifest, the
nonce and the package. That ATTCTL acts on the value 1 only, and that the signature is free, are the model's (log entries 20 and
30). -/
def Obligations.PrivilegedRegistersTakeTheirValues : Prop :=
  ∀ (s : State) (id r pkg m : Nat) (f : Flit) (v : Word),
    let writes (i : Instr) (p : State → Prop) : Prop := s.Comes i (fun t => t.mem = s.mem ∧ t.Done id ∧ t.others = s.others ∧ p t)
    let inside := (v.ult s.k.flogCons || s.k.flogHead.ult v) = false
    let g := v.toNat % 2 ^ 32
    let up := ∀ p ∈ s.k.pkgs, (s.pkg p).state ≠ 3
    (up → inside → s.Comes (.flogcons (.host v)) (fun t => t = { s with k := { s.k with flogCons := v } })) ∧
    (up → ¬ inside → s.Comes (.flogcons (.host v)) (fun t => t = { s with k := { s.k with host := { s.k.host with bellErr := true } } })) ∧
    (¬ up → s.Comes (.flogcons (.host v)) (fun t => t = s) ∧ s.Comes (.flogmir v) (fun t => t = s)) ∧
    (up → v &&& 0xFFF = 0 → s.Comes (.flogmir v) (fun t => t = { s with k := { s.k with host := { s.k.host with flogMir := v } } })) ∧
    (s.due? id = some f → f.e.eff = .syswr r v → s.tagSeen f = true → s.Comes (.registerWrite id) (fun t => t = s.doneFlit id)) ∧
    (s.due? id = some f → f.e.eff = .syswr r v → s.tagSeen f = false →
      (r = 0x0A → inside → writes (.flogcons (.effect id)) (fun t => t.k.flogCons = v)) ∧
      (r = 0x01 → writes (.fnmode id) (fun t => t.k.fnmode = v.setWidth 12 ∧ t.k.recs = s.k.recs)) ∧
      (r = 0x05 → writes (.slottab id) (fun t => t.k.slottab = v ∧ t.k.stver = s.k.stver + 1 ∧ t.k.slotNow = s.k.slotNow ∧
        t.k.slotPend = some s.period32k)) ∧
      (r = 0x10 → writes (.rsvlo id) (fun t => t.k.rsvlo = v ∧ t.k.rsvhi = s.k.rsvhi)) ∧
      (r = 0x11 → writes (.rsvhi id) (fun t => t.k.rsvhi = v ∧ t.k.rsvlo = s.k.rsvlo)) ∧
      (r = 0x13 → writes (.grpcls id) (fun t => t.k.grpcls = v ∧ (s.liveGroup g = true → (t.group g).ovr =
        if v.toNat / 2 ^ 36 % 2 = 1 then none else some (v.toNat / 2 ^ 32 % 16)))) ∧
      (0x400 ≤ r → r < 0x800 → writes (.tttab id) (fun t => tget t.k.tttab (r - 0x400) 0 = v ∧
        ∀ j, j ≠ r - 0x400 → tget t.k.tttab j 0 = tget s.k.tttab j 0)) ∧
      (r = 0x124 → v = 1 → s.k.attBusy = none → writes (.attctl id) (fun t => t.k.attDone = false ∧ t.k.attFinal = false ∧
        t.k.attBusy = some (s.attMessage (s.pkgOf f.lcore)))) ∧
      (r = 0x124 → v ≠ 1 → writes (.attctl id) (fun t => t.k.attBusy = s.k.attBusy ∧ t.k.attDone = s.k.attDone)) ∧
      (r = 0x33 → writes (.pwrcap id) (fun t => (t.pkg (s.pkgOf f.lcore)).pwrcap =
        if v.toNat = 0 ∨ 800 ≤ v.toNat then v else 800)) ∧
      (plainReg r = true → s.k.attNonce.length = 4 → s.pkgOf s.lcore = s.pkgOf f.lcore →
        writes (.registerWrite id) (fun t => t.sysReg r = some v ∧ t.k.recs = s.k.recs))) ∧
    (s.k.attBusy = some m → m / 2 ^ 2304 = pkg → s.Comes (.attestDone pkg) (fun t => t.mem = s.mem ∧ t.k.attBusy = none ∧
      t.k.attDone = true ∧ t.k.attFinal = m.testBit 520 ∧ t.k.attSig = Config.attestSignature m (s.pkg pkg).sigs))
end

