-- ==== Sys2Proof/Laws/Crypto.lean ====
section
/-!
SUPPORT. SHA-256 gives 32 bytes, and a list of bytes stands for a number below 256 to its length.
-/

namespace Sys2Proof.Machine

theorem ofBytes_lt (l : List Byte) : ofBytes l < 256 ^ l.length := by
  induction l with
  | nil => simp [ofBytes]
  | cons x t ih => simp only [ofBytes, List.length_cons, Nat.pow_succ]; have := x.isLt; omega

theorem shaRound_length (h : List W32) (kw : W32) : (shaRound h kw).length = h.length := by
  unfold shaRound
  split <;> rfl

theorem shaBlock_length (h : List W32) (blk : List Byte) : (shaBlock h blk).length = h.length := by
  have (l : List W32) : ∀ h : List W32, (l.foldl shaRound h).length = h.length := by
    induction l with
    | nil => intro h; rfl
    | cons x t ih => intro h; rw [List.foldl_cons, ih, shaRound_length]
  simp [shaBlock, this]

theorem shaBlocks_length (n : Nat) (h : List W32) (l : List Byte) : (shaBlocks n h l).length = h.length := by
  induction n generalizing h l with
  | zero => rfl
  | succ n ih => rw [shaBlocks, ih, shaBlock_length]

theorem sha256_length (msg : List Byte) : (sha256 msg).length = 32 := by
  have h (n : Nat) (l : List Byte) : (shaBlocks n shaInit l).length = 8 := by rw [shaBlocks_length]; rfl
  simp only [sha256, List.length_flatMap, List.length_map, List.length_range, List.map_const', List.sum_replicate_nat, h]

/-- The hash that an image carries as a number (R135). -/
theorem sha256_toNat (msg : List Byte) : (BitVec.ofNat 256 (ofBytes (sha256 msg))).toNat = ofBytes (sha256 msg) := by
  have h := ofBytes_lt (sha256 msg)
  rw [sha256_length] at h
  exact Nat.mod_eq_of_lt h

end Sys2Proof.Machine
end

