-- ==== Sys2Proof/Laws/Decode.lean ====
section
/-!
SUPPORT. Decoding bytes comes to decoding words, and bytes read from memory come to those words.
-/

namespace Sys2Proof.Machine

/-- The length that goes with a decoded word. -/
def withLength (w0 : Nat) : Except Bad Instr → Except Bad (Instr × Nat)
  | .ok i => .ok (i, if Sys2Proof.isLong w0 then 8 else 4)
  | .error e => .error e

theorem decode_four (b0 b1 b2 b3 : Byte) : decode [b0, b1, b2, b3] =
    withLength (wordOfBytes b0 b1 b2 b3) (decodeWords (wordOfBytes b0 b1 b2 b3) none) := by
  unfold decode withLength
  rfl

theorem decode_eight (b0 b1 b2 b3 c0 c1 c2 c3 : Byte) (t : List Byte) :
    decode (b0 :: b1 :: b2 :: b3 :: c0 :: c1 :: c2 :: c3 :: t) =
    withLength (wordOfBytes b0 b1 b2 b3)
      (decodeWords (wordOfBytes b0 b1 b2 b3) (some (wordOfBytes c0 c1 c2 c3))) := by
  unfold decode withLength
  rfl

theorem wordOfBytes_eq (b0 b1 b2 b3 : Byte) : wordOfBytes b0 b1 b2 b3 = ofBytes [b0, b1, b2, b3] := by
  simp [wordOfBytes, ofBytes]

@[simp] theorem State.readV_length (s : State) (a n : Nat) : (s.readV a n).length = n := by
  induction n generalizing a with
  | zero => rfl
  | succ n ih => simp [State.readV, ih]

theorem State.readV_four (s : State) (a : Nat) : ∃ b0 b1 b2 b3, s.readV a 4 = [b0, b1, b2, b3] := ⟨_, _, _, _, rfl⟩

theorem State.readV_eight (s : State) (a : Nat) : s.readV a 8 = s.readV a 4 ++ s.readV (a + 4) 4 := by
  simp [State.readV, Nat.add_assoc]

/-- The bytes at a PC decode as its words do. -/
theorem State.decode_readV_four (s : State) (pc : Nat) :
    decode (s.readV pc 4) = withLength (s.fetchWord pc) (decodeWords (s.fetchWord pc) none) := by
  obtain ⟨b0, b1, b2, b3, h⟩ := s.readV_four pc
  rw [State.fetchWord, h, decode_four, wordOfBytes_eq]

theorem State.decode_readV_eight (s : State) (pc : Nat) :
    decode (s.readV pc 8) =
      withLength (s.fetchWord pc) (decodeWords (s.fetchWord pc) (some (s.fetchWord (pc + 4)))) := by
  obtain ⟨b0, b1, b2, b3, h⟩ := s.readV_four pc
  obtain ⟨c0, c1, c2, c3, h'⟩ := s.readV_four (pc + 4)
  rw [State.fetchWord, State.fetchWord, s.readV_eight, h, h']
  exact (decode_eight ..).trans (by rw [wordOfBytes_eq, wordOfBytes_eq])

/-- A long form needs its second word. -/
theorem short_of_decode {w0 : Nat} {i : Instr} (h : decodeWords w0 none = .ok i) : Sys2Proof.isLong w0 = false := by
  unfold decodeWords at h
  unfold Sys2Proof.isLong
  split at h
  · simp; omega
  · split at h
    · simp; omega
    · split at h <;> cases h

/-- What decodes is no word of the unassigned majors 0x7A to 0x7F, so an instruction of two words is one of 0x70 to
0x79. -/
theorem long_of_decode {w0 : Nat} {w1 : Option Nat} {i : Instr} (h : decodeWords w0 w1 = .ok i) :
    (decide (0x70 ≤ majorOf w0) && decide (majorOf w0 < 0x7A)) = Sys2Proof.isLong w0 := by
  have : majorOf w0 < 0x7A := by
    unfold decodeWords at h
    split at h
    · omega
    · split at h
      · omega
      · split at h
        · cases h
        · omega
  simp [Sys2Proof.isLong, this]

/-- A clean, aligned PC in the code object whose bytes decode gives that instruction. -/
theorem State.fetchAt_of_decode {s : State} {pc : Nat} {i : Instr} {n : Nat} (ha : pc % 4 = 0) (hc : s.inCode pc = true)
    (h : decode (s.readV pc (if s.inCode (pc + 4) then 8 else 4)) = .ok (i, n)) (hp : s.poisonedAt pc n = false) :
    s.fetchAt pc = .instr (s.fetchWord pc) i := by
  have key : ∀ w1, withLength (s.fetchWord pc) (decodeWords (s.fetchWord pc) w1) = .ok (i, n) →
      decodeWords (s.fetchWord pc) w1 = .ok i ∧ n = if Sys2Proof.isLong (s.fetchWord pc) then 8 else 4 := by
    intro w1 h
    cases hd : decodeWords (s.fetchWord pc) w1 with
    | error e => rw [hd] at h; cases h
    | ok j => rw [hd] at h; cases h; exact ⟨rfl, rfl⟩
  simp only [State.fetchAt, ha, hc, ne_eq, not_true_eq_false, if_false, Bool.not_true, Bool.false_eq_true]
  split at h
  · rename_i h4
    rw [s.decode_readV_eight] at h
    obtain ⟨hd, rfl⟩ := key _ h
    simp only [h4, if_true, Bool.and_true, long_of_decode hd, hp, hd, Bool.false_eq_true, if_false]
  · rename_i h4
    rw [s.decode_readV_four] at h
    obtain ⟨hd, rfl⟩ := key _ h
    rw [short_of_decode hd] at hp
    simp only [h4, Bool.and_false, hd, Bool.false_eq_true, if_false] at hp ⊢
    simp only [hp, Bool.false_eq_true, if_false]

end Sys2Proof.Machine
end

