-- ==== Sys2Proof/Laws/Tab.lean ====
section
/-!
SUPPORT. Tables: what each operation leaves at each key.
-/

namespace Sys2Proof.Machine

variable {α : Type}

@[simp] theorem tget?_nil (k : Nat) : tget? ([] : Tab α) k = none := rfl

@[simp] theorem tget?_tset_same (t : Tab α) (k : Nat) (x : α) : tget? (tset t k x) k = some x := by
  induction t with
  | nil => simp [tset, tget?]
  | cons e t ih =>
    obtain ⟨j, y⟩ := e
    simp only [tset]
    split
    · simp [tget?]
    · split
      · simp [tget?]
      · have : j ≠ k := fun h => by subst h; contradiction
        simpa [tget?, this] using ih

theorem tget?_tset_other (t : Tab α) (k j : Nat) (x : α) (h : j ≠ k) : tget? (tset t k x) j = tget? t j := by
  induction t with
  | nil => simp [tset, tget?, Ne.symm h]
  | cons e t ih =>
    obtain ⟨i, y⟩ := e
    simp only [tset]
    split
    · simp [tget?, Ne.symm h]
    · split
      · rename_i _ hk
        subst hk
        simp [tget?, Ne.symm h]
      · simp only [tget?]
        split
        · rfl
        · exact ih

theorem tget?_tset (t : Tab α) (k j : Nat) (x : α) :
    tget? (tset t k x) j = if j = k then some x else tget? t j := by
  split
  · subst_vars; exact tget?_tset_same ..
  · exact tget?_tset_other _ _ _ _ ‹_›

@[simp] theorem tget_tset_same (t : Tab α) (k : Nat) (x d : α) : tget (tset t k x) k d = x := by simp [tget]

theorem tget_tset_other (t : Tab α) (k j : Nat) (x d : α) (h : j ≠ k) : tget (tset t k x) j d = tget t j d := by
  simp [tget, tget?_tset_other _ _ _ _ h]

theorem tget?_tmap (t : Tab α) (k j : Nat) (f : α → α) :
    tget? (tmap t k f) j = if j = k then (tget? t j).map f else tget? t j := by
  induction t with
  | nil => simp [tmap, tget?]
  | cons e t ih =>
    obtain ⟨i, y⟩ := e
    by_cases hj : j = k
    · subst hj
      simp only [tmap, List.map_cons, if_true] at ih ⊢
      by_cases hi : i = j
      · simp [tget?, hi]
      · simp only [hi, if_false, tget?]
        exact ih
    · simp only [tmap, List.map_cons, hj, if_false] at ih ⊢
      by_cases hi : i = k
      · subst hi
        simp only [if_true, tget?, Ne.symm hj, if_false]
        exact ih
      · simp only [hi, if_false, tget?]
        split
        · rfl
        · exact ih

@[simp] theorem tget?_tmap_same (t : Tab α) (k : Nat) (f : α → α) :
    tget? (tmap t k f) k = (tget? t k).map f := by simp [tget?_tmap]

theorem tget?_terase (t : Tab α) (k j : Nat) :
    tget? (terase t k) j = if j = k then none else tget? t j := by
  induction t with
  | nil => simp [terase, tget?]
  | cons e t ih =>
    obtain ⟨i, y⟩ := e
    simp only [terase, List.filter_cons] at ih ⊢
    by_cases hi : i = k
    · subst hi
      simp only [bne_self_eq_false, Bool.false_eq_true, if_false]
      rw [ih]
      by_cases hj : j = i
      · simp [hj]
      · simp [hj, tget?, Ne.symm hj]
    · have hb : (i != k) = true := by simpa using hi
      simp only [hb, if_true, tget?, ih]
      by_cases hij : i = j
      · subst hij; simp [hi]
      · simp [hij]

theorem tget?_filter (t : Tab α) (p : Nat → Bool) (k : Nat) (h : p k = true) :
    tget? (t.filter (fun e => p e.1)) k = tget? t k := by
  induction t with
  | nil => rfl
  | cons e t ih =>
    obtain ⟨i, y⟩ := e
    simp only [List.filter_cons]
    by_cases hi : i = k
    · subst hi; simp [h, tget?]
    · split
      · simp [tget?, hi, ih]
      · simp [tget?, hi, ih]

@[simp] theorem lget_nil (i : Nat) (d : α) : lget ([] : List α) i d = d := by simp [lget]

theorem lget_lset_same (l : List α) (i : Nat) (x d : α) (h : i < l.length) : lget (lset l i x) i d = x := by
  induction l generalizing i with
  | nil => simp at h
  | cons y t ih =>
    cases i with
    | zero => simp [lset, lget]
    | succ i => simpa [lset, lget] using ih i (by simpa using h)

theorem lget_lset_other (l : List α) (i j : Nat) (x d : α) (h : j ≠ i) : lget (lset l i x) j d = lget l j d := by
  induction l generalizing i j with
  | nil => simp [lset]
  | cons y t ih =>
    cases i with
    | zero => cases j with
      | zero => contradiction
      | succ j => simp [lset, lget]
    | succ i => cases j with
      | zero => simp [lset, lget]
      | succ j => simpa [lset, lget] using ih i j (by omega)

end Sys2Proof.Machine
end

