-- ==== Sys2Proof/Laws/Memory.lean ====
section
/-!
SUPPORT. Memory: a read after a write, and every operation keeps the canonical form.
-/

namespace Sys2Proof.Machine

/-! Cell lists. -/

theorem risingFrom_mono {l : List Host.Cell} {m n : Nat} (h : risingFrom n l = true) (hm : m ≤ n) :
    risingFrom m l = true := by
  cases l with
  | nil => rfl
  | cons e t =>
    obtain ⟨a, x⟩ := e
    simp only [risingFrom, Bool.and_eq_true, decide_eq_true_eq] at h ⊢
    exact ⟨by omega, h.2⟩

theorem cellAt_cellPut (l : List Host.Cell) (a b : Nat) (x : Byte) :
    cellAt (cellPut l a x) b = if b = a then some x else cellAt l b := by
  induction l with
  | nil => by_cases hb : b = a <;> simp [cellPut, cellAt, hb, Ne.symm]
  | cons e t ih =>
    obtain ⟨c, z⟩ := e
    simp only [cellPut]
    by_cases hac : a < c
    · by_cases hb : b = a
      · simp [hac, cellAt, hb]
      · simp [hac, cellAt, hb, Ne.symm hb]
    · by_cases hac' : a = c
      · subst hac'
        by_cases hb : b = a
        · simp [cellAt, hb]
        · simp [cellAt, hb, Ne.symm hb]
      · simp only [hac, hac', if_false, cellAt, ih]
        by_cases hb : b = a
        · subst hb; simp [Ne.symm hac']
        · simp [hb]

theorem cellAt_cellDrop (l : List Host.Cell) (a b : Nat) :
    cellAt (cellDrop l a) b = if b = a then none else cellAt l b := by
  induction l with
  | nil => simp [cellDrop, cellAt]
  | cons e t ih =>
    obtain ⟨c, z⟩ := e
    simp only [cellDrop] at ih
    simp only [cellDrop, List.filter_cons, bne_iff_ne, ne_eq]
    by_cases hc : c = a
    · subst hc
      by_cases hb : b = c
      · subst hb; simpa using ih
      · simp [ih, hb, cellAt, Ne.symm hb]
    · by_cases hb : b = a
      · subst hb; simp [hc, cellAt, ih]
      · simp [hc, cellAt, ih, hb]

theorem risingFrom_cellPut {l : List Host.Cell} {n : Nat} (h : risingFrom n l = true) (a : Nat) (ha : n ≤ a)
    (x : Byte) : risingFrom n (cellPut l a x) = true := by
  induction l generalizing n with
  | nil => simp [cellPut, risingFrom, ha]
  | cons e t ih =>
    obtain ⟨c, z⟩ := e
    simp only [risingFrom, Bool.and_eq_true, decide_eq_true_eq] at h
    simp only [cellPut]
    split
    · simp only [risingFrom, Bool.and_eq_true, decide_eq_true_eq]; exact ⟨ha, by omega, h.2⟩
    · split
      · subst_vars
        simp [risingFrom, h]
      · simp only [risingFrom, Bool.and_eq_true, decide_eq_true_eq]
        exact ⟨h.1, ih h.2 (by omega)⟩

theorem all_cellPut (p : Host.Cell → Bool) {l : List Host.Cell} (h : l.all p = true) (a : Nat) (x : Byte)
    (hx : p (a, x) = true) : (cellPut l a x).all p = true := by
  induction l with
  | nil => simp [cellPut, hx]
  | cons e t ih =>
    obtain ⟨c, z⟩ := e
    simp only [List.all_cons, Bool.and_eq_true] at h
    simp only [cellPut]
    split
    · simp [hx, h]
    · split
      · simp [hx, h]
      · simp [h.1, ih h.2]

theorem risingFrom_filter (q : Nat → Bool) {l : List Host.Cell} {n : Nat} (h : risingFrom n l = true) :
    risingFrom n (l.filter (fun c => q c.1)) = true := by
  induction l generalizing n with
  | nil => rfl
  | cons e t ih =>
    obtain ⟨c, z⟩ := e
    simp only [risingFrom, Bool.and_eq_true, decide_eq_true_eq] at h
    simp only [List.filter_cons]
    split
    · simp only [risingFrom, Bool.and_eq_true, decide_eq_true_eq]; exact ⟨h.1, ih h.2⟩
    · exact risingFrom_mono (ih h.2) (by omega)

/-! The canonical form. -/

theorem Memory.wf_iff (m : Memory) :
    m.wf = true ↔ risingFrom 0 m.cells = true ∧ ∀ c ∈ m.cells, c.2 ≠ m.background c.1 := by
  simp [Memory.wf]

@[simp] theorem Memory.wf_empty : Memory.empty.wf = true := rfl

@[simp] theorem State.reset_mem_wf : State.reset.mem.wf = true := rfl

@[simp] theorem Memory.background_write (m : Memory) (a b : Nat) (x : Byte) :
    (m.write a x).background b = m.background b := rfl

theorem Memory.wf_write {m : Memory} (h : m.wf = true) (a : Nat) (x : Byte) : (m.write a x).wf = true := by
  rw [Memory.wf_iff] at h
  by_cases hx : x = m.background a
  · rw [Memory.wf_iff]
    simp only [Memory.write, if_pos hx]
    refine ⟨risingFrom_filter (fun b => b != a) h.1, ?_⟩
    intro c hc
    exact h.2 c (List.mem_filter.mp hc).1
  · have hp : m.cells.all (fun c => c.2 != m.background c.1) = true := by simpa using h.2
    simp only [Memory.wf, Memory.write, if_neg hx, Bool.and_eq_true]
    exact ⟨risingFrom_cellPut h.1 a (by omega) _, all_cellPut _ hp a x (by simpa [Memory.background] using hx)⟩

theorem Memory.wf_writeL {m : Memory} (h : m.wf = true) (a : Nat) (l : List Byte) : (m.writeL a l).wf = true := by
  induction l generalizing m a with
  | nil => exact h
  | cons x t ih => exact ih (Memory.wf_write h a x) (a + 1)

theorem Memory.wf_fill {m : Memory} (h : m.wf = true) (lo len : Nat) (p : Pattern) : (m.fill lo len p).wf = true := by
  rw [Memory.wf_iff] at h ⊢
  refine ⟨risingFrom_filter (fun a => a < lo || lo + len ≤ a) h.1, ?_⟩
  intro c hc
  simp only [Memory.fill, List.mem_filter, Bool.or_eq_true, decide_eq_true_eq] at hc
  have : ¬ (lo ≤ c.1 ∧ c.1 < lo + len) := by omega
  simpa [Memory.background, Memory.fill, fillByte, this] using h.2 c hc.1

/-- The form depends on the cells and the fillings only. -/
theorem Memory.wf_meta (m : Memory) (capped : List Nat) (lines : Tab LineState) (tags poison : List Nat) :
    ({ m with capped := capped, lines := lines, tags := tags, poison := poison } : Memory).wf = m.wf := rfl

/-! Reads after writes. -/

theorem Memory.read_write (m : Memory) (a b : Nat) (x : Byte) :
    (m.write a x).read b = if b = a then x else m.read b := by
  have hbg : (m.write a x).background b = m.background b := rfl
  simp only [Memory.read, hbg]
  by_cases hx : x = m.background a
  · simp only [Memory.write, if_pos hx, cellAt_cellDrop]
    split
    · subst_vars; rfl
    · rfl
  · simp only [Memory.write, if_neg hx, cellAt_cellPut]
    split <;> rfl

theorem Memory.read_write_same (m : Memory) (a : Nat) (x : Byte) : (m.write a x).read a = x := by
  simp [Memory.read_write]

theorem Memory.read_write_other (m : Memory) {a b : Nat} (x : Byte) (hb : b ≠ a) :
    (m.write a x).read b = m.read b := by
  simp [Memory.read_write, hb]

theorem Memory.read_writeL (m : Memory) (a b : Nat) (l : List Byte) :
    (m.writeL a l).read b = if a ≤ b ∧ b < a + l.length then lget l (b - a) 0 else m.read b := by
  induction l generalizing m a with
  | nil =>
    have h0 : ¬ (a ≤ b ∧ b < a + ([] : List Byte).length) := by rw [List.length_nil]; omega
    rw [if_neg h0]; rfl
  | cons x t ih =>
    simp only [Memory.writeL, ih, Memory.read_write, List.length_cons]
    by_cases h1 : b = a
    · subst h1
      have h2 : ¬ (b + 1 ≤ b ∧ b < b + 1 + t.length) := by omega
      have h3 : b ≤ b ∧ b < b + (t.length + 1) := by omega
      rw [if_neg h2, if_pos rfl, if_pos h3, Nat.sub_self]; rfl
    · by_cases h2 : a + 1 ≤ b ∧ b < a + 1 + t.length
      · have h3 : a ≤ b ∧ b < a + (t.length + 1) := by omega
        have h4 : b - a = (b - (a + 1)) + 1 := by omega
        simp [h2, h3, h4, lget]
      · have h3 : ¬ (a ≤ b ∧ b < a + (t.length + 1)) := by omega
        rw [if_neg h2, if_neg h1, if_neg h3]

theorem Memory.read_fill (m : Memory) (lo len b : Nat) (p : Pattern) :
    (m.fill lo len p).read b = if lo ≤ b ∧ b < lo + len then p.byte b else m.read b := by
  have hc : ∀ (l : List Host.Cell), cellAt (l.filter (fun c => decide (c.1 < lo) || decide (lo + len ≤ c.1))) b =
      if lo ≤ b ∧ b < lo + len then none else cellAt l b := by
    intro l
    induction l with
    | nil => simp [cellAt]
    | cons e t ih =>
      obtain ⟨c, z⟩ := e
      simp only [List.filter_cons]
      by_cases hcb : c = b
      · subst hcb
        by_cases hin : lo ≤ c ∧ c < lo + len
        · have : (decide (c < lo) || decide (lo + len ≤ c)) = false := by simp; omega
          simp [this, ih, hin]
        · have : (decide (c < lo) || decide (lo + len ≤ c)) = true := by simp; omega
          simp [this, hin, cellAt]
      · split <;> simp [cellAt, hcb, ih]
  simp only [Memory.read, Memory.fill, Memory.background, fillByte, hc]
  split <;> simp

/-! Bytes and numbers. -/

@[simp] theorem toBytes_length (w n : Nat) : (toBytes w n).length = n := by
  induction n generalizing w with
  | zero => rfl
  | succ n ih => simp [toBytes, ih]

@[simp] theorem Memory.readN_length (m : Memory) (a n : Nat) : (m.readN a n).length = n := by
  induction n generalizing a with
  | zero => rfl
  | succ n ih => simp [Memory.readN, ih]

theorem ofBytes_toBytes (w n : Nat) : ofBytes (toBytes w n) = w % 256 ^ n := by
  induction n generalizing w with
  | zero => simp [toBytes, ofBytes, Nat.mod_one]
  | succ n ih =>
    have h8 : (BitVec.ofNat 8 w).toNat = w % 256 := rfl
    rw [toBytes, ofBytes, ih, h8, Nat.pow_succ, Nat.mul_comm (256 ^ n) 256, Nat.mod_mul]

end Sys2Proof.Machine
end

