-- ==== Sys2Proof/Laws/State.lean ====
section
/-!
SUPPORT. What each update of the state leaves of each field, so that no proof unfolds a record update.
-/

namespace Sys2Proof.Machine

/-! onLn. -/

@[simp] theorem State.onLn_sched (s : State) (f : Lane → Lane) : (s.onLn f).sched = s.sched := rfl
@[simp] theorem State.onLn_tick (s : State) (f : Lane → Lane) : (s.onLn f).tick = s.tick := rfl
@[simp] theorem State.onLn_ir (s : State) (f : Lane → Lane) : (s.onLn f).ir = s.ir := rfl
@[simp] theorem State.onLn_cur (s : State) (f : Lane → Lane) : (s.onLn f).cur = s.cur := rfl
@[simp] theorem State.onLn_ln (s : State) (f : Lane → Lane) : (s.onLn f).ln = f s.ln := rfl
@[simp] theorem State.onLn_kid (s : State) (f : Lane → Lane) : (s.onLn f).kid = s.kid := rfl
@[simp] theorem State.onLn_k (s : State) (f : Lane → Lane) : (s.onLn f).k = s.k := rfl
@[simp] theorem State.onLn_others (s : State) (f : Lane → Lane) : (s.onLn f).others = s.others := rfl
@[simp] theorem State.onLn_mem (s : State) (f : Lane → Lane) : (s.onLn f).mem = s.mem := rfl
@[simp] theorem State.onLn_hw (s : State) (f : Lane → Lane) : (s.onLn f).hw = s.hw := rfl
@[simp] theorem State.onLn_cyc (s : State) (f : Lane → Lane) : (s.onLn f).cyc = s.cyc := rfl
@[simp] theorem State.onLn_time (s : State) (f : Lane → Lane) : (s.onLn f).time = s.time := rfl

/-! onK. -/

@[simp] theorem State.onK_sched (s : State) (f : Ctx → Ctx) : (s.onK f).sched = s.sched := rfl
@[simp] theorem State.onK_tick (s : State) (f : Ctx → Ctx) : (s.onK f).tick = s.tick := rfl
@[simp] theorem State.onK_ir (s : State) (f : Ctx → Ctx) : (s.onK f).ir = s.ir := rfl
@[simp] theorem State.onK_cur (s : State) (f : Ctx → Ctx) : (s.onK f).cur = s.cur := rfl
@[simp] theorem State.onK_ln (s : State) (f : Ctx → Ctx) : (s.onK f).ln = s.ln := rfl
@[simp] theorem State.onK_kid (s : State) (f : Ctx → Ctx) : (s.onK f).kid = s.kid := rfl
@[simp] theorem State.onK_k (s : State) (f : Ctx → Ctx) : (s.onK f).k = f s.k := rfl
@[simp] theorem State.onK_others (s : State) (f : Ctx → Ctx) : (s.onK f).others = s.others := rfl
@[simp] theorem State.onK_mem (s : State) (f : Ctx → Ctx) : (s.onK f).mem = s.mem := rfl
@[simp] theorem State.onK_hw (s : State) (f : Ctx → Ctx) : (s.onK f).hw = s.hw := rfl
@[simp] theorem State.onK_cyc (s : State) (f : Ctx → Ctx) : (s.onK f).cyc = s.cyc := rfl
@[simp] theorem State.onK_time (s : State) (f : Ctx → Ctx) : (s.onK f).time = s.time := rfl

/-! onPkg. -/

@[simp] theorem State.onPkg_sched (s : State) (p : Nat) (f : Pkg → Pkg) : (s.onPkg p f).sched = s.sched := rfl
@[simp] theorem State.onPkg_tick (s : State) (p : Nat) (f : Pkg → Pkg) : (s.onPkg p f).tick = s.tick := rfl
@[simp] theorem State.onPkg_ir (s : State) (p : Nat) (f : Pkg → Pkg) : (s.onPkg p f).ir = s.ir := rfl
@[simp] theorem State.onPkg_cur (s : State) (p : Nat) (f : Pkg → Pkg) : (s.onPkg p f).cur = s.cur := rfl
@[simp] theorem State.onPkg_ln (s : State) (p : Nat) (f : Pkg → Pkg) : (s.onPkg p f).ln = s.ln := rfl
@[simp] theorem State.onPkg_kid (s : State) (p : Nat) (f : Pkg → Pkg) : (s.onPkg p f).kid = s.kid := rfl
@[simp] theorem State.onPkg_k (s : State) (p : Nat) (f : Pkg → Pkg) : (s.onPkg p f).k = s.k := rfl
@[simp] theorem State.onPkg_others (s : State) (p : Nat) (f : Pkg → Pkg) : (s.onPkg p f).others = s.others := rfl
@[simp] theorem State.onPkg_mem (s : State) (p : Nat) (f : Pkg → Pkg) : (s.onPkg p f).mem = s.mem := rfl
@[simp] theorem State.onPkg_hw (s : State) (p : Nat) (f : Pkg → Pkg) : (s.onPkg p f).hw = tset s.hw p (f (tget s.hw p Pkg.init)) := rfl
@[simp] theorem State.onPkg_cyc (s : State) (p : Nat) (f : Pkg → Pkg) : (s.onPkg p f).cyc = s.cyc := rfl
@[simp] theorem State.onPkg_time (s : State) (p : Nat) (f : Pkg → Pkg) : (s.onPkg p f).time = s.time := rfl

/-! onCore. -/

@[simp] theorem State.onCore_sched (s : State) (c : Nat) (f : CoreSt → CoreSt) : (s.onCore c f).sched = s.sched := rfl
@[simp] theorem State.onCore_tick (s : State) (c : Nat) (f : CoreSt → CoreSt) : (s.onCore c f).tick = s.tick := rfl
@[simp] theorem State.onCore_ir (s : State) (c : Nat) (f : CoreSt → CoreSt) : (s.onCore c f).ir = s.ir := rfl
@[simp] theorem State.onCore_cur (s : State) (c : Nat) (f : CoreSt → CoreSt) : (s.onCore c f).cur = s.cur := rfl
@[simp] theorem State.onCore_ln (s : State) (c : Nat) (f : CoreSt → CoreSt) : (s.onCore c f).ln = s.ln := rfl
@[simp] theorem State.onCore_kid (s : State) (c : Nat) (f : CoreSt → CoreSt) : (s.onCore c f).kid = s.kid := rfl
@[simp] theorem State.onCore_k (s : State) (c : Nat) (f : CoreSt → CoreSt) : (s.onCore c f).k = { s.k with cores := tset s.k.cores c (f (tget s.k.cores c CoreSt.init)) } := rfl
@[simp] theorem State.onCore_others (s : State) (c : Nat) (f : CoreSt → CoreSt) : (s.onCore c f).others = s.others := rfl
@[simp] theorem State.onCore_mem (s : State) (c : Nat) (f : CoreSt → CoreSt) : (s.onCore c f).mem = s.mem := rfl
@[simp] theorem State.onCore_hw (s : State) (c : Nat) (f : CoreSt → CoreSt) : (s.onCore c f).hw = s.hw := rfl
@[simp] theorem State.onCore_cyc (s : State) (c : Nat) (f : CoreSt → CoreSt) : (s.onCore c f).cyc = s.cyc := rfl
@[simp] theorem State.onCore_time (s : State) (c : Nat) (f : CoreSt → CoreSt) : (s.onCore c f).time = s.time := rfl

/-! onComb. -/

@[simp] theorem State.onComb_sched (s : State) (c : Nat) (f : CombSt → CombSt) : (s.onComb c f).sched = s.sched := rfl
@[simp] theorem State.onComb_tick (s : State) (c : Nat) (f : CombSt → CombSt) : (s.onComb c f).tick = s.tick := rfl
@[simp] theorem State.onComb_ir (s : State) (c : Nat) (f : CombSt → CombSt) : (s.onComb c f).ir = s.ir := rfl
@[simp] theorem State.onComb_cur (s : State) (c : Nat) (f : CombSt → CombSt) : (s.onComb c f).cur = s.cur := rfl
@[simp] theorem State.onComb_ln (s : State) (c : Nat) (f : CombSt → CombSt) : (s.onComb c f).ln = s.ln := rfl
@[simp] theorem State.onComb_kid (s : State) (c : Nat) (f : CombSt → CombSt) : (s.onComb c f).kid = s.kid := rfl
@[simp] theorem State.onComb_k (s : State) (c : Nat) (f : CombSt → CombSt) : (s.onComb c f).k = { s.k with combs := tset s.k.combs c (f (s.comb c)) } := rfl
@[simp] theorem State.onComb_others (s : State) (c : Nat) (f : CombSt → CombSt) : (s.onComb c f).others = s.others := rfl
@[simp] theorem State.onComb_mem (s : State) (c : Nat) (f : CombSt → CombSt) : (s.onComb c f).mem = s.mem := rfl
@[simp] theorem State.onComb_hw (s : State) (c : Nat) (f : CombSt → CombSt) : (s.onComb c f).hw = s.hw := rfl
@[simp] theorem State.onComb_cyc (s : State) (c : Nat) (f : CombSt → CombSt) : (s.onComb c f).cyc = s.cyc := rfl
@[simp] theorem State.onComb_time (s : State) (c : Nat) (f : CombSt → CombSt) : (s.onComb c f).time = s.time := rfl

/-! onRec. -/

@[simp] theorem State.onRec_sched (s : State) (n : Nat) (f : Rec → Rec) : (s.onRec n f).sched = s.sched := rfl
@[simp] theorem State.onRec_tick (s : State) (n : Nat) (f : Rec → Rec) : (s.onRec n f).tick = s.tick := rfl
@[simp] theorem State.onRec_ir (s : State) (n : Nat) (f : Rec → Rec) : (s.onRec n f).ir = s.ir := rfl
@[simp] theorem State.onRec_cur (s : State) (n : Nat) (f : Rec → Rec) : (s.onRec n f).cur = s.cur := rfl
@[simp] theorem State.onRec_ln (s : State) (n : Nat) (f : Rec → Rec) : (s.onRec n f).ln = s.ln := rfl
@[simp] theorem State.onRec_kid (s : State) (n : Nat) (f : Rec → Rec) : (s.onRec n f).kid = s.kid := rfl
@[simp] theorem State.onRec_k (s : State) (n : Nat) (f : Rec → Rec) : (s.onRec n f).k = { s.k with recs := tmap s.k.recs n f } := rfl
@[simp] theorem State.onRec_others (s : State) (n : Nat) (f : Rec → Rec) : (s.onRec n f).others = s.others := rfl
@[simp] theorem State.onRec_mem (s : State) (n : Nat) (f : Rec → Rec) : (s.onRec n f).mem = s.mem := rfl
@[simp] theorem State.onRec_hw (s : State) (n : Nat) (f : Rec → Rec) : (s.onRec n f).hw = s.hw := rfl
@[simp] theorem State.onRec_cyc (s : State) (n : Nat) (f : Rec → Rec) : (s.onRec n f).cyc = s.cyc := rfl
@[simp] theorem State.onRec_time (s : State) (n : Nat) (f : Rec → Rec) : (s.onRec n f).time = s.time := rfl

/-! onGroup. -/

@[simp] theorem State.onGroup_sched (s : State) (g : Nat) (f : Group → Group) : (s.onGroup g f).sched = s.sched := rfl
@[simp] theorem State.onGroup_tick (s : State) (g : Nat) (f : Group → Group) : (s.onGroup g f).tick = s.tick := rfl
@[simp] theorem State.onGroup_ir (s : State) (g : Nat) (f : Group → Group) : (s.onGroup g f).ir = s.ir := rfl
@[simp] theorem State.onGroup_cur (s : State) (g : Nat) (f : Group → Group) : (s.onGroup g f).cur = s.cur := rfl
@[simp] theorem State.onGroup_ln (s : State) (g : Nat) (f : Group → Group) : (s.onGroup g f).ln = s.ln := rfl
@[simp] theorem State.onGroup_kid (s : State) (g : Nat) (f : Group → Group) : (s.onGroup g f).kid = s.kid := rfl
@[simp] theorem State.onGroup_k (s : State) (g : Nat) (f : Group → Group) : (s.onGroup g f).k = { s.k with groups := tmap s.k.groups g f } := rfl
@[simp] theorem State.onGroup_others (s : State) (g : Nat) (f : Group → Group) : (s.onGroup g f).others = s.others := rfl
@[simp] theorem State.onGroup_mem (s : State) (g : Nat) (f : Group → Group) : (s.onGroup g f).mem = s.mem := rfl
@[simp] theorem State.onGroup_hw (s : State) (g : Nat) (f : Group → Group) : (s.onGroup g f).hw = s.hw := rfl
@[simp] theorem State.onGroup_cyc (s : State) (g : Nat) (f : Group → Group) : (s.onGroup g f).cyc = s.cyc := rfl
@[simp] theorem State.onGroup_time (s : State) (g : Nat) (f : Group → Group) : (s.onGroup g f).time = s.time := rfl

/-! wV. -/

@[simp] theorem State.wV_sched (s : State) (r : VReg) (x : Vec) : (s.wV r x).sched = s.sched := rfl
@[simp] theorem State.wV_tick (s : State) (r : VReg) (x : Vec) : (s.wV r x).tick = s.tick := rfl
@[simp] theorem State.wV_ir (s : State) (r : VReg) (x : Vec) : (s.wV r x).ir = s.ir := rfl
@[simp] theorem State.wV_cur (s : State) (r : VReg) (x : Vec) : (s.wV r x).cur = s.cur := rfl
@[simp] theorem State.wV_ln (s : State) (r : VReg) (x : Vec) : (s.wV r x).ln = { s.ln with v := s.ln.v.set r.val x, liveV := s.ln.liveV ||| BitVec.twoPow 32 r.val } := rfl
@[simp] theorem State.wV_kid (s : State) (r : VReg) (x : Vec) : (s.wV r x).kid = s.kid := rfl
@[simp] theorem State.wV_k (s : State) (r : VReg) (x : Vec) : (s.wV r x).k = s.k := rfl
@[simp] theorem State.wV_others (s : State) (r : VReg) (x : Vec) : (s.wV r x).others = s.others := rfl
@[simp] theorem State.wV_mem (s : State) (r : VReg) (x : Vec) : (s.wV r x).mem = s.mem := rfl
@[simp] theorem State.wV_hw (s : State) (r : VReg) (x : Vec) : (s.wV r x).hw = s.hw := rfl
@[simp] theorem State.wV_cyc (s : State) (r : VReg) (x : Vec) : (s.wV r x).cyc = s.cyc := rfl
@[simp] theorem State.wV_time (s : State) (r : VReg) (x : Vec) : (s.wV r x).time = s.time := rfl

/-! wM. -/

@[simp] theorem State.wM_sched (s : State) (r : MReg) (x : Mask) : (s.wM r x).sched = s.sched := rfl
@[simp] theorem State.wM_tick (s : State) (r : MReg) (x : Mask) : (s.wM r x).tick = s.tick := rfl
@[simp] theorem State.wM_ir (s : State) (r : MReg) (x : Mask) : (s.wM r x).ir = s.ir := rfl
@[simp] theorem State.wM_cur (s : State) (r : MReg) (x : Mask) : (s.wM r x).cur = s.cur := rfl
@[simp] theorem State.wM_ln (s : State) (r : MReg) (x : Mask) : (s.wM r x).ln = { s.ln with m := s.ln.m.set r.val x, liveM := s.ln.liveM ||| BitVec.twoPow 8 r.val } := rfl
@[simp] theorem State.wM_kid (s : State) (r : MReg) (x : Mask) : (s.wM r x).kid = s.kid := rfl
@[simp] theorem State.wM_k (s : State) (r : MReg) (x : Mask) : (s.wM r x).k = s.k := rfl
@[simp] theorem State.wM_others (s : State) (r : MReg) (x : Mask) : (s.wM r x).others = s.others := rfl
@[simp] theorem State.wM_mem (s : State) (r : MReg) (x : Mask) : (s.wM r x).mem = s.mem := rfl
@[simp] theorem State.wM_hw (s : State) (r : MReg) (x : Mask) : (s.wM r x).hw = s.hw := rfl
@[simp] theorem State.wM_cyc (s : State) (r : MReg) (x : Mask) : (s.wM r x).cyc = s.cyc := rfl
@[simp] theorem State.wM_time (s : State) (r : MReg) (x : Mask) : (s.wM r x).time = s.time := rfl

/-! wS. -/

@[simp] theorem State.wS_sched (s : State) (r : SReg) (x : Word) : (s.wS r x).sched = s.sched := by unfold State.wS; split <;> rfl
@[simp] theorem State.wS_tick (s : State) (r : SReg) (x : Word) : (s.wS r x).tick = s.tick := by unfold State.wS; split <;> rfl
@[simp] theorem State.wS_ir (s : State) (r : SReg) (x : Word) : (s.wS r x).ir = s.ir := by unfold State.wS; split <;> rfl
@[simp] theorem State.wS_cur (s : State) (r : SReg) (x : Word) : (s.wS r x).cur = s.cur := by unfold State.wS; split <;> rfl
@[simp] theorem State.wS_kid (s : State) (r : SReg) (x : Word) : (s.wS r x).kid = s.kid := by unfold State.wS; split <;> rfl
@[simp] theorem State.wS_k (s : State) (r : SReg) (x : Word) : (s.wS r x).k = s.k := by unfold State.wS; split <;> rfl
@[simp] theorem State.wS_others (s : State) (r : SReg) (x : Word) : (s.wS r x).others = s.others := by unfold State.wS; split <;> rfl
@[simp] theorem State.wS_mem (s : State) (r : SReg) (x : Word) : (s.wS r x).mem = s.mem := by unfold State.wS; split <;> rfl
@[simp] theorem State.wS_hw (s : State) (r : SReg) (x : Word) : (s.wS r x).hw = s.hw := by unfold State.wS; split <;> rfl
@[simp] theorem State.wS_cyc (s : State) (r : SReg) (x : Word) : (s.wS r x).cyc = s.cyc := by unfold State.wS; split <;> rfl
@[simp] theorem State.wS_time (s : State) (r : SReg) (x : Word) : (s.wS r x).time = s.time := by unfold State.wS; split <;> rfl

/-! wC. -/

@[simp] theorem State.wC_sched (s : State) (r : CReg) (x : Cap) : (s.wC r x).sched = s.sched := by unfold State.wC; split <;> rfl
@[simp] theorem State.wC_tick (s : State) (r : CReg) (x : Cap) : (s.wC r x).tick = s.tick := by unfold State.wC; split <;> rfl
@[simp] theorem State.wC_ir (s : State) (r : CReg) (x : Cap) : (s.wC r x).ir = s.ir := by unfold State.wC; split <;> rfl
@[simp] theorem State.wC_cur (s : State) (r : CReg) (x : Cap) : (s.wC r x).cur = s.cur := by unfold State.wC; split <;> rfl
@[simp] theorem State.wC_kid (s : State) (r : CReg) (x : Cap) : (s.wC r x).kid = s.kid := by unfold State.wC; split <;> rfl
@[simp] theorem State.wC_k (s : State) (r : CReg) (x : Cap) : (s.wC r x).k = s.k := by unfold State.wC; split <;> rfl
@[simp] theorem State.wC_others (s : State) (r : CReg) (x : Cap) : (s.wC r x).others = s.others := by unfold State.wC; split <;> rfl
@[simp] theorem State.wC_mem (s : State) (r : CReg) (x : Cap) : (s.wC r x).mem = s.mem := by unfold State.wC; split <;> rfl
@[simp] theorem State.wC_hw (s : State) (r : CReg) (x : Cap) : (s.wC r x).hw = s.hw := by unfold State.wC; split <;> rfl
@[simp] theorem State.wC_cyc (s : State) (r : CReg) (x : Cap) : (s.wC r x).cyc = s.cyc := by unfold State.wC; split <;> rfl
@[simp] theorem State.wC_time (s : State) (r : CReg) (x : Cap) : (s.wC r x).time = s.time := by unfold State.wC; split <;> rfl

/-! killMarked. -/

@[simp] theorem State.killMarked_sched (s : State) (i : Instr) : (s.killMarked i).sched = s.sched := rfl
@[simp] theorem State.killMarked_tick (s : State) (i : Instr) : (s.killMarked i).tick = s.tick := rfl
@[simp] theorem State.killMarked_ir (s : State) (i : Instr) : (s.killMarked i).ir = s.ir := rfl
@[simp] theorem State.killMarked_cur (s : State) (i : Instr) : (s.killMarked i).cur = s.cur := rfl
@[simp] theorem State.killMarked_kid (s : State) (i : Instr) : (s.killMarked i).kid = s.kid := rfl
@[simp] theorem State.killMarked_k (s : State) (i : Instr) : (s.killMarked i).k = s.k := rfl
@[simp] theorem State.killMarked_others (s : State) (i : Instr) : (s.killMarked i).others = s.others := rfl
@[simp] theorem State.killMarked_mem (s : State) (i : Instr) : (s.killMarked i).mem = s.mem := rfl
@[simp] theorem State.killMarked_hw (s : State) (i : Instr) : (s.killMarked i).hw = s.hw := rfl
@[simp] theorem State.killMarked_cyc (s : State) (i : Instr) : (s.killMarked i).cyc = s.cyc := rfl
@[simp] theorem State.killMarked_time (s : State) (i : Instr) : (s.killMarked i).time = s.time := rfl

/-! retire. -/

@[simp] theorem State.retire_sched (s : State) (i : Instr) (pc : Word) (b dep : Bool) : (s.retire i pc b dep).sched = s.sched := rfl
@[simp] theorem State.retire_tick (s : State) (i : Instr) (pc : Word) (b dep : Bool) : (s.retire i pc b dep).tick = s.tick := rfl
@[simp] theorem State.retire_ir (s : State) (i : Instr) (pc : Word) (b dep : Bool) : (s.retire i pc b dep).ir = s.ir := rfl
@[simp] theorem State.retire_cur (s : State) (i : Instr) (pc : Word) (b dep : Bool) : (s.retire i pc b dep).cur = s.cur := rfl
@[simp] theorem State.retire_kid (s : State) (i : Instr) (pc : Word) (b dep : Bool) : (s.retire i pc b dep).kid = s.kid := rfl
@[simp] theorem State.retire_k (s : State) (i : Instr) (pc : Word) (b dep : Bool) : (s.retire i pc b dep).k = s.k := rfl
@[simp] theorem State.retire_others (s : State) (i : Instr) (pc : Word) (b dep : Bool) : (s.retire i pc b dep).others = s.others := rfl
@[simp] theorem State.retire_mem (s : State) (i : Instr) (pc : Word) (b dep : Bool) : (s.retire i pc b dep).mem = s.mem := rfl
@[simp] theorem State.retire_hw (s : State) (i : Instr) (pc : Word) (b dep : Bool) : (s.retire i pc b dep).hw = s.hw := rfl
@[simp] theorem State.retire_cyc (s : State) (i : Instr) (pc : Word) (b dep : Bool) : (s.retire i pc b dep).cyc = s.cyc := rfl
@[simp] theorem State.retire_time (s : State) (i : Instr) (pc : Word) (b dep : Bool) : (s.retire i pc b dep).time = s.time := rfl

/-! push. -/

@[simp] theorem State.push_sched (s : State) (e : Eff) (o : Ord) : (s.push e o).sched = s.sched := rfl
@[simp] theorem State.push_tick (s : State) (e : Eff) (o : Ord) : (s.push e o).tick = s.tick := rfl
@[simp] theorem State.push_ir (s : State) (e : Eff) (o : Ord) : (s.push e o).ir = s.ir := rfl
@[simp] theorem State.push_cur (s : State) (e : Eff) (o : Ord) : (s.push e o).cur = s.cur := rfl
@[simp] theorem State.push_kid (s : State) (e : Eff) (o : Ord) : (s.push e o).kid = s.kid := rfl
@[simp] theorem State.push_k (s : State) (e : Eff) (o : Ord) : (s.push e o).k = s.k := rfl
@[simp] theorem State.push_others (s : State) (e : Eff) (o : Ord) : (s.push e o).others = s.others := rfl
@[simp] theorem State.push_mem (s : State) (e : Eff) (o : Ord) : (s.push e o).mem = s.mem := rfl
@[simp] theorem State.push_hw (s : State) (e : Eff) (o : Ord) : (s.push e o).hw = s.hw := rfl
@[simp] theorem State.push_cyc (s : State) (e : Eff) (o : Ord) : (s.push e o).cyc = s.cyc := rfl
@[simp] theorem State.push_time (s : State) (e : Eff) (o : Ord) : (s.push e o).time = s.time := rfl

/-! suspend. -/

@[simp] theorem State.suspend_sched (s : State) (u : Susp) : (s.suspend u).sched = s.sched := rfl
@[simp] theorem State.suspend_tick (s : State) (u : Susp) : (s.suspend u).tick = s.tick := rfl
@[simp] theorem State.suspend_ir (s : State) (u : Susp) : (s.suspend u).ir = s.ir := rfl
@[simp] theorem State.suspend_cur (s : State) (u : Susp) : (s.suspend u).cur = s.cur := rfl
@[simp] theorem State.suspend_ln (s : State) (u : Susp) : (s.suspend u).ln = { s.ln with susp := some u } := rfl
@[simp] theorem State.suspend_kid (s : State) (u : Susp) : (s.suspend u).kid = s.kid := rfl
@[simp] theorem State.suspend_k (s : State) (u : Susp) : (s.suspend u).k = s.k := rfl
@[simp] theorem State.suspend_others (s : State) (u : Susp) : (s.suspend u).others = s.others := rfl
@[simp] theorem State.suspend_mem (s : State) (u : Susp) : (s.suspend u).mem = s.mem := rfl
@[simp] theorem State.suspend_hw (s : State) (u : Susp) : (s.suspend u).hw = s.hw := rfl
@[simp] theorem State.suspend_cyc (s : State) (u : Susp) : (s.suspend u).cyc = s.cyc := rfl
@[simp] theorem State.suspend_time (s : State) (u : Susp) : (s.suspend u).time = s.time := rfl

/-! send. -/

@[simp] theorem State.send_sched (s : State) (e : Entry) (task actn gid lcore : Nat) : (s.send e task actn gid lcore).sched = s.sched := rfl
@[simp] theorem State.send_tick (s : State) (e : Entry) (task actn gid lcore : Nat) : (s.send e task actn gid lcore).tick = s.tick := rfl
@[simp] theorem State.send_ir (s : State) (e : Entry) (task actn gid lcore : Nat) : (s.send e task actn gid lcore).ir = s.ir := rfl
@[simp] theorem State.send_cur (s : State) (e : Entry) (task actn gid lcore : Nat) : (s.send e task actn gid lcore).cur = s.cur := rfl
@[simp] theorem State.send_ln (s : State) (e : Entry) (task actn gid lcore : Nat) : (s.send e task actn gid lcore).ln = s.ln := rfl
@[simp] theorem State.send_kid (s : State) (e : Entry) (task actn gid lcore : Nat) : (s.send e task actn gid lcore).kid = s.kid := rfl
@[simp] theorem State.send_others (s : State) (e : Entry) (task actn gid lcore : Nat) : (s.send e task actn gid lcore).others = s.others := rfl
@[simp] theorem State.send_mem (s : State) (e : Entry) (task actn gid lcore : Nat) : (s.send e task actn gid lcore).mem = s.mem := rfl
@[simp] theorem State.send_hw (s : State) (e : Entry) (task actn gid lcore : Nat) : (s.send e task actn gid lcore).hw = s.wired (s.newFlit e task actn gid lcore) := rfl
@[simp] theorem State.send_cyc (s : State) (e : Entry) (task actn gid lcore : Nat) : (s.send e task actn gid lcore).cyc = s.cyc := rfl
@[simp] theorem State.send_time (s : State) (e : Entry) (task actn gid lcore : Nat) : (s.send e task actn gid lcore).time = s.time := rfl

/-! ticked. -/

@[simp] theorem State.ticked_sched (s : State) : (s.ticked).sched = s.sched := rfl
@[simp] theorem State.ticked_tick (s : State) : (s.ticked).tick = s.tick + 1 := rfl
@[simp] theorem State.ticked_ir (s : State) : (s.ticked).ir = s.ir := rfl
@[simp] theorem State.ticked_cur (s : State) : (s.ticked).cur = s.cur := rfl
@[simp] theorem State.ticked_ln (s : State) : (s.ticked).ln = s.ln := rfl
@[simp] theorem State.ticked_kid (s : State) : (s.ticked).kid = s.kid := rfl
@[simp] theorem State.ticked_k (s : State) : (s.ticked).k = s.k := rfl
@[simp] theorem State.ticked_others (s : State) : (s.ticked).others = s.others := rfl
@[simp] theorem State.ticked_mem (s : State) : (s.ticked).mem = s.mem := rfl
@[simp] theorem State.ticked_hw (s : State) : (s.ticked).hw = s.hw := rfl
@[simp] theorem State.ticked_cyc (s : State) : (s.ticked).cyc = s.cyc := rfl
@[simp] theorem State.ticked_time (s : State) : (s.ticked).time = s.time := rfl

/-! tickBy. -/

@[simp] theorem State.tickBy_sched (s : State) (n : Nat) : (s.tickBy n).sched = s.sched := rfl
@[simp] theorem State.tickBy_tick (s : State) (n : Nat) : (s.tickBy n).tick = s.tick + n := rfl
@[simp] theorem State.tickBy_ir (s : State) (n : Nat) : (s.tickBy n).ir = s.ir := rfl
@[simp] theorem State.tickBy_cur (s : State) (n : Nat) : (s.tickBy n).cur = s.cur := rfl
@[simp] theorem State.tickBy_ln (s : State) (n : Nat) : (s.tickBy n).ln = s.ln := rfl
@[simp] theorem State.tickBy_kid (s : State) (n : Nat) : (s.tickBy n).kid = s.kid := rfl
@[simp] theorem State.tickBy_k (s : State) (n : Nat) : (s.tickBy n).k = s.k := rfl
@[simp] theorem State.tickBy_others (s : State) (n : Nat) : (s.tickBy n).others = s.others := rfl
@[simp] theorem State.tickBy_mem (s : State) (n : Nat) : (s.tickBy n).mem = s.mem := rfl
@[simp] theorem State.tickBy_hw (s : State) (n : Nat) : (s.tickBy n).hw = s.hw := rfl
@[simp] theorem State.tickBy_cyc (s : State) (n : Nat) : (s.tickBy n).cyc = s.cyc := rfl
@[simp] theorem State.tickBy_time (s : State) (n : Nat) : (s.tickBy n).time = s.time := rfl

/-! onFlit. -/

@[simp] theorem State.onFlit_sched (s : State) (id : Nat) (g : Flit → Flit) : (s.onFlit id g).sched = s.sched := rfl
@[simp] theorem State.onFlit_tick (s : State) (id : Nat) (g : Flit → Flit) : (s.onFlit id g).tick = s.tick := rfl
@[simp] theorem State.onFlit_ir (s : State) (id : Nat) (g : Flit → Flit) : (s.onFlit id g).ir = s.ir := rfl
@[simp] theorem State.onFlit_cur (s : State) (id : Nat) (g : Flit → Flit) : (s.onFlit id g).cur = s.cur := rfl
@[simp] theorem State.onFlit_ln (s : State) (id : Nat) (g : Flit → Flit) : (s.onFlit id g).ln = s.ln := rfl
@[simp] theorem State.onFlit_kid (s : State) (id : Nat) (g : Flit → Flit) : (s.onFlit id g).kid = s.kid := rfl
@[simp] theorem State.onFlit_k (s : State) (id : Nat) (g : Flit → Flit) : (s.onFlit id g).k = { s.k with flits := s.k.flits.map (fun f => if f.id = id then g f else f) } := rfl
@[simp] theorem State.onFlit_others (s : State) (id : Nat) (g : Flit → Flit) : (s.onFlit id g).others = s.others := rfl
@[simp] theorem State.onFlit_mem (s : State) (id : Nat) (g : Flit → Flit) : (s.onFlit id g).mem = s.mem := rfl
@[simp] theorem State.onFlit_hw (s : State) (id : Nat) (g : Flit → Flit) : (s.onFlit id g).hw = s.hw := rfl
@[simp] theorem State.onFlit_cyc (s : State) (id : Nat) (g : Flit → Flit) : (s.onFlit id g).cyc = s.cyc := rfl
@[simp] theorem State.onFlit_time (s : State) (id : Nat) (g : Flit → Flit) : (s.onFlit id g).time = s.time := rfl

/-! noteTag. -/

@[simp] theorem State.noteTag_sched (s : State) (tag : Nat) : (s.noteTag tag).sched = s.sched := rfl
@[simp] theorem State.noteTag_tick (s : State) (tag : Nat) : (s.noteTag tag).tick = s.tick := rfl
@[simp] theorem State.noteTag_ir (s : State) (tag : Nat) : (s.noteTag tag).ir = s.ir := rfl
@[simp] theorem State.noteTag_cur (s : State) (tag : Nat) : (s.noteTag tag).cur = s.cur := rfl
@[simp] theorem State.noteTag_ln (s : State) (tag : Nat) : (s.noteTag tag).ln = s.ln := rfl
@[simp] theorem State.noteTag_kid (s : State) (tag : Nat) : (s.noteTag tag).kid = s.kid := rfl
@[simp] theorem State.noteTag_k (s : State) (tag : Nat) : (s.noteTag tag).k = { s.k with accepted := tset s.k.accepted tag s.time } := rfl
@[simp] theorem State.noteTag_others (s : State) (tag : Nat) : (s.noteTag tag).others = s.others := rfl
@[simp] theorem State.noteTag_mem (s : State) (tag : Nat) : (s.noteTag tag).mem = s.mem := rfl
@[simp] theorem State.noteTag_hw (s : State) (tag : Nat) : (s.noteTag tag).hw = s.hw := rfl
@[simp] theorem State.noteTag_cyc (s : State) (tag : Nat) : (s.noteTag tag).cyc = s.cyc := rfl
@[simp] theorem State.noteTag_time (s : State) (tag : Nat) : (s.noteTag tag).time = s.time := rfl

/-! complete. -/

@[simp] theorem State.complete_sched (s : State) (e : BitVec 256) : (s.complete e).sched = s.sched := rfl
@[simp] theorem State.complete_tick (s : State) (e : BitVec 256) : (s.complete e).tick = s.tick := rfl
@[simp] theorem State.complete_ir (s : State) (e : BitVec 256) : (s.complete e).ir = s.ir := rfl
@[simp] theorem State.complete_cur (s : State) (e : BitVec 256) : (s.complete e).cur = s.cur := rfl
@[simp] theorem State.complete_ln (s : State) (e : BitVec 256) : (s.complete e).ln = s.ln := rfl
@[simp] theorem State.complete_kid (s : State) (e : BitVec 256) : (s.complete e).kid = s.kid := rfl
@[simp] theorem State.complete_k (s : State) (e : BitVec 256) : (s.complete e).k = { s.k with host := { s.k.host with waiting := s.k.host.waiting ++ [e] } } := rfl
@[simp] theorem State.complete_others (s : State) (e : BitVec 256) : (s.complete e).others = s.others := rfl
@[simp] theorem State.complete_mem (s : State) (e : BitVec 256) : (s.complete e).mem = s.mem := rfl
@[simp] theorem State.complete_hw (s : State) (e : BitVec 256) : (s.complete e).hw = s.hw := rfl
@[simp] theorem State.complete_cyc (s : State) (e : BitVec 256) : (s.complete e).cyc = s.cyc := rfl
@[simp] theorem State.complete_time (s : State) (e : BitVec 256) : (s.complete e).time = s.time := rfl

/-! writeBack. -/

@[simp] theorem State.writeBack_sched (s : State) (l : Nat) : (s.writeBack l).sched = s.sched := rfl
@[simp] theorem State.writeBack_tick (s : State) (l : Nat) : (s.writeBack l).tick = s.tick := rfl
@[simp] theorem State.writeBack_ir (s : State) (l : Nat) : (s.writeBack l).ir = s.ir := rfl
@[simp] theorem State.writeBack_cur (s : State) (l : Nat) : (s.writeBack l).cur = s.cur := rfl
@[simp] theorem State.writeBack_ln (s : State) (l : Nat) : (s.writeBack l).ln = s.ln := rfl
@[simp] theorem State.writeBack_kid (s : State) (l : Nat) : (s.writeBack l).kid = s.kid := rfl
@[simp] theorem State.writeBack_others (s : State) (l : Nat) : (s.writeBack l).others = s.others := rfl
@[simp] theorem State.writeBack_mem (s : State) (l : Nat) : (s.writeBack l).mem = s.mem := rfl
@[simp] theorem State.writeBack_hw (s : State) (l : Nat) : (s.writeBack l).hw = s.hw := rfl
@[simp] theorem State.writeBack_cyc (s : State) (l : Nat) : (s.writeBack l).cyc = s.cyc := rfl
@[simp] theorem State.writeBack_time (s : State) (l : Nat) : (s.writeBack l).time = s.time := rfl

/-! wakeUp. -/

@[simp] theorem State.wakeUp_sched (s : State) (n q : Nat) (a : Know) (e : End) (r : WakeRes) (b : Bool) : (s.wakeUp n q a e r b).sched = s.sched := rfl
@[simp] theorem State.wakeUp_tick (s : State) (n q : Nat) (a : Know) (e : End) (r : WakeRes) (b : Bool) : (s.wakeUp n q a e r b).tick = s.tick := rfl
@[simp] theorem State.wakeUp_ir (s : State) (n q : Nat) (a : Know) (e : End) (r : WakeRes) (b : Bool) : (s.wakeUp n q a e r b).ir = s.ir := rfl
@[simp] theorem State.wakeUp_cur (s : State) (n q : Nat) (a : Know) (e : End) (r : WakeRes) (b : Bool) : (s.wakeUp n q a e r b).cur = s.cur := rfl
@[simp] theorem State.wakeUp_ln (s : State) (n q : Nat) (a : Know) (e : End) (r : WakeRes) (b : Bool) : (s.wakeUp n q a e r b).ln = s.ln := rfl
@[simp] theorem State.wakeUp_kid (s : State) (n q : Nat) (a : Know) (e : End) (r : WakeRes) (b : Bool) : (s.wakeUp n q a e r b).kid = s.kid := rfl
@[simp] theorem State.wakeUp_k (s : State) (n q : Nat) (a : Know) (e : End) (r : WakeRes) (b : Bool) : (s.wakeUp n q a e r b).k = { s.k with wakes := s.k.wakes ++ [⟨n, q, a, r, b, e.pkg, s.time, 0, none⟩] } := rfl
@[simp] theorem State.wakeUp_others (s : State) (n q : Nat) (a : Know) (e : End) (r : WakeRes) (b : Bool) : (s.wakeUp n q a e r b).others = s.others := rfl
@[simp] theorem State.wakeUp_mem (s : State) (n q : Nat) (a : Know) (e : End) (r : WakeRes) (b : Bool) : (s.wakeUp n q a e r b).mem = s.mem := rfl
@[simp] theorem State.wakeUp_hw (s : State) (n q : Nat) (a : Know) (e : End) (r : WakeRes) (b : Bool) : (s.wakeUp n q a e r b).hw = s.wakeSent n e := rfl
@[simp] theorem State.wakeUp_cyc (s : State) (n q : Nat) (a : Know) (e : End) (r : WakeRes) (b : Bool) : (s.wakeUp n q a e r b).cyc = s.cyc := rfl
@[simp] theorem State.wakeUp_time (s : State) (n q : Nat) (a : Know) (e : End) (r : WakeRes) (b : Bool) : (s.wakeUp n q a e r b).time = s.time := rfl

/-! startRead. -/

@[simp] theorem State.startRead_sched (s : State) (kind : ReadKind) (va len d : Nat) (pc : Word) (acq : Option Scope) : (s.startRead kind va len d pc acq).sched = s.sched := rfl
@[simp] theorem State.startRead_tick (s : State) (kind : ReadKind) (va len d : Nat) (pc : Word) (acq : Option Scope) : (s.startRead kind va len d pc acq).tick = s.tick := rfl
@[simp] theorem State.startRead_ir (s : State) (kind : ReadKind) (va len d : Nat) (pc : Word) (acq : Option Scope) : (s.startRead kind va len d pc acq).ir = s.ir := rfl
@[simp] theorem State.startRead_cur (s : State) (kind : ReadKind) (va len d : Nat) (pc : Word) (acq : Option Scope) : (s.startRead kind va len d pc acq).cur = s.cur := rfl
@[simp] theorem State.startRead_ln (s : State) (kind : ReadKind) (va len d : Nat) (pc : Word) (acq : Option Scope) : (s.startRead kind va len d pc acq).ln = { s.ln with rd := some ⟨kind, va, len, d, pc, acq, s.time, 0, none⟩ } := rfl
@[simp] theorem State.startRead_kid (s : State) (kind : ReadKind) (va len d : Nat) (pc : Word) (acq : Option Scope) : (s.startRead kind va len d pc acq).kid = s.kid := rfl
@[simp] theorem State.startRead_k (s : State) (kind : ReadKind) (va len d : Nat) (pc : Word) (acq : Option Scope) : (s.startRead kind va len d pc acq).k = s.k := rfl
@[simp] theorem State.startRead_others (s : State) (kind : ReadKind) (va len d : Nat) (pc : Word) (acq : Option Scope) : (s.startRead kind va len d pc acq).others = s.others := rfl
@[simp] theorem State.startRead_mem (s : State) (kind : ReadKind) (va len d : Nat) (pc : Word) (acq : Option Scope) : (s.startRead kind va len d pc acq).mem = s.mem := rfl
@[simp] theorem State.startRead_hw (s : State) (kind : ReadKind) (va len d : Nat) (pc : Word) (acq : Option Scope) : (s.startRead kind va len d pc acq).hw = s.askHome s.lcore va := rfl
@[simp] theorem State.startRead_cyc (s : State) (kind : ReadKind) (va len d : Nat) (pc : Word) (acq : Option Scope) : (s.startRead kind va len d pc acq).cyc = s.cyc := rfl
@[simp] theorem State.startRead_time (s : State) (kind : ReadKind) (va len d : Nat) (pc : Word) (acq : Option Scope) : (s.startRead kind va len d pc acq).time = s.time := rfl

/-! resend. -/

@[simp] theorem State.resend_sched (s : State) (f : Flit) : (s.resend f).sched = s.sched := rfl
@[simp] theorem State.resend_tick (s : State) (f : Flit) : (s.resend f).tick = s.tick := rfl
@[simp] theorem State.resend_ir (s : State) (f : Flit) : (s.resend f).ir = s.ir := rfl
@[simp] theorem State.resend_cur (s : State) (f : Flit) : (s.resend f).cur = s.cur := rfl
@[simp] theorem State.resend_ln (s : State) (f : Flit) : (s.resend f).ln = s.ln := rfl
@[simp] theorem State.resend_kid (s : State) (f : Flit) : (s.resend f).kid = s.kid := rfl
@[simp] theorem State.resend_k (s : State) (f : Flit) : (s.resend f).k = { s.k with flits := s.k.flits.map (fun g => if g.id = f.id then { g with resends := g.resends + 1 } else g) } := rfl
@[simp] theorem State.resend_others (s : State) (f : Flit) : (s.resend f).others = s.others := rfl
@[simp] theorem State.resend_mem (s : State) (f : Flit) : (s.resend f).mem = s.mem := rfl
@[simp] theorem State.resend_hw (s : State) (f : Flit) : (s.resend f).hw = s.wired f := rfl
@[simp] theorem State.resend_cyc (s : State) (f : Flit) : (s.resend f).cyc = s.cyc := rfl
@[simp] theorem State.resend_time (s : State) (f : Flit) : (s.resend f).time = s.time := rfl

/-! gain. -/

@[simp] theorem State.gain_sched (s : State) (k : Know) : (s.gain k).sched = s.sched := rfl
@[simp] theorem State.gain_tick (s : State) (k : Know) : (s.gain k).tick = s.tick := rfl
@[simp] theorem State.gain_ir (s : State) (k : Know) : (s.gain k).ir = s.ir := rfl
@[simp] theorem State.gain_cur (s : State) (k : Know) : (s.gain k).cur = s.cur := rfl
@[simp] theorem State.gain_ln (s : State) (k : Know) : (s.gain k).ln = { s.ln with know := Know.join s.ln.know k } := rfl
@[simp] theorem State.gain_kid (s : State) (k : Know) : (s.gain k).kid = s.kid := rfl
@[simp] theorem State.gain_k (s : State) (k : Know) : (s.gain k).k = s.k := rfl
@[simp] theorem State.gain_others (s : State) (k : Know) : (s.gain k).others = s.others := rfl
@[simp] theorem State.gain_mem (s : State) (k : Know) : (s.gain k).mem = s.mem := rfl
@[simp] theorem State.gain_hw (s : State) (k : Know) : (s.gain k).hw = s.hw := rfl
@[simp] theorem State.gain_cyc (s : State) (k : Know) : (s.gain k).cyc = s.cyc := rfl
@[simp] theorem State.gain_time (s : State) (k : Know) : (s.gain k).time = s.time := rfl

/-! wakeAcked. -/

@[simp] theorem State.wakeAcked_sched (s : State) (w : Wake) : (s.wakeAcked w).sched = s.sched := rfl
@[simp] theorem State.wakeAcked_tick (s : State) (w : Wake) : (s.wakeAcked w).tick = s.tick := rfl
@[simp] theorem State.wakeAcked_ir (s : State) (w : Wake) : (s.wakeAcked w).ir = s.ir := rfl
@[simp] theorem State.wakeAcked_cur (s : State) (w : Wake) : (s.wakeAcked w).cur = s.cur := rfl
@[simp] theorem State.wakeAcked_ln (s : State) (w : Wake) : (s.wakeAcked w).ln = s.ln := rfl
@[simp] theorem State.wakeAcked_kid (s : State) (w : Wake) : (s.wakeAcked w).kid = s.kid := rfl
@[simp] theorem State.wakeAcked_k (s : State) (w : Wake) : (s.wakeAcked w).k = s.k := rfl
@[simp] theorem State.wakeAcked_others (s : State) (w : Wake) : (s.wakeAcked w).others = s.others := rfl
@[simp] theorem State.wakeAcked_mem (s : State) (w : Wake) : (s.wakeAcked w).mem = s.mem := rfl
@[simp] theorem State.wakeAcked_hw (s : State) (w : Wake) : (s.wakeAcked w).hw = s.wire 2 (2 ^ 69 + s.time) (s.bankEnd w.task) ⟨w.src, 0, 0⟩ := rfl
@[simp] theorem State.wakeAcked_cyc (s : State) (w : Wake) : (s.wakeAcked w).cyc = s.cyc := rfl
@[simp] theorem State.wakeAcked_time (s : State) (w : Wake) : (s.wakeAcked w).time = s.time := rfl

/-! fetched. -/

@[simp] theorem State.fetched_sched (s : State) (l va : Nat) : (s.fetched l va).sched = s.sched := rfl
@[simp] theorem State.fetched_tick (s : State) (l va : Nat) : (s.fetched l va).tick = s.tick := rfl
@[simp] theorem State.fetched_ir (s : State) (l va : Nat) : (s.fetched l va).ir = s.ir := rfl
@[simp] theorem State.fetched_cur (s : State) (l va : Nat) : (s.fetched l va).cur = s.cur := rfl
@[simp] theorem State.fetched_ln (s : State) (l va : Nat) : (s.fetched l va).ln = s.ln := rfl
@[simp] theorem State.fetched_kid (s : State) (l va : Nat) : (s.fetched l va).kid = s.kid := rfl
@[simp] theorem State.fetched_k (s : State) (l va : Nat) : (s.fetched l va).k = s.k := rfl
@[simp] theorem State.fetched_others (s : State) (l va : Nat) : (s.fetched l va).others = s.others := rfl
@[simp] theorem State.fetched_mem (s : State) (l va : Nat) : (s.fetched l va).mem = s.mem := rfl
@[simp] theorem State.fetched_hw (s : State) (l va : Nat) : (s.fetched l va).hw = ({ s with hw := s.askHome l va } : State).answerHome l va := rfl
@[simp] theorem State.fetched_cyc (s : State) (l va : Nat) : (s.fetched l va).cyc = s.cyc := rfl
@[simp] theorem State.fetched_time (s : State) (l va : Nat) : (s.fetched l va).time = s.time := rfl

/-! clearRun. -/

@[simp] theorem State.clearRun_sched (s : State) : (s.clearRun).sched = s.sched := rfl
@[simp] theorem State.clearRun_tick (s : State) : (s.clearRun).tick = s.tick := rfl
@[simp] theorem State.clearRun_ir (s : State) : (s.clearRun).ir = s.ir := rfl
@[simp] theorem State.clearRun_cur (s : State) : (s.clearRun).cur = 0 := rfl
@[simp] theorem State.clearRun_ln (s : State) : (s.clearRun).ln = Lane.init := rfl
@[simp] theorem State.clearRun_kid (s : State) : (s.clearRun).kid = s.kid := rfl
@[simp] theorem State.clearRun_others (s : State) : (s.clearRun).others = s.others := rfl
@[simp] theorem State.clearRun_mem (s : State) : (s.clearRun).mem = s.mem := rfl
@[simp] theorem State.clearRun_hw (s : State) : (s.clearRun).hw = s.hw := rfl
@[simp] theorem State.clearRun_cyc (s : State) : (s.clearRun).cyc = s.cyc := rfl
@[simp] theorem State.clearRun_time (s : State) : (s.clearRun).time = s.time := rfl

/-! The lane. -/

@[simp] theorem State.killMarked_ln_s (s : State) (i : Instr) : (s.killMarked i).ln.s = s.ln.s := rfl
@[simp] theorem State.killMarked_ln_v (s : State) (i : Instr) : (s.killMarked i).ln.v = s.ln.v := rfl
@[simp] theorem State.killMarked_ln_m (s : State) (i : Instr) : (s.killMarked i).ln.m = s.ln.m := rfl
@[simp] theorem State.killMarked_ln_c (s : State) (i : Instr) : (s.killMarked i).ln.c = s.ln.c := rfl
@[simp] theorem State.killMarked_ln_pc (s : State) (i : Instr) : (s.killMarked i).ln.pc = s.ln.pc := rfl
@[simp] theorem State.killMarked_ln_fpc (s : State) (i : Instr) : (s.killMarked i).ln.fpc = s.ln.fpc := rfl
@[simp] theorem State.killMarked_ln_flags (s : State) (i : Instr) : (s.killMarked i).ln.flags = s.ln.flags := rfl
@[simp] theorem State.killMarked_ln_nf (s : State) (i : Instr) : (s.killMarked i).ln.nf = s.ln.nf := rfl
@[simp] theorem State.killMarked_ln_fmt (s : State) (i : Instr) : (s.killMarked i).ln.fmt = s.ln.fmt := rfl
@[simp] theorem State.killMarked_ln_trapc (s : State) (i : Instr) : (s.killMarked i).ln.trapc = s.ln.trapc := rfl
@[simp] theorem State.killMarked_ln_trappc (s : State) (i : Instr) : (s.killMarked i).ln.trappc = s.ln.trappc := rfl
@[simp] theorem State.killMarked_ln_trapva (s : State) (i : Instr) : (s.killMarked i).ln.trapva = s.ln.trapva := rfl
@[simp] theorem State.killMarked_ln_budg (s : State) (i : Instr) : (s.killMarked i).ln.budg = s.ln.budg := rfl
@[simp] theorem State.killMarked_ln_budgPc (s : State) (i : Instr) : (s.killMarked i).ln.budgPc = s.ln.budgPc := rfl
@[simp] theorem State.killMarked_ln_st (s : State) (i : Instr) : (s.killMarked i).ln.st = s.ln.st := rfl
@[simp] theorem State.killMarked_ln_task (s : State) (i : Instr) : (s.killMarked i).ln.task = s.ln.task := rfl
@[simp] theorem State.killMarked_ln_box (s : State) (i : Instr) : (s.killMarked i).ln.box = s.ln.box := rfl
@[simp] theorem State.killMarked_ln_boxSig (s : State) (i : Instr) : (s.killMarked i).ln.boxSig = s.ln.boxSig := rfl
@[simp] theorem State.killMarked_ln_blk (s : State) (i : Instr) : (s.killMarked i).ln.blk = s.ln.blk := rfl
@[simp] theorem State.killMarked_ln_sig (s : State) (i : Instr) : (s.killMarked i).ln.sig = s.ln.sig := rfl
@[simp] theorem State.killMarked_ln_mism (s : State) (i : Instr) : (s.killMarked i).ln.mism = s.ln.mism := rfl
@[simp] theorem State.killMarked_ln_susp (s : State) (i : Instr) : (s.killMarked i).ln.susp = s.ln.susp := rfl
@[simp] theorem State.killMarked_ln_fin (s : State) (i : Instr) : (s.killMarked i).ln.fin = s.ln.fin := rfl
@[simp] theorem State.killMarked_ln_cnt (s : State) (i : Instr) : (s.killMarked i).ln.cnt = s.ln.cnt := rfl
@[simp] theorem State.killMarked_ln_seqn (s : State) (i : Instr) : (s.killMarked i).ln.seqn = s.ln.seqn := rfl
@[simp] theorem State.killMarked_ln_rd (s : State) (i : Instr) : (s.killMarked i).ln.rd = s.ln.rd := rfl
@[simp] theorem State.killMarked_ln_wins (s : State) (i : Instr) : (s.killMarked i).ln.wins = s.ln.wins := rfl
@[simp] theorem State.killMarked_ln_rTask (s : State) (i : Instr) : (s.killMarked i).ln.rTask = s.ln.rTask := rfl
@[simp] theorem State.killMarked_ln_rGid (s : State) (i : Instr) : (s.killMarked i).ln.rGid = s.ln.rGid := rfl
@[simp] theorem State.killMarked_ln_rObj (s : State) (i : Instr) : (s.killMarked i).ln.rObj = s.ln.rObj := rfl
@[simp] theorem State.killMarked_ln_from_ (s : State) (i : Instr) : (s.killMarked i).ln.from_ = s.ln.from_ := rfl
@[simp] theorem State.killMarked_ln_preq (s : State) (i : Instr) : (s.killMarked i).ln.preq = s.ln.preq := rfl
@[simp] theorem State.killMarked_ln_never (s : State) (i : Instr) : (s.killMarked i).ln.never = s.ln.never := rfl
@[simp] theorem State.killMarked_ln_tret (s : State) (i : Instr) : (s.killMarked i).ln.tret = s.ln.tret := rfl
@[simp] theorem State.killMarked_ln_tpd (s : State) (i : Instr) : (s.killMarked i).ln.tpd = s.ln.tpd := rfl
@[simp] theorem State.killMarked_ln_lastSig (s : State) (i : Instr) : (s.killMarked i).ln.lastSig = s.ln.lastSig := rfl
@[simp] theorem State.killMarked_ln_selfCancel (s : State) (i : Instr) : (s.killMarked i).ln.selfCancel = s.ln.selfCancel := rfl
@[simp] theorem State.killMarked_ln_know (s : State) (i : Instr) : (s.killMarked i).ln.know = s.ln.know := rfl
@[simp] theorem State.killMarked_ln_reads (s : State) (i : Instr) : (s.killMarked i).ln.reads = s.ln.reads := rfl
@[simp] theorem State.killMarked_ln_pg (s : State) (i : Instr) : (s.killMarked i).ln.pg = s.ln.pg := rfl
@[simp] theorem State.killMarked_ln_wrote (s : State) (i : Instr) : (s.killMarked i).ln.wrote = s.ln.wrote := rfl
@[simp] theorem State.killMarked_ln_acc (s : State) (i : Instr) : (s.killMarked i).ln.acc = s.ln.acc := rfl
@[simp] theorem State.push_ln_s (s : State) (e : Eff) (o : Ord) : (s.push e o).ln.s = s.ln.s := rfl
@[simp] theorem State.push_ln_v (s : State) (e : Eff) (o : Ord) : (s.push e o).ln.v = s.ln.v := rfl
@[simp] theorem State.push_ln_m (s : State) (e : Eff) (o : Ord) : (s.push e o).ln.m = s.ln.m := rfl
@[simp] theorem State.push_ln_c (s : State) (e : Eff) (o : Ord) : (s.push e o).ln.c = s.ln.c := rfl
@[simp] theorem State.push_ln_liveS (s : State) (e : Eff) (o : Ord) : (s.push e o).ln.liveS = s.ln.liveS := rfl
@[simp] theorem State.push_ln_liveV (s : State) (e : Eff) (o : Ord) : (s.push e o).ln.liveV = s.ln.liveV := rfl
@[simp] theorem State.push_ln_liveM (s : State) (e : Eff) (o : Ord) : (s.push e o).ln.liveM = s.ln.liveM := rfl
@[simp] theorem State.push_ln_liveC (s : State) (e : Eff) (o : Ord) : (s.push e o).ln.liveC = s.ln.liveC := rfl
@[simp] theorem State.push_ln_pc (s : State) (e : Eff) (o : Ord) : (s.push e o).ln.pc = s.ln.pc := rfl
@[simp] theorem State.push_ln_fpc (s : State) (e : Eff) (o : Ord) : (s.push e o).ln.fpc = s.ln.fpc := rfl
@[simp] theorem State.push_ln_flags (s : State) (e : Eff) (o : Ord) : (s.push e o).ln.flags = s.ln.flags := rfl
@[simp] theorem State.push_ln_nf (s : State) (e : Eff) (o : Ord) : (s.push e o).ln.nf = s.ln.nf := rfl
@[simp] theorem State.push_ln_fmt (s : State) (e : Eff) (o : Ord) : (s.push e o).ln.fmt = s.ln.fmt := rfl
@[simp] theorem State.push_ln_trapc (s : State) (e : Eff) (o : Ord) : (s.push e o).ln.trapc = s.ln.trapc := rfl
@[simp] theorem State.push_ln_trappc (s : State) (e : Eff) (o : Ord) : (s.push e o).ln.trappc = s.ln.trappc := rfl
@[simp] theorem State.push_ln_trapva (s : State) (e : Eff) (o : Ord) : (s.push e o).ln.trapva = s.ln.trapva := rfl
@[simp] theorem State.push_ln_budg (s : State) (e : Eff) (o : Ord) : (s.push e o).ln.budg = s.ln.budg := rfl
@[simp] theorem State.push_ln_budgPc (s : State) (e : Eff) (o : Ord) : (s.push e o).ln.budgPc = s.ln.budgPc := rfl
@[simp] theorem State.push_ln_task (s : State) (e : Eff) (o : Ord) : (s.push e o).ln.task = s.ln.task := rfl
@[simp] theorem State.push_ln_boxSig (s : State) (e : Eff) (o : Ord) : (s.push e o).ln.boxSig = s.ln.boxSig := rfl
@[simp] theorem State.push_ln_blk (s : State) (e : Eff) (o : Ord) : (s.push e o).ln.blk = s.ln.blk := rfl
@[simp] theorem State.push_ln_sig (s : State) (e : Eff) (o : Ord) : (s.push e o).ln.sig = s.ln.sig := rfl
@[simp] theorem State.push_ln_mism (s : State) (e : Eff) (o : Ord) : (s.push e o).ln.mism = s.ln.mism := rfl
@[simp] theorem State.push_ln_susp (s : State) (e : Eff) (o : Ord) : (s.push e o).ln.susp = s.ln.susp := rfl
@[simp] theorem State.push_ln_fin (s : State) (e : Eff) (o : Ord) : (s.push e o).ln.fin = s.ln.fin := rfl
@[simp] theorem State.push_ln_cnt (s : State) (e : Eff) (o : Ord) : (s.push e o).ln.cnt = s.ln.cnt := rfl
@[simp] theorem State.push_ln_rd (s : State) (e : Eff) (o : Ord) : (s.push e o).ln.rd = s.ln.rd := rfl
@[simp] theorem State.push_ln_wins (s : State) (e : Eff) (o : Ord) : (s.push e o).ln.wins = s.ln.wins := rfl
@[simp] theorem State.push_ln_rTask (s : State) (e : Eff) (o : Ord) : (s.push e o).ln.rTask = s.ln.rTask := rfl
@[simp] theorem State.push_ln_rGid (s : State) (e : Eff) (o : Ord) : (s.push e o).ln.rGid = s.ln.rGid := rfl
@[simp] theorem State.push_ln_rObj (s : State) (e : Eff) (o : Ord) : (s.push e o).ln.rObj = s.ln.rObj := rfl
@[simp] theorem State.push_ln_from_ (s : State) (e : Eff) (o : Ord) : (s.push e o).ln.from_ = s.ln.from_ := rfl
@[simp] theorem State.push_ln_preq (s : State) (e : Eff) (o : Ord) : (s.push e o).ln.preq = s.ln.preq := rfl
@[simp] theorem State.push_ln_never (s : State) (e : Eff) (o : Ord) : (s.push e o).ln.never = s.ln.never := rfl
@[simp] theorem State.push_ln_tret (s : State) (e : Eff) (o : Ord) : (s.push e o).ln.tret = s.ln.tret := rfl
@[simp] theorem State.push_ln_tpd (s : State) (e : Eff) (o : Ord) : (s.push e o).ln.tpd = s.ln.tpd := rfl
@[simp] theorem State.push_ln_lastSig (s : State) (e : Eff) (o : Ord) : (s.push e o).ln.lastSig = s.ln.lastSig := rfl
@[simp] theorem State.push_ln_selfCancel (s : State) (e : Eff) (o : Ord) : (s.push e o).ln.selfCancel = s.ln.selfCancel := rfl
@[simp] theorem State.push_ln_know (s : State) (e : Eff) (o : Ord) : (s.push e o).ln.know = s.ln.know := rfl
@[simp] theorem State.push_ln_reads (s : State) (e : Eff) (o : Ord) : (s.push e o).ln.reads = s.ln.reads := rfl
@[simp] theorem State.push_ln_pg (s : State) (e : Eff) (o : Ord) : (s.push e o).ln.pg = s.ln.pg := rfl
@[simp] theorem State.push_ln_wrote (s : State) (e : Eff) (o : Ord) : (s.push e o).ln.wrote = s.ln.wrote := rfl
@[simp] theorem State.push_ln_acc (s : State) (e : Eff) (o : Ord) : (s.push e o).ln.acc = s.ln.acc := rfl
@[simp] theorem Lane.countDep_s (l : Lane) : l.countDep.s = l.s := by unfold Lane.countDep; split <;> rfl
@[simp] theorem Lane.countDep_v (l : Lane) : l.countDep.v = l.v := by unfold Lane.countDep; split <;> rfl
@[simp] theorem Lane.countDep_m (l : Lane) : l.countDep.m = l.m := by unfold Lane.countDep; split <;> rfl
@[simp] theorem Lane.countDep_c (l : Lane) : l.countDep.c = l.c := by unfold Lane.countDep; split <;> rfl
@[simp] theorem Lane.countDep_liveS (l : Lane) : l.countDep.liveS = l.liveS := by unfold Lane.countDep; split <;> rfl
@[simp] theorem Lane.countDep_liveV (l : Lane) : l.countDep.liveV = l.liveV := by unfold Lane.countDep; split <;> rfl
@[simp] theorem Lane.countDep_liveM (l : Lane) : l.countDep.liveM = l.liveM := by unfold Lane.countDep; split <;> rfl
@[simp] theorem Lane.countDep_liveC (l : Lane) : l.countDep.liveC = l.liveC := by unfold Lane.countDep; split <;> rfl
@[simp] theorem Lane.countDep_pc (l : Lane) : l.countDep.pc = l.pc := by unfold Lane.countDep; split <;> rfl
@[simp] theorem Lane.countDep_fpc (l : Lane) : l.countDep.fpc = l.fpc := by unfold Lane.countDep; split <;> rfl
@[simp] theorem Lane.countDep_nf (l : Lane) : l.countDep.nf = l.nf := by unfold Lane.countDep; split <;> rfl
@[simp] theorem Lane.countDep_fmt (l : Lane) : l.countDep.fmt = l.fmt := by unfold Lane.countDep; split <;> rfl
@[simp] theorem Lane.countDep_trapc (l : Lane) : l.countDep.trapc = l.trapc := by unfold Lane.countDep; split <;> rfl
@[simp] theorem Lane.countDep_trappc (l : Lane) : l.countDep.trappc = l.trappc := by unfold Lane.countDep; split <;> rfl
@[simp] theorem Lane.countDep_trapva (l : Lane) : l.countDep.trapva = l.trapva := by unfold Lane.countDep; split <;> rfl
@[simp] theorem Lane.countDep_budg (l : Lane) : l.countDep.budg = l.budg := by unfold Lane.countDep; split <;> rfl
@[simp] theorem Lane.countDep_budgPc (l : Lane) : l.countDep.budgPc = l.budgPc := by unfold Lane.countDep; split <;> rfl
@[simp] theorem Lane.countDep_st (l : Lane) : l.countDep.st = l.st := by unfold Lane.countDep; split <;> rfl
@[simp] theorem Lane.countDep_task (l : Lane) : l.countDep.task = l.task := by unfold Lane.countDep; split <;> rfl
@[simp] theorem Lane.countDep_box (l : Lane) : l.countDep.box = l.box := by unfold Lane.countDep; split <;> rfl
@[simp] theorem Lane.countDep_boxSig (l : Lane) : l.countDep.boxSig = l.boxSig := by unfold Lane.countDep; split <;> rfl
@[simp] theorem Lane.countDep_blk (l : Lane) : l.countDep.blk = l.blk := by unfold Lane.countDep; split <;> rfl
@[simp] theorem Lane.countDep_sig (l : Lane) : l.countDep.sig = l.sig := by unfold Lane.countDep; split <;> rfl
@[simp] theorem Lane.countDep_mism (l : Lane) : l.countDep.mism = l.mism := by unfold Lane.countDep; split <;> rfl
@[simp] theorem Lane.countDep_susp (l : Lane) : l.countDep.susp = l.susp := by unfold Lane.countDep; split <;> rfl
@[simp] theorem Lane.countDep_fin (l : Lane) : l.countDep.fin = l.fin := by unfold Lane.countDep; split <;> rfl
@[simp] theorem Lane.countDep_cnt (l : Lane) : l.countDep.cnt = l.cnt := by unfold Lane.countDep; split <;> rfl
@[simp] theorem Lane.countDep_seqn (l : Lane) : l.countDep.seqn = l.seqn := by unfold Lane.countDep; split <;> rfl
@[simp] theorem Lane.countDep_rd (l : Lane) : l.countDep.rd = l.rd := by unfold Lane.countDep; split <;> rfl
@[simp] theorem Lane.countDep_wins (l : Lane) : l.countDep.wins = l.wins := by unfold Lane.countDep; split <;> rfl
@[simp] theorem Lane.countDep_rTask (l : Lane) : l.countDep.rTask = l.rTask := by unfold Lane.countDep; split <;> rfl
@[simp] theorem Lane.countDep_rGid (l : Lane) : l.countDep.rGid = l.rGid := by unfold Lane.countDep; split <;> rfl
@[simp] theorem Lane.countDep_rObj (l : Lane) : l.countDep.rObj = l.rObj := by unfold Lane.countDep; split <;> rfl
@[simp] theorem Lane.countDep_from_ (l : Lane) : l.countDep.from_ = l.from_ := by unfold Lane.countDep; split <;> rfl
@[simp] theorem Lane.countDep_preq (l : Lane) : l.countDep.preq = l.preq := by unfold Lane.countDep; split <;> rfl
@[simp] theorem Lane.countDep_never (l : Lane) : l.countDep.never = l.never := by unfold Lane.countDep; split <;> rfl
@[simp] theorem Lane.countDep_tret (l : Lane) : l.countDep.tret = l.tret := by unfold Lane.countDep; split <;> rfl
@[simp] theorem Lane.countDep_tpd (l : Lane) : l.countDep.tpd = l.tpd := by unfold Lane.countDep; split <;> rfl
@[simp] theorem Lane.countDep_lastSig (l : Lane) : l.countDep.lastSig = l.lastSig := by unfold Lane.countDep; split <;> rfl
@[simp] theorem Lane.countDep_selfCancel (l : Lane) : l.countDep.selfCancel = l.selfCancel := by unfold Lane.countDep; split <;> rfl
@[simp] theorem Lane.countDep_know (l : Lane) : l.countDep.know = l.know := by unfold Lane.countDep; split <;> rfl
@[simp] theorem Lane.countDep_reads (l : Lane) : l.countDep.reads = l.reads := by unfold Lane.countDep; split <;> rfl
@[simp] theorem Lane.countDep_pg (l : Lane) : l.countDep.pg = l.pg := by unfold Lane.countDep; split <;> rfl
@[simp] theorem Lane.countDep_wrote (l : Lane) : l.countDep.wrote = l.wrote := by unfold Lane.countDep; split <;> rfl
@[simp] theorem Lane.countDep_acc (l : Lane) : l.countDep.acc = l.acc := by unfold Lane.countDep; split <;> rfl

@[simp] theorem State.push_ln_box (s : State) (e : Eff) (o : Ord) :
    (s.push e o).ln.box = s.ln.box ++ [⟨e, o, s.ln.pc, s.ln.seqn, s.ln.cnt, s.ln.know⟩] := rfl
@[simp] theorem State.push_ln_seqn (s : State) (e : Eff) (o : Ord) : (s.push e o).ln.seqn = s.ln.seqn + 1 := rfl

end Sys2Proof.Machine
end

