-- ==== Sys2Proof/Laws/Ops.lean ====
section
/-!
SUPPORT. The shared operations of a lane: registers, liveness, the checks of R148, retiring, and the shape that an
instruction gets from issue.
-/

namespace Sys2Proof.Machine

/-! Registers. -/

theorem State.rS_wS (s : State) (d r : SReg) (x : Word) :
    (s.wS d x).rS r = if r = d ∧ d ≠ 0 then x else s.rS r := by
  unfold State.wS State.rS
  by_cases hd : d = 0
  · simp [hd]
  · by_cases hr : r = d
    · subst hr; simp [hd]
    · have : d.val ≠ r.val := fun h => hr (Fin.ext h.symm)
      simp [hd, hr, this]

theorem State.rC_wC (s : State) (d r : CReg) (x : Cap) :
    (s.wC d x).rC r = if r = d ∧ d ≠ 0 then x else s.rC r := by
  unfold State.wC State.rC
  by_cases hd : d = 0
  · simp [hd]
  · by_cases hr : r = d
    · subst hr; simp [hd]
    · have : d.val ≠ r.val := fun h => hr (Fin.ext h.symm)
      simp [hd, hr, this]

theorem State.rV_wV (s : State) (d r : VReg) (x : Vec) : (s.wV d x).rV r = if r = d then x else s.rV r := by
  unfold State.rV
  by_cases hr : r = d
  · subst hr; simp
  · have : d.val ≠ r.val := fun h => hr (Fin.ext h.symm)
    simp [hr, this]

theorem State.rM_wM (s : State) (d r : MReg) (x : Mask) : (s.wM d x).rM r = if r = d then x else s.rM r := by
  unfold State.rM
  by_cases hr : r = d
  · subst hr; simp
  · have : d.val ≠ r.val := fun h => hr (Fin.ext h.symm)
    simp [hr, this]

/-! Last-use bits. -/

theorem killS_foldl (l : List SSrc) (m : BitVec 64) (n : Nat) (hn : n < 64) :
    (l.foldl killS m).getLsbD n = true ↔
      m.getLsbD n = true ∧ (n = 0 ∨ ∀ a ∈ l, a.last = true → a.r.val ≠ n) := by
  induction l generalizing m with
  | nil => simp
  | cons a t ih =>
    rw [List.foldl_cons, ih]
    unfold killS
    by_cases h0 : n = 0
    · subst h0
      split
      · rename_i h
        simp only [Bool.and_eq_true, bne_iff_ne, ne_eq] at h
        have : ¬ 0 = a.r.val := fun e => h.2 e.symm
        simp [this]
      · simp
    · split
      · rename_i h
        simp only [Bool.and_eq_true, bne_iff_ne, ne_eq] at h
        by_cases ha : a.r.val = n
        · subst ha; simp [h.1, h.2]
        · have : ¬ n = a.r.val := fun e => ha e.symm
          simp [ha, this, h0, hn]
      · rename_i h
        simp only [Bool.and_eq_true, bne_iff_ne, ne_eq] at h
        have : a.last = true → a.r.val ≠ n := by
          intro hl hr
          exact h ⟨hl, by omega⟩
        simp only [List.mem_cons, forall_eq_or_imp, h0, false_or]
        exact ⟨fun e => ⟨e.1, this, e.2⟩, fun e => ⟨e.1, e.2.2⟩⟩

theorem killV_foldl (l : List VSrc) (m : BitVec 32) (n : Nat) (hn : n < 32) :
    (l.foldl killV m).getLsbD n = true ↔ m.getLsbD n = true ∧ ∀ a ∈ l, a.last = true → a.r.val ≠ n := by
  induction l generalizing m with
  | nil => simp
  | cons a t ih =>
    rw [List.foldl_cons, ih]
    unfold killV
    split
    · rename_i h
      by_cases ha : a.r.val = n
      · subst ha; simp [h]
      · have : ¬ n = a.r.val := fun e => ha e.symm
        simp [ha, this, hn]
    · rename_i h
      simp [h]

theorem killM_foldl (l : List MSrc) (m : BitVec 8) (n : Nat) (hn : n < 8) :
    (l.foldl killM m).getLsbD n = true ↔ m.getLsbD n = true ∧ ∀ a ∈ l, a.last = true → a.r.val ≠ n := by
  induction l generalizing m with
  | nil => simp
  | cons a t ih =>
    rw [List.foldl_cons, ih]
    unfold killM
    split
    · rename_i h
      by_cases ha : a.r.val = n
      · subst ha; simp [h]
      · have : ¬ n = a.r.val := fun e => ha e.symm
        simp [ha, this, hn]
    · rename_i h
      simp [h]

theorem killC_foldl (l : List CSrc) (m : BitVec 16) (n : Nat) (hn : n < 16) :
    (l.foldl killC m).getLsbD n = true ↔
      m.getLsbD n = true ∧ (n = 0 ∨ n = 15 ∨ ∀ a ∈ l, a.last = true → a.r.val ≠ n) := by
  induction l generalizing m with
  | nil => simp
  | cons a t ih =>
    rw [List.foldl_cons, ih]
    unfold killC
    by_cases h0 : n = 0 ∨ n = 15
    · split
      · rename_i h
        simp only [Bool.and_eq_true, bne_iff_ne, ne_eq] at h
        have : ¬ n = a.r.val := by omega
        rcases h0 with h0 | h0 <;> subst h0 <;> simp [this]
      · rcases h0 with h0 | h0 <;> subst h0 <;> simp
    · have h1 : n ≠ 0 ∧ n ≠ 15 := by omega
      split
      · rename_i h
        simp only [Bool.and_eq_true, bne_iff_ne, ne_eq] at h
        by_cases ha : a.r.val = n
        · subst ha; simp [h]
        · have : ¬ n = a.r.val := fun e => ha e.symm
          simp [ha, this, hn]
      · rename_i h
        have : a.last = true → a.r.val ≠ n := by
          intro hl hr
          exact h (by simp [hl, hr, h1.1, h1.2])
        simp only [List.mem_cons, forall_eq_or_imp, h1.1, h1.2, false_or]
        exact ⟨fun e => ⟨e.1, this, e.2⟩, fun e => ⟨e.1, e.2.2⟩⟩

/-! Checks. -/

/-- An instruction that passes its checks raises none of the traps of R148's steps 1 to 5. -/
theorem State.Passes.preCheck {s : State} {i : Instr} (h : s.Passes i) : s.preCheck i = none := by
  have hb := h.block
  have h1 : (256 ≤ s.ln.blk || (suspends i && !s.sigAt (s.ln.pc.toNat + if isLong i then 8 else 4))) = false := by
    have h256 : ¬ 256 ≤ s.ln.blk := by omega
    cases hs : suspends i
    · simp [h256]
    · simp [h256, h.sigNext hs]
  have h2 : (((foot i).readV ++ (foot i).wv).any fun n => decide (s.alloc ≤ n)) = false := by
    rw [List.any_eq_false]
    intro n hn
    have := (h.bound n hn).1
    simp only [decide_eq_true_eq]
    omega
  have h3 : ((foot i).readS.all s.ln.sLive && (foot i).readV.all s.ln.vLive && (foot i).readM.all s.ln.mLive &&
      (foot i).readC.all s.ln.cLive) = true := by
    simp only [Bool.and_eq_true, List.all_eq_true]
    exact ⟨⟨⟨h.liveS, h.liveV⟩, h.liveM⟩, h.liveC⟩
  simp only [State.preCheck, h1, h.order, h.priv, h2, h3]
  simp

theorem issue_ok {s : State} {i : Instr} (h : s.Passes i) (f : State → State) :
    issue i s (.ok f) = .next ((f (s.killMarked i)).retire i (s.after i) false (depends i s.ln)) := by
  simp [issue, h.preCheck]

theorem issue_jump {s : State} {i : Instr} (h : s.Passes i) (tgt : Word) (b : Bool) (f : State → State) :
    issue i s (.jump tgt b f) = .next ((f (s.killMarked i)).retire i tgt b (depends i s.ln)) := by
  simp [issue, h.preCheck]

theorem issue_trap {s : State} {i : Instr} (h : s.Passes i) (code : Nat) (va : Word) :
    issue i s (.trap code va) = .next ((s.trapped i).takeTrap ⟨code, s.ln.pc, va, rptOf code⟩) := by
  simp [issue, h.preCheck]

theorem issue_stay {s : State} {i : Instr} (h : s.Passes i) (f : State → State) : issue i s (.stay f) = .next (f s) := by
  simp [issue, h.preCheck]

/-- issue always answers a next state. -/
theorem issue_next (s : State) (i : Instr) (d : Do) : ∃ t, issue i s d = .next t := by
  unfold issue
  split
  · exact ⟨_, rfl⟩
  · cases d <;> exact ⟨_, rfl⟩

/-- An event answers a next state: the one it describes, or the state itself. -/
theorem event_next (s : State) (b : Bool) (t : State) : event s b t = .next (if b then t else s) := by
  cases b <;> rfl

/-! Retiring. -/

/-- What retiring an instruction other than SIG leaves of a lane. -/
theorem State.retire_ln (s : State) (i : Instr) (pc : Word) (b dep : Bool) (h : ∀ v, i ≠ .sig v) :
    (s.retire i pc b dep).ln = { (if dep then s.ln.countDep else s.ln) with
      wins := stepWins i s.ln.wins, blk := s.ln.blk + 1, sig := rotl20 s.ln.sig 7 ^^^ sigTerm s.ir b
      from_ := s.ln.pc, pc := pc
      reads := if readsMem i && !s.ln.reads.contains s.ln.seqn then s.ln.seqn :: s.ln.reads else s.ln.reads } := by
  have e (l : Lane) : l.countDep = { l with flags := l.countDep.flags } := by unfold Lane.countDep; split <;> rfl
  cases dep <;> simp only [State.retire, State.onLn, if_true, Bool.false_eq_true, if_false]
  · cases i <;> first | exact (h _ rfl).elim | rfl
  · rw [e s.ln]
    cases i <;> first | exact (h _ rfl).elim | rfl

/-! Plain instructions: what one register write between the kills and the retiring leaves. -/

/-- What killing the marked sources of i leaves of the live bits. -/
theorem State.sLive_killMarked (s : State) (i : Instr) (n : Nat) (hn : n < 64) : (s.killMarked i).ln.sLive n = true ↔
    n = 0 ∨ (s.ln.sLive n = true ∧ ∀ a ∈ (foot i).ss, a.last = true → a.r.val ≠ n) := by
  have := killS_foldl (foot i).ss s.ln.liveS n hn
  by_cases h0 : n = 0
  · subst h0; simp [Lane.sLive]
  · simp only [h0, false_or] at this
    simpa [Lane.sLive, State.killMarked, State.onLn, h0] using this

theorem State.vLive_killMarked (s : State) (i : Instr) (n : Nat) (hn : n < 32) : (s.killMarked i).ln.vLive n = true ↔
    s.ln.vLive n = true ∧ ∀ a ∈ (foot i).vs, a.last = true → a.r.val ≠ n :=
  killV_foldl (foot i).vs s.ln.liveV n hn

theorem State.mLive_killMarked (s : State) (i : Instr) (n : Nat) (hn : n < 8) : (s.killMarked i).ln.mLive n = true ↔
    s.ln.mLive n = true ∧ ∀ a ∈ (foot i).ms, a.last = true → a.r.val ≠ n :=
  killM_foldl (foot i).ms s.ln.liveM n hn

theorem State.cLive_killMarked (s : State) (i : Instr) (n : Nat) (hn : n < 16) : (s.killMarked i).ln.cLive n = true ↔
    n = 0 ∨ n = 15 ∨ (s.ln.cLive n = true ∧ ∀ a ∈ (foot i).cs, a.last = true → a.r.val ≠ n) := by
  have := killC_foldl (foot i).cs s.ln.liveC n hn
  by_cases h0 : n = 0
  · subst h0; simp [Lane.cLive]
  · by_cases h1 : n = 15
    · subst h1; simp [Lane.cLive]
    · simp only [h0, h1, false_or] at this
      simpa [Lane.cLive, State.killMarked, State.onLn, h0, h1] using this

/-- A lane whose registers are those of l but for the ones written, after the kills of i. -/
structure Lane.Wrote (k n : Lane) (ws wv wm wc : List Nat) : Prop where
  keepS : ∀ (r : Fin 64), r.val ∉ ws → n.s[r] = k.s[r]
  keepV : ∀ (r : Fin 32), r.val ∉ wv → n.v[r] = k.v[r]
  keepM : ∀ (r : Fin 8), r.val ∉ wm → n.m[r] = k.m[r]
  keepC : ∀ (r : Fin 16), r.val ∉ wc → n.c[r] = k.c[r]
  liveS : ∀ j < 64, n.sLive j = true ↔ j ∈ ws ∨ k.sLive j = true
  liveV : ∀ j < 32, n.vLive j = true ↔ j ∈ wv ∨ k.vLive j = true
  liveM : ∀ j < 8, n.mLive j = true ↔ j ∈ wm ∨ k.mLive j = true
  liveC : ∀ j < 16, n.cLive j = true ↔ j ∈ wc ∨ k.cLive j = true
  rest : n.nf = k.nf ∧ n.fmt = k.fmt ∧ n.trapc = k.trapc ∧ n.trappc = k.trappc ∧ n.trapva = k.trapva ∧ n.budg = k.budg ∧
    n.task = k.task ∧ n.flags = k.flags ∧ n.blk = k.blk ∧ n.wins = k.wins

theorem Lane.Wrote.refl (k : Lane) : Lane.Wrote k k [] [] [] [] :=
  ⟨fun _ _ => rfl, fun _ _ => rfl, fun _ _ => rfl, fun _ _ => rfl, fun _ _ => by simp, fun _ _ => by simp,
    fun _ _ => by simp, fun _ _ => by simp, ⟨rfl, rfl, rfl, rfl, rfl, rfl, rfl, rfl, rfl, rfl⟩⟩

theorem State.wrote_wS (s : State) (d : SReg) (x : Word) : Lane.Wrote s.ln (s.wS d x).ln [d.val] [] [] [] := by
  unfold State.wS
  by_cases hd : d = 0
  · subst hd
    refine ⟨fun _ _ => rfl, fun _ _ => rfl, fun _ _ => rfl, fun _ _ => rfl, fun j _ => ?_, fun _ _ => by simp,
      fun _ _ => by simp, fun _ _ => by simp, ⟨rfl, rfl, rfl, rfl, rfl, rfl, rfl, rfl, rfl, rfl⟩⟩
    by_cases hj : j = 0 <;> simp [hj, Lane.sLive]
  · simp only [hd, if_false]
    refine ⟨fun r hr => ?_, fun _ _ => rfl, fun _ _ => rfl, fun _ _ => rfl, fun j hj => ?_,
      fun _ _ => by simp [Lane.vLive, State.onLn], fun _ _ => by simp [Lane.mLive, State.onLn],
      fun _ _ => by simp [Lane.cLive, State.onLn], ⟨rfl, rfl, rfl, rfl, rfl, rfl, rfl, rfl, rfl, rfl⟩⟩
    · have : ¬ d.val = r.val := fun e => hr (by simp [e])
      simp [State.onLn, this]
    · by_cases hj0 : j = d.val
      · subst hj0; simp [Lane.sLive, State.onLn]
      · have : ¬ d.val = j := fun e => hj0 e.symm
        simp [Lane.sLive, State.onLn, hj0, this]

theorem State.wrote_wV (s : State) (d : VReg) (x : Vec) : Lane.Wrote s.ln (s.wV d x).ln [] [d.val] [] [] := by
  refine ⟨fun _ _ => rfl, fun r hr => ?_, fun _ _ => rfl, fun _ _ => rfl, fun _ _ => by simp [Lane.sLive],
    fun j hj => ?_, fun _ _ => by simp [Lane.mLive], fun _ _ => by simp [Lane.cLive], ⟨rfl, rfl, rfl, rfl, rfl, rfl, rfl, rfl, rfl, rfl⟩⟩
  · have : ¬ d.val = r.val := fun e => hr (by simp [e])
    simp [this]
  · by_cases hj0 : j = d.val
    · subst hj0; simp [Lane.vLive]
    · have : ¬ d.val = j := fun e => hj0 e.symm
      simp [Lane.vLive, hj0, this]

theorem State.wrote_wM (s : State) (d : MReg) (x : Mask) : Lane.Wrote s.ln (s.wM d x).ln [] [] [d.val] [] := by
  refine ⟨fun _ _ => rfl, fun _ _ => rfl, fun r hr => ?_, fun _ _ => rfl, fun _ _ => by simp [Lane.sLive],
    fun _ _ => by simp [Lane.vLive], fun j hj => ?_, fun _ _ => by simp [Lane.cLive], ⟨rfl, rfl, rfl, rfl, rfl, rfl, rfl, rfl, rfl, rfl⟩⟩
  · have : ¬ d.val = r.val := fun e => hr (by simp [e])
    simp [this]
  · by_cases hj0 : j = d.val
    · subst hj0; simp [Lane.mLive]
    · have : ¬ d.val = j := fun e => hj0 e.symm
      simp [Lane.mLive, hj0, this]

theorem State.wrote_wC (s : State) (d : CReg) (x : Cap) : Lane.Wrote s.ln (s.wC d x).ln [] [] [] [d.val] := by
  unfold State.wC
  by_cases hd : d = 0
  · subst hd
    refine ⟨fun _ _ => rfl, fun _ _ => rfl, fun _ _ => rfl, fun _ _ => rfl, fun _ _ => by simp, fun _ _ => by simp,
      fun _ _ => by simp, fun j _ => ?_, ⟨rfl, rfl, rfl, rfl, rfl, rfl, rfl, rfl, rfl, rfl⟩⟩
    by_cases hj : j = 0 <;> simp [hj, Lane.cLive]
  · simp only [hd, if_false]
    refine ⟨fun _ _ => rfl, fun _ _ => rfl, fun _ _ => rfl, fun r hr => ?_,
      fun _ _ => by simp [Lane.sLive, State.onLn], fun _ _ => by simp [Lane.vLive, State.onLn],
      fun _ _ => by simp [Lane.mLive, State.onLn], fun j hj => ?_, ⟨rfl, rfl, rfl, rfl, rfl, rfl, rfl, rfl, rfl, rfl⟩⟩
    · have : ¬ d.val = r.val := fun e => hr (by simp [e])
      simp [State.onLn, this]
    · by_cases hj0 : j = d.val
      · subst hj0; simp [Lane.cLive, State.onLn]
      · have : ¬ d.val = j := fun e => hj0 e.symm
        simp [Lane.cLive, State.onLn, hj0, this]

/-- Register writes w between the kills of i and its retiring leave Lane.After. -/
theorem Lane.After.of_wrote {s : State} {i : Instr} {u : State} {ws wv wm wc : List Nat}
    (h : Lane.Wrote (s.killMarked i).ln u.ln ws wv wm wc) (pc : Word) (b dep : Bool) (hi : ∀ v, i ≠ .sig v) :
    Lane.After s.ln (u.retire i pc b dep).ln i ws wv wm wc := by
  have e : ∀ {β : Type} (f : Lane → β), (∀ l : Lane, f l.countDep = f l) →
      f (if dep then u.ln.countDep else u.ln) = f u.ln := by
    intro β f hf
    split
    · exact hf _
    · rfl
  rw [State.retire_ln _ _ _ _ _ hi]
  obtain ⟨h1, h2, h3, h4, h5, h6, h7, -, -, -⟩ := h.rest
  constructor
  · intro r hr'
    have := h.keepS r hr'
    simpa [e (fun l => l.s) (fun l => by simp)] using this
  · intro r hr'
    have := h.keepV r hr'
    simpa [e (fun l => l.v) (fun l => by simp)] using this
  · intro r hr'
    have := h.keepM r hr'
    simpa [e (fun l => l.m) (fun l => by simp)] using this
  · intro r hr'
    have := h.keepC r hr'
    simpa [e (fun l => l.c) (fun l => by simp)] using this
  · intro n hn
    have h1 := h.liveS n hn
    rw [State.sLive_killMarked s i n hn] at h1
    simp only [Lane.sLive, e (fun l => l.liveS) (fun l => by simp)] at h1 ⊢
    rw [h1]
    constructor
    · rintro (h | h | h)
      · exact .inr (.inl h)
      · exact .inl h
      · exact .inr (.inr h)
    · rintro (h | h | h)
      · exact .inr (.inl h)
      · exact .inl h
      · exact .inr (.inr h)
  · intro n hn
    have h1 := h.liveV n hn
    rw [State.vLive_killMarked s i n hn] at h1
    simpa only [Lane.vLive, e (fun l => l.liveV) (fun l => by simp)] using h1
  · intro n hn
    have h1 := h.liveM n hn
    rw [State.mLive_killMarked s i n hn] at h1
    simpa only [Lane.mLive, e (fun l => l.liveM) (fun l => by simp)] using h1
  · intro n hn
    have h1 := h.liveC n hn
    rw [State.cLive_killMarked s i n hn] at h1
    simp only [Lane.cLive, e (fun l => l.liveC) (fun l => by simp)] at h1 ⊢
    rw [h1]
    constructor
    · rintro (h | h | h | h)
      · exact .inr (.inr (.inl h))
      · exact .inl h
      · exact .inr (.inl h)
      · exact .inr (.inr (.inr h))
    · rintro (h | h | h | h)
      · exact .inr (.inl h)
      · exact .inr (.inr (.inl h))
      · exact .inl h
      · exact .inr (.inr (.inr h))
  all_goals simp only [e (fun l => l.nf) (fun l => by simp), e (fun l => l.fmt) (fun l => by simp),
    e (fun l => l.trapc) (fun l => by simp), e (fun l => l.trappc) (fun l => by simp),
    e (fun l => l.trapva) (fun l => by simp), e (fun l => l.budg) (fun l => by simp),
    e (fun l => l.task) (fun l => by simp)]
  all_goals assumption

/-- A plain instruction: register writes between the kills and the retiring, and nothing else. -/
theorem State.Plain.of_wrote {s u : State} {i : Instr} {ws wv wm wc : List Nat}
    (h : Lane.Wrote (s.killMarked i).ln u.ln ws wv wm wc) (ho : u = { s with ln := u.ln }) (hf : u.ln.fpc = s.ln.fpc)
    (hb : u.ln.box = s.ln.box) (hst : u.ln.st = s.ln.st) (hsu : u.ln.susp = s.ln.susp) (hi : ∀ v, i ≠ .sig v) :
    s.Plain (u.retire i (s.after i) false (depends i s.ln)) i ws wv wm wc := by
  obtain ⟨-, -, -, -, -, -, -, h8, h9, h10⟩ := h.rest
  have hm : u.mem = s.mem := by rw [ho]
  refine ⟨⟨Lane.After.of_wrote h _ _ _ hi, ?_, ?_, ?_⟩, ?_, ?_, ?_, ?_, ?_, ?_⟩
  · simp [State.retire_ln _ _ _ _ _ hi]
  · simp only [State.retire_ln _ _ _ _ _ hi, h10, State.killMarked_ln_wins]
    split <;> simp [Lane.countDep, h8] <;> split <;> simp [h8]
  · simp [State.retire_ln _ _ _ _ _ hi, h9]
  · simp only [State.retire, State.onLn]; rw [ho]
  · intro a; simp [hm]
  all_goals simp only [State.retire_ln _ _ _ _ _ hi]
  all_goals split <;> simp [hf, hb, hst, hsu]

/-- An instruction that writes one scalar register, whatever its meaning computes. -/
theorem State.GivesS.of_wS {s : State} {i : Instr} {d : SReg} {x : Word} (hi : ∀ v, i ≠ .sig v)
    (h : exec i s = issue i s (.ok (fun t => t.wS d x))) : s.GivesS i d x := by
  intro hp
  refine ⟨_, h.trans (issue_ok hp _), ?_, ?_⟩
  · refine State.Plain.of_wrote (State.wrote_wS _ d x) ?_ ?_ ?_ ?_ ?_ hi <;>
      (unfold State.wS; split <;> rfl)
  · have hs : ∀ u : State, (u.retire i (s.after i) false (depends i s.ln)).rS d = u.rS d := by
      intro u
      unfold State.rS
      rw [State.retire_ln _ _ _ _ _ hi]
      split <;> simp <;> split <;> simp
    rw [hs, State.rS_wS]
    by_cases h0 : d = 0
    · subst h0; simp [State.rS]
    · simp [h0]

/-- An instruction that writes one capability register. -/
theorem State.GivesC.of_wC {s : State} {i : Instr} {d : CReg} {x : Cap} (hi : ∀ v, i ≠ .sig v)
    (h : exec i s = issue i s (.ok (fun t => t.wC d x))) : s.GivesC i d x := by
  intro hp
  refine ⟨_, h.trans (issue_ok hp _), ?_, ?_⟩
  · refine State.Plain.of_wrote (State.wrote_wC _ d x) ?_ ?_ ?_ ?_ ?_ hi <;>
      (unfold State.wC; split <;> rfl)
  · have hs : ∀ u : State, (u.retire i (s.after i) false (depends i s.ln)).rC d = u.rC d := by
      intro u
      unfold State.rC
      rw [State.retire_ln _ _ _ _ _ hi]
      split <;> simp <;> split <;> simp
    rw [hs, State.rC_wC]
    by_cases h0 : d = 0
    · subst h0; simp [State.rC]
    · simp [h0]

/-- An instruction that writes one mask register. -/
theorem State.GivesM.of_wM {s : State} {i : Instr} {d : MReg} {x : Mask} (hi : ∀ v, i ≠ .sig v)
    (h : exec i s = issue i s (.ok (fun t => t.wM d x))) : s.GivesM i d x := by
  intro hp
  refine ⟨_, h.trans (issue_ok hp _), ?_, ?_⟩
  · exact State.Plain.of_wrote (State.wrote_wM _ d x) rfl rfl rfl rfl rfl hi
  · have hs : ∀ u : State, (u.retire i (s.after i) false (depends i s.ln)).rM d = u.rM d := by
      intro u
      unfold State.rM
      rw [State.retire_ln _ _ _ _ _ hi]
      split <;> simp
    rw [hs, State.rM_wM]
    simp

/-- An instruction that writes one vector register. -/
theorem State.GivesV.of_wV {s : State} {i : Instr} {d : VReg} {x : Vec} (hi : ∀ v, i ≠ .sig v)
    (h : exec i s = issue i s (.ok (fun t => t.wV d x))) : s.GivesV i d x := by
  intro hp
  refine ⟨_, h.trans (issue_ok hp _), ?_, ?_⟩
  · exact State.Plain.of_wrote (State.wrote_wV _ d x) rfl rfl rfl rfl rfl hi
  · have hs : ∀ u : State, (u.retire i (s.after i) false (depends i s.ln)).rV d = u.rV d := by
      intro u
      unfold State.rV
      rw [State.retire_ln _ _ _ _ _ hi]
      split <;> simp
    rw [hs, State.rV_wV]
    simp

/-! Memory under every operation of a lane. -/

/-- The invariant depends on memory only. -/
theorem State.Inv.of_mem {s t : State} (h : s.Inv) (e : t.mem = s.mem) : t.Inv := by
  simpa [State.Inv, e] using h

/-- A fold of steps that each keep memory keeps memory. -/
theorem foldl_mem {β : Type} (g : State → β → State) (hg : ∀ s b, (g s b).mem = s.mem) (l : List β) (s : State) :
    (l.foldl g s).mem = s.mem := by
  induction l generalizing s with
  | nil => rfl
  | cons b t ih => rw [List.foldl_cons, ih, hg]

@[simp] theorem State.onLane_mem (s : State) (l : Nat) (f : Lane → Lane) : (s.onLane l f).mem = s.mem := by
  unfold State.onLane; split <;> rfl

@[simp] theorem State.freeFrames_mem (s : State) (l : List Root) : (s.freeFrames l).mem = s.mem := by
  induction l generalizing s with
  | nil => rfl
  | cons r t ih => simp [State.freeFrames, ih]

@[simp] theorem State.bumpOt_mem (s : State) : s.bumpOt.mem = s.mem := rfl

@[simp] theorem State.dropObj_mem (s : State) (o : Nat) : (s.dropObj o).mem = s.mem := by
  unfold State.dropObj; simp

@[simp] theorem State.freeObjN_mem (s : State) (n o : Nat) : (s.freeObjN n o).mem = s.mem := by
  induction n generalizing s o with
  | zero => rfl
  | succ n ih =>
    simp only [State.freeObjN]
    split
    · rfl
    · split
      · rfl
      · split
        · simp
        · split
          · split
            · simp [ih]
            · simp
          · simp

@[simp] theorem State.freeObj_mem (s : State) (o : Nat) : (s.freeObj o).mem = s.mem := by simp [State.freeObj]

@[simp] theorem State.release_mem (s : State) (tasks objs : List Nat) : (s.release tasks objs).mem = s.mem := by
  unfold State.release
  refine foldl_mem _ (fun u o => ?_) objs _
  split
  · split <;> simp
  · rfl

@[simp] theorem State.dropWait_mem (s : State) (l : Nat) : (s.dropWait l).mem = s.mem := by
  unfold State.dropWait; split <;> rfl

@[simp] theorem State.dropCommands_mem (s : State) (l : Nat) : (s.dropCommands l).mem = s.mem := by
  simp [State.dropCommands]

@[simp] theorem State.abandonWith_mem (s : State) (l : Nat) (f : Rec → Rec) : (s.abandonWith l f).mem = s.mem := by
  simp [State.abandonWith]

@[simp] theorem State.trapped_mem (s : State) (i : Instr) : (s.trapped i).mem = s.mem := by
  unfold State.trapped; split <;> rfl

@[simp] theorem State.takeTrap_mem (s : State) (t : TrapInfo) : (s.takeTrap t).mem = s.mem := by
  unfold State.takeTrap
  split <;> simp

/-- An instruction whose own effect keeps memory keeps it whatever its checks say. -/
theorem issue_mem {s t : State} {i : Instr} {d : Do} (h : issue i s d = .next t)
    (ho : ∀ f, (d = .ok f ∨ d = .stay f ∨ ∃ a b, d = .jump a b f) → ∀ u, (f u).mem = u.mem) : t.mem = s.mem := by
  unfold issue at h
  split at h
  · cases h; simp
  · cases d with
    | ok f => cases h; simp [ho f (.inl rfl)]
    | jump a b f => cases h; simp [ho f (.inr (.inr ⟨a, b, rfl⟩))]
    | trap c v => cases h; simp
    | stay f => cases h; exact ho f (.inr (.inl rfl)) s

end Sys2Proof.Machine
end

