-- ==== Sys2Proof/Laws/Translate.lean ====
section
/-!
SUPPORT. Translation depends on memory through the entries of the page tables alone, so a range that holds no table is
plain (State.PlainRange).
-/

namespace Sys2Proof.Machine

theorem Memory.readN_congr {m m' : Memory} : ∀ {n a : Nat}, (∀ i < n, m'.read (a + i) = m.read (a + i)) →
    m'.readN a n = m.readN a n
  | 0, _, _ => rfl
  | n + 1, a, h => by
    rw [Memory.readN, Memory.readN, show m'.read a = m.read a from h 0 (Nat.succ_pos n),
      Memory.readN_congr (n := n) (a := a + 1) fun i hi => by
        simpa [Nat.add_comm, Nat.add_left_comm] using h (i + 1) (Nat.succ_lt_succ hi)]

/-- An entry of a table whose 4 KiB read as before is the same. -/
theorem State.tableEntry_mem {s : State} {m : Memory} {pkg top i : Nat} (hi : i < 512)
    (h : ∀ j < 4096, m.read (physAddr pkg top + j) = s.mem.read (physAddr pkg top + j)) :
    ({ s with mem := m } : State).tableEntry pkg top i = s.tableEntry pkg top i := by
  unfold State.tableEntry
  refine congrArg ofBytes (Memory.readN_congr fun j hj => ?_)
  have := h (8 * i + j) (by omega)
  rwa [show physAddr pkg (top + 8 * i) + j = physAddr pkg top + (8 * i + j) by simp only [physAddr]; omega]

theorem rootOf_mem : ∀ {l : List Root} {o p d : Nat} {r : Root}, rootOf l o p d = some r → r ∈ l ∧ r.pkg = p
  | x :: t, o, p, d, r, h => by
    unfold rootOf at h
    split at h
    · rename_i hx
      cases h
      exact ⟨List.mem_cons_self, hx.2.1⟩
    · exact ⟨List.mem_cons_of_mem _ (rootOf_mem h).1, (rootOf_mem h).2⟩

/-- With one level of tables everywhere, translation is kept by what keeps the tables. -/
theorem State.translate_mem {s : State} {m : Memory} (hl : ∀ r ∈ s.k.roots, r.lv ≤ 1)
    (h : ∀ r ∈ s.k.roots, ∀ j < 4096, m.read (physAddr r.pkg r.top + j) = s.mem.read (physAddr r.pkg r.top + j)) (x : Nat) :
    ({ s with mem := m } : State).translate x = s.translate x := by
  unfold State.translate
  simp only
  split
  · rfl
  · rename_i o0 x0 _
    generalize aliasWalk s.k.objs (s.k.objs.length + 1) o0 x0 x = w
    obtain ⟨o, y, v⟩ := w
    have hh : ({ s with mem := m } : State).homeOf v = s.homeOf v := rfl
    have hb : ({ s with mem := m } : State).loBase y.base = s.loBase y.base := rfl
    simp only [hh, hb]
    split
    · rfl
    · split
      · rfl
      · rename_i r hr
        obtain ⟨hin, hp⟩ := rootOf_mem hr
        have hz : r.lv - 1 = 0 := by have := hl r hin; omega
        simp only [hz, State.walkDirs]
        rw [State.tableEntry_mem (Nat.mod_lt _ (by decide)) (by rw [← hp]; exact h r hin)]

/-! One translation serves its 4 KiB block. -/

theorem objAt_mem : ∀ {l : Tab Obj} {va o : Nat} {x : Obj}, objAt l va = some (o, x) → (o, x) ∈ l
  | (n, y) :: t, va, o, x, h => by
    unfold objAt at h
    split at h
    · cases h; exact List.mem_cons_self
    · exact List.mem_cons_of_mem _ (objAt_mem h)

theorem objAt_block : ∀ {l : Tab Obj} (va : Nat), (∀ e ∈ l, e.2.base % 4096 = 0) → objAt l va = objAt l (va / 4096 * 4096)
  | [], _, _ => rfl
  | (n, y) :: t, va, h => by
    have hb := h (n, y) List.mem_cons_self
    simp only at hb
    rw [objAt, objAt, objAt_block va fun e he => h e (List.mem_cons_of_mem _ he)]
    simp only [show (y.base ≤ va ∧ va < y.base + y.len * 4096) ↔
      (y.base ≤ va / 4096 * 4096 ∧ va / 4096 * 4096 < y.base + y.len * 4096) by omega]

theorem State.homeOf_block {s : State} {va : Nat} {h : HomeAt} (hh : s.homeOf (va / 4096 * 4096) = some h) :
    s.homeOf va = some { h with lo := h.lo + va % 4096 } ∧ h.lo % 4096 = 0 := by
  unfold State.homeOf at hh ⊢
  rw [Nat.mul_div_cancel _ (by decide : 0 < 4096), Nat.mul_mod_left] at hh
  split at hh
  · contradiction
  · rename_i e _
    simp only at hh ⊢
    cases hm : e.mode <;> simp only [hm, Option.some.injEq] at hh ⊢ <;> subst hh <;> simp

theorem State.loBase_block (s : State) (b : Nat) : s.loBase b % 4096 = 0 := by
  unfold State.loBase
  split
  · rfl
  · simp only; split <;> simp

/-- Where a block starts at a, its bytes follow. -/
theorem State.translate_block {s : State} {va a mt : Nat} {k : Bool}
    (hb : ∀ e ∈ s.k.objs, e.2.base % 4096 = 0 ∧ e.2.src = 0) (ht : s.translate (va / 4096 * 4096) = .at a k mt) :
    s.translate va = .at (a + va % 4096) k mt := by
  have walk : ∀ {o x y}, (o, x) ∈ s.k.objs → aliasWalk s.k.objs (s.k.objs.length + 1) o x y = (o, x, y) := fun h => by
    have := (hb _ h).2
    simp only at this
    simp [aliasWalk, this]
  unfold State.translate at ht ⊢
  rw [objAt_block va fun e he => (hb e he).1]
  split at ht
  · contradiction
  · rename_i o x ho
    simp only [walk (objAt_mem ho)] at ht ⊢
    split at ht
    · contradiction
    · rename_i h hh
      obtain ⟨hv, hlo⟩ := State.homeOf_block hh
      rw [hv]
      have hl := s.loBase_block x.base
      have hsh : ∃ m, 2 ^ pageShift x.ps = 4096 * m := ⟨2 ^ (pageShift x.ps - 12), by
        rw [show (4096 : Nat) = 2 ^ 12 from rfl, ← Nat.pow_add]
        congr 1
        unfold pageShift
        split
        · rfl
        · split <;> rfl⟩
      obtain ⟨m, hm⟩ := hsh
      have hr : va % 4096 < 4096 := Nat.mod_lt _ (by decide)
      have hpg : (h.lo + va % 4096 - s.loBase x.base) / 2 ^ pageShift x.ps = (h.lo - s.loBase x.base) / 2 ^ pageShift x.ps := by
        rw [hm, ← Nat.div_div_eq_div_mul, ← Nat.div_div_eq_div_mul]
        congr 1
        omega
      have hoff : (h.lo + va % 4096) % 2 ^ pageShift x.ps = h.lo % 2 ^ pageShift x.ps + va % 4096 := by
        rw [hm, Nat.mod_mul, Nat.mod_mul, show (h.lo + va % 4096) / 4096 = h.lo / 4096 by omega]
        omega
      have hbad : ∀ z, leafBad x { h with lo := h.lo + va % 4096 } z = leafBad x h z := fun z => by
        unfold leafBad
        simp only
        rw [show (h.lo + va % 4096) / 65536 = h.lo / 65536 by omega]
      simp only [hpg, hoff, hbad] at ht ⊢
      generalize rootOf s.k.roots o h.pkg h.die = r at ht ⊢
      rcases r with _ | r
      · exact absurd ht (by simp)
      · simp only at ht ⊢
        generalize s.walkDirs h.pkg _ _ _ = w at ht ⊢
        rcases w with b | t
        · cases b <;> exact absurd ht (by simp)
        · simp only at ht ⊢
          split at ht
          · exact absurd ht (by simp)
          split at ht
          · exact absurd ht (by simp)
          · rename_i h1 h2
            rw [if_neg h1, if_neg h2]
            simp only [Tr.at.injEq] at ht ⊢
            refine ⟨?_, ht.2⟩
            rw [← ht.1]
            simp only [physAddr]
            omega

/-- So it does for what is mapped. -/
theorem State.phys_block {s : State} {va a : Nat} (hb : ∀ e ∈ s.k.objs, e.2.base % 4096 = 0 ∧ e.2.src = 0)
    (h : s.phys? (va / 4096 * 4096) = some a) : s.phys? va = some (a + va % 4096) := by
  unfold State.phys? at h ⊢
  split at h
  · rename_i b k mt ht
    cases h
    rw [State.translate_block hb ht]
  · contradiction

/-- A range of contiguous mapped bytes outside every table is plain. -/
theorem State.plainRange_of {s : State} {va n a : Nat} (hp : ∀ i < n, s.phys? (va + i) = some (a + i))
    (hr : ∀ r ∈ s.k.roots, r.lv ≤ 1 ∧ (physAddr r.pkg r.top + 4096 ≤ a ∨ a + n ≤ physAddr r.pkg r.top)) :
    s.PlainRange va n where
  mapped i hi := by rw [hp i hi]; rfl
  apart i hi j hj h := by rw [hp i hi, hp j hj] at h; have := Option.some.inj h; omega
  noTable m hm x := by
    unfold State.phys?
    rw [State.translate_mem (fun r hr' => (hr r hr').1)]
    intro r hr' j hj
    refine hm _ fun i hi hc => ?_
    rw [hp i hi] at hc
    have := Option.some.inj hc
    rcases (hr r hr').2 with h | h <;> omega

/-- The same from the blocks of the range alone. -/
theorem State.plainRange_blocks {s : State} {va n c : Nat} (hb : ∀ e ∈ s.k.objs, e.2.base % 4096 = 0 ∧ e.2.src = 0)
    (hp : ∀ i < (va % 4096 + n) / 4096 + 1, s.phys? ((va / 4096 + i) * 4096) = some (c + i * 4096))
    (hr : ∀ r ∈ s.k.roots, r.lv ≤ 1 ∧ (physAddr r.pkg r.top + 4096 ≤ c + va % 4096 ∨ c + va % 4096 + n ≤ physAddr r.pkg r.top)) :
    s.PlainRange va n :=
  State.plainRange_of (a := c + va % 4096) (fun j hj => by
    have h := hp ((va + j) / 4096 - va / 4096) (by omega)
    rw [show va / 4096 + ((va + j) / 4096 - va / 4096) = (va + j) / 4096 by omega] at h
    rw [State.phys_block hb h]
    congr 1
    omega) hr

end Sys2Proof.Machine
end

