-- ==== Sys2Proof/Tests/Slice0.lean ====
section
/-!
SUPPORT. Tests: ill-formed terms that WellFormed refuses, words of every family written from the encodings of Tables 6-1
to 6-12, small one-step tests, and for each statement a concrete state and operands that meet the hypotheses of its clauses.
-/

namespace Sys2Proof.Tests

set_option Elab.async false

open Sys2Proof Sys2Proof.Machine

/-! States for the witnesses. -/

/-- Passing the checks of R148 by evaluation. -/
def passes (s : State) (i : Instr) : Bool := s.preCheck i == none && decide (s.alloc ≤ 32)

theorem passes_sound {s : State} {i : Instr} (h : passes s i = true) : s.Passes i := by
  simp only [passes, Bool.and_eq_true, beq_iff_eq, decide_eq_true_eq] at h
  obtain ⟨h, ha⟩ := h
  simp only [State.preCheck] at h
  generalize hp : s.ln.pc.toNat + (if Machine.isLong i then 8 else 4) = p at h
  split at h
  · contradiction
  rename_i h1
  split at h
  · contradiction
  rename_i h2
  split at h
  · contradiction
  rename_i h3
  split at h
  · contradiction
  rename_i h4
  split at h
  rotate_left
  · contradiction
  rename_i h5
  simp only [Bool.or_eq_true, decide_eq_true_eq, Bool.and_eq_true, Bool.not_eq_true', not_or, not_and, List.any_eq_true,
    not_exists, List.all_eq_true, Nat.not_le, Bool.not_eq_false] at h1 h2 h3 h4 h5
  obtain ⟨⟨⟨hs, hv⟩, hm⟩, hc⟩ := h5
  exact ⟨h1.1, by rw [hp]; exact h1.2, by simpa using h2, by simpa using h3, fun n hn => ⟨h4 n hn, Nat.lt_of_lt_of_le (h4 n hn) ha⟩, hs, hv, hm, hc⟩

/-- The launch of State.place, with the words NOP, SIG 0, SIG 0 at the PC, so that a SIG follows whatever stands there. -/
def w0 : State := let s := State.reset.place; s.writeV s.ln.pc.toNat (toBytes 0x360000003600000038000000 12)

/-- The same in a service context. -/
def wSvc : State := w0.onK (fun k => { k with service := true })

/-- Scalar, vector and capability registers with given values. -/
def sr (s : State) (l : List (Nat × Nat)) : State := l.foldl (fun s p => s.wS (Fin.ofNat 64 p.1) (BitVec.ofNat 64 p.2)) s
def vr (s : State) (l : List (Nat × Nat)) : State := l.foldl (fun s p => s.wV (Fin.ofNat 32 p.1) (BitVec.ofNat 4096 p.2)) s

/-! Words of each family, written from the encodings, with the instructions that they stand for. -/

/-- For IntegerInstructionsComputeTheirResult. -/
def integerWords : List (Nat × Instr) :=
  [(0x020DD3D8, .add 27 ⟨41, true⟩ ⟨54, false⟩),
   (0x022DD3D8, .sub 27 ⟨41, true⟩ ⟨54, false⟩),
   (0x024DD3D8, .mul 27 ⟨41, true⟩ ⟨54, false⟩),
   (0x026DD3D8, .mulh 27 ⟨41, true⟩ ⟨54, false⟩),
   (0x028DD3D8, .mulhn 27 ⟨41, true⟩ ⟨54, false⟩),
   (0x02ADD3D8, .div 27 ⟨41, true⟩ ⟨54, false⟩),
   (0x02CDD3D8, .divn 27 ⟨41, true⟩ ⟨54, false⟩),
   (0x02EDD3D8, .rem 27 ⟨41, true⟩ ⟨54, false⟩),
   (0x030DD3D8, .remn 27 ⟨41, true⟩ ⟨54, false⟩),
   (0x032DD3D8, .min 27 ⟨41, true⟩ ⟨54, false⟩),
   (0x034DD3D8, .max 27 ⟨41, true⟩ ⟨54, false⟩),
   (0x036DD3D8, .minn 27 ⟨41, true⟩ ⟨54, false⟩)] ++
  [(0x038DD3D8, .maxn 27 ⟨41, true⟩ ⟨54, false⟩),
   (0x03ADD300, .abs 27 ⟨41, true⟩),
   (0x040DD3D8, .and 27 ⟨41, true⟩ ⟨54, false⟩),
   (0x042DD3D8, .or 27 ⟨41, true⟩ ⟨54, false⟩),
   (0x044DD3D8, .xor 27 ⟨41, true⟩ ⟨54, false⟩),
   (0x046DD3D8, .andn 27 ⟨41, true⟩ ⟨54, false⟩),
   (0x048DD3D8, .shl 27 ⟨41, true⟩ ⟨54, false⟩),
   (0x04ADD3D8, .shr 27 ⟨41, true⟩ ⟨54, false⟩),
   (0x04CDD3D8, .sra 27 ⟨41, true⟩ ⟨54, false⟩),
   (0x04EDD3D8, .rol 27 ⟨41, true⟩ ⟨54, false⟩),
   (0x050DD3D8, .slt 27 ⟨41, true⟩ ⟨54, false⟩),
   (0x052DD3D8, .sltn 27 ⟨41, true⟩ ⟨54, false⟩)] ++
  [(0x054DD3D8, .seq 27 ⟨41, true⟩ ⟨54, false⟩),
   (0x056DD3D8, .sne 27 ⟨41, true⟩ ⟨54, false⟩),
   (0x058DD3D8, .csel 27 ⟨41, true⟩ ⟨54, false⟩),
   (0x060DD300, .clz 27 ⟨41, true⟩),
   (0x062DD300, .ctz 27 ⟨41, true⟩),
   (0x064DD300, .popc 27 ⟨41, true⟩),
   (0x066DD300, .brev 27 ⟨41, true⟩),
   (0x068DD300, .bswap 27 ⟨41, true⟩),
   (0x06ADD398, .exts 27 ⟨41, true⟩ 38),
   (0x06CDD398, .extz 27 ⟨41, true⟩ 38)]

theorem test_decode_integer : (integerWords.all fun p => decodeTableWord 64 p.1 == some p.2) = true := by decide +kernel

/-- The other direction, and the checks of R148 in a state. -/
theorem witness_integer : (integerWords.all fun p => encode p.2 == some (p.1 % 2 ^ 32, if p.1 < 2 ^ 32 then none else some (p.1 / 2 ^ 32)) &&
  p.2.wf && passes wSvc p.2) = true := by decide +kernel

/-- For ImmediateFormsExtendTheirImmediate. -/
def immediateWords : List (Nat × Instr) :=
  [(0x10DD3805, .addi 27 ⟨41, true⟩ 0x805),
   (0x12DD3805, .andi 27 ⟨41, true⟩ 0x805),
   (0x14DD3805, .ori 27 ⟨41, true⟩ 0x805),
   (0x16DD3805, .xori 27 ⟨41, true⟩ 0x805),
   (0x18DD300B, .shli 27 ⟨41, true⟩ 11),
   (0x18DD340B, .shri 27 ⟨41, true⟩ 11),
   (0x18DD380B, .srai 27 ⟨41, true⟩ 11),
   (0x1ADD3805, .slti 27 ⟨41, true⟩ 0x805),
   (0x1CDC0005, .movhi 27 0x40005),
   (0x1EDC0005, .addpc 27 0x40005)]

theorem test_decode_immediate : (immediateWords.all fun p => decodeTableWord 64 p.1 == some p.2) = true := by decide +kernel

/-- The other direction, and the checks of R148 in a state. -/
theorem witness_immediate : (immediateWords.all fun p => encode p.2 == some (p.1 % 2 ^ 32, if p.1 < 2 ^ 32 then none else some (p.1 / 2 ^ 32)) &&
  p.2.wf && passes wSvc p.2) = true := by decide +kernel

/-- For ScalarFloatsRoundOnceAndRaiseFlags. -/
def floatWords : List (Nat × Instr) :=
  [(0x080DD3D8, .fadd 27 ⟨41, true⟩ ⟨54, false⟩),
   (0x082DD3D8, .fsub 27 ⟨41, true⟩ ⟨54, false⟩),
   (0x084DD3D8, .fmul 27 ⟨41, true⟩ ⟨54, false⟩),
   (0x086DD3D8, .fma 27 ⟨41, true⟩ ⟨54, false⟩),
   (0x088DD3D8, .fdiv 27 ⟨41, true⟩ ⟨54, false⟩),
   (0x08ADD318, .fsqrt 27 ⟨41, true⟩ .rdn),
   (0x08CDD3D8, .fmin 27 ⟨41, true⟩ ⟨54, false⟩),
   (0x08EDD3D8, .fmax 27 ⟨41, true⟩ ⟨54, false⟩),
   (0x090DD3D8, .fcmp 27 ⟨41, true⟩ ⟨54, false⟩),
   (0x092DD318, .fcvti 27 ⟨41, true⟩ .rdn),
   (0x094DD318, .icvtf 27 ⟨41, true⟩ .rdn),
   (0x096DD300, .fclass 27 ⟨41, true⟩)]

theorem test_decode_float : (floatWords.all fun p => decodeTableWord 64 p.1 == some p.2) = true := by decide +kernel

/-- The other direction, and the checks of R148 in a state. -/
theorem witness_float : (floatWords.all fun p => encode p.2 == some (p.1 % 2 ^ 32, if p.1 < 2 ^ 32 then none else some (p.1 / 2 ^ 32)) &&
  p.2.wf && passes wSvc p.2) = true := by decide +kernel

/-- For CapabilityInstructionsDeriveWithoutGrowing. -/
def capabilityWords : List (Nat × Instr) :=
  [(0x0A039700, .cmov 7 ⟨11, true⟩),
   (0x0A2397D8, .cinc 7 ⟨11, true⟩ ⟨54, false⟩),
   (0x20397805, .cinci 7 ⟨11, true⟩ 0x805),
   (0x0A6397D8, .crights 7 ⟨11, true⟩ ⟨54, false⟩),
   (0x0A8D970C, .cget 27 ⟨11, true⟩ 3),
   (0x0AAD97D8, .ctest 27 ⟨11, true⟩ ⟨54, false⟩),
   (0x0A4397D8, .cbound 7 ⟨11, true⟩ ⟨54, false⟩)]

theorem test_decode_capability : (capabilityWords.all fun p => decodeTableWord 64 p.1 == some p.2) = true := by decide +kernel

/-- The other direction, and the checks of R148 in a state. -/
theorem witness_capability : (capabilityWords.all fun p => encode p.2 == some (p.1 % 2 ^ 32, if p.1 < 2 ^ 32 then none else some (p.1 / 2 ^ 32)) &&
  p.2.wf && passes wSvc p.2) = true := by decide +kernel

/-- For SpecialRegistersAreReadAndWritten, TrapAndPrivilegedFormsTakeTheirTrap and SystemRegisterAccessInAServiceContext. -/
def systemWords : List (Nat × Instr) :=
  [(0x0C0D9600, .mfs 27 11),
   (0x0C25D300, .mts 11 ⟨41, true⟩),
   (0x0C405300, .trap ⟨41, true⟩),
   (0x0C605300, .tret ⟨41, true⟩),
   (0x0C8DD300, .sysrd 27 ⟨41, true⟩),
   (0x0CA053D8, .syswr ⟨41, true⟩ ⟨54, false⟩)]

theorem test_decode_system : (systemWords.all fun p => decodeTableWord 64 p.1 == some p.2) = true := by decide +kernel

/-- The other direction, and the checks of R148 in a state. -/
theorem witness_system : (systemWords.all fun p => encode p.2 == some (p.1 % 2 ^ 32, if p.1 < 2 ^ 32 then none else some (p.1 / 2 ^ 32)) &&
  p.2.wf && passes wSvc p.2) = true := by decide +kernel

/-- For BranchesJumpsAndLoopsGoWhereTheyShould, SigEndsTheBlock and NopRetiresAndChangesNothingElse. -/
def controlWords : List (Nat × Instr) :=
  [(0x2C29C005, .beqz ⟨41, true⟩ 0x4005),
   (0x2C69C005, .bnez ⟨41, true⟩ 0x4005),
   (0x2CA9C005, .bltz ⟨41, true⟩ 0x4005),
   (0x2CE9C005, .bgez ⟨41, true⟩ 0x4005),
   (0x2D29C005, .bgtz ⟨41, true⟩ 0x4005),
   (0x2D69C005, .blez ⟨41, true⟩ 0x4005),
   (0x2F000005, .j 0x1000005),
   (0x31000005, .jal 0x1000005),
   (0x32DD3805, .jalr 27 ⟨41, true⟩ 0x805),
   (0x342D4005, .loop 45 0x4005),
   (0x36080005, .sig 0x80005),
   (0x3A000000, .yield)] ++
  [(0x3A200000, .endOp),
   (0x38000000, .nop)]

theorem test_decode_control : (controlWords.all fun p => decodeTableWord 64 p.1 == some p.2) = true := by decide +kernel

/-- The other direction, and the checks of R148 in a state. -/
theorem witness_control : (controlWords.all fun p => encode p.2 == some (p.1 % 2 ^ 32, if p.1 < 2 ^ 32 then none else some (p.1 / 2 ^ 32)) &&
  p.2.wf && passes wSvc p.2) = true := by decide +kernel

/-- For VectorArithmeticAndLogicAreElementwise. -/
def vectorWords : List (Nat × Instr) :=
  [(0x418256B5, .vadd .f32 18 ⟨22, true⟩ ⟨13, false⟩ true),
   (0x418A56B5, .vsub .f32 18 ⟨22, true⟩ ⟨13, false⟩ true),
   (0x419256B5, .vmul .f32 18 ⟨22, true⟩ ⟨13, false⟩ true),
   (0x409E56B5, .vmulh .i32 true 18 ⟨22, true⟩ ⟨13, false⟩ true),
   (0x402656B5, .vadds .i8 true 18 ⟨22, true⟩ ⟨13, false⟩ true),
   (0x406E56B5, .vsubs .i16 true 18 ⟨22, true⟩ ⟨13, false⟩ true),
   (0x40B656B5, .vmin .i32 true 18 ⟨22, true⟩ ⟨13, false⟩ true),
   (0x40BE56B5, .vmax .i32 true 18 ⟨22, true⟩ ⟨13, false⟩ true),
   (0x43825681, .vabs .f32 18 ⟨22, true⟩ true),
   (0x438A5681, .vneg .f32 18 ⟨22, true⟩ true),
   (0x425656B5, .vdiv .i16 true 18 ⟨22, true⟩ ⟨13, false⟩ true),
   (0x439A56B5, .vfma .f32 18 ⟨22, true⟩ ⟨13, false⟩ true)] ++
  [(0x43A256B5, .vfms .f32 18 ⟨22, true⟩ ⟨13, false⟩ true),
   (0x43AA56B5, .vfnma .f32 18 ⟨22, true⟩ ⟨13, false⟩ true),
   (0x458256B5, .vand .f32 18 ⟨22, true⟩ ⟨13, false⟩ true),
   (0x458A56B5, .vor .f32 18 ⟨22, true⟩ ⟨13, false⟩ true),
   (0x459256B5, .vxor .f32 18 ⟨22, true⟩ ⟨13, false⟩ true),
   (0x459A5681, .vnot .f32 18 ⟨22, true⟩ true),
   (0x44A256B5, .vshl .i32 18 ⟨22, true⟩ ⟨13, false⟩ true),
   (0x44AA56B5, .vshr .i32 18 ⟨22, true⟩ ⟨13, false⟩ true),
   (0x44B256B5, .vsra .i32 18 ⟨22, true⟩ ⟨13, false⟩ true)]

theorem test_decode_vector : (vectorWords.all fun p => decodeTableWord 64 p.1 == some p.2) = true := by decide +kernel

/-- The other direction, and the checks of R148 in a state. -/
theorem witness_vector : (vectorWords.all fun p => encode p.2 == some (p.1 % 2 ^ 32, if p.1 < 2 ^ 32 then none else some (p.1 / 2 ^ 32)) &&
  p.2.wf && passes wSvc p.2) = true := by decide +kernel

/-- For VectorComparesWriteTheirMask and MaskInstructionsWorkOnThePositionsOfTheType. -/
def maskWords : List (Nat × Instr) :=
  [(0x468476B5, .vcmpeq .i32 true 3 ⟨22, true⟩ ⟨13, false⟩ true),
   (0x464C76B5, .vcmpne .i16 true 3 ⟨22, true⟩ ⟨13, false⟩ true),
   (0x469476B5, .vcmplt .i32 true 3 ⟨22, true⟩ ⟨13, false⟩ true),
   (0x461C76B5, .vcmple .i8 true 3 ⟨22, true⟩ ⟨13, false⟩ true),
   (0x46A476B5, .vcmpgt .i32 true 3 ⟨22, true⟩ ⟨13, false⟩ true),
   (0x466C76B5, .vcmpge .i16 true 3 ⟨22, true⟩ ⟨13, false⟩ true),
   (0x498256B4, .vsel .f32 18 ⟨22, true⟩ ⟨13, false⟩),
   (0x49886598, .mand .f32 3 ⟨5, true⟩ ⟨6, false⟩),
   (0x49906598, .mor .f32 3 ⟨5, true⟩ ⟨6, false⟩),
   (0x49986598, .mxor .f32 3 ⟨5, true⟩ ⟨6, false⟩),
   (0x49A06580, .mnot .f32 3 ⟨5, true⟩),
   (0x49AA4580, .mpop .f32 18 ⟨5, true⟩)] ++
  [(0x49B24580, .mfirst .f32 18 ⟨5, true⟩),
   (0x49B87680, .mset .f32 3 ⟨22, true⟩)]

theorem test_decode_mask : (maskWords.all fun p => decodeTableWord 64 p.1 == some p.2) = true := by decide +kernel

/-- The other direction, and the checks of R148 in a state. -/
theorem witness_mask : (maskWords.all fun p => encode p.2 == some (p.1 % 2 ^ 32, if p.1 < 2 ^ 32 then none else some (p.1 / 2 ^ 32)) &&
  p.2.wf && passes wSvc p.2) = true := by decide +kernel

/-- For MovesAndPermutesPlaceTheirElements and ComputedRegisterNumbersAreChecked. -/
def moveWords : List (Nat × Instr) :=
  [(0x4B825681, .vmov .f32 18 ⟨22, true⟩ true),
   (0x4B8A5681, .vsplat .f32 18 ⟨22, true⟩ true),
   (0x4A9656B4, .vext .i32 true 18 ⟨22, true⟩ ⟨13, false⟩),
   (0x4B9A56B5, .vins .f32 18 ⟨22, true⟩ ⟨13, false⟩ true),
   (0x4A625681, .vidx .i16 18 ⟨22, true⟩ true),
   (0x4D8256B5, .vperm .f32 18 ⟨22, true⟩ ⟨13, false⟩ true),
   (0x4D8A56B5, .vrot .f32 18 ⟨22, true⟩ ⟨13, false⟩ true),
   (0x4D9256B5, .vslide .f32 18 ⟨22, true⟩ ⟨13, false⟩ true),
   (0x4D9A56B5, .vzip .f32 18 ⟨22, true⟩ ⟨13, false⟩ true),
   (0x4DA25481, .vunzip .f32 18 ⟨20, true⟩ true),
   (0x4F8256B5, .vgetr .f32 18 ⟨22, true⟩ ⟨13, false⟩ true),
   (0x4F8A56B5, .vputr .f32 18 ⟨22, true⟩ ⟨13, false⟩ true)]

theorem test_decode_move : (moveWords.all fun p => decodeTableWord 64 p.1 == some p.2) = true := by decide +kernel

/-- The other direction, and the checks of R148 in a state. -/
theorem witness_move : (moveWords.all fun p => encode p.2 == some (p.1 % 2 ^ 32, if p.1 < 2 ^ 32 then none else some (p.1 / 2 ^ 32)) &&
  p.2.wf && passes wSvc p.2) = true := by decide +kernel

/-- For ConversionsKeepBlockedOrder. -/
def convertWords : List (Nat × Instr) :=
  [(0x508654A5, .vcvt .i32 true 18 ⟨20, true⟩ .i16 true true),
   (0x504E54B5, .vwadd .i16 true 18 ⟨20, true⟩ ⟨13, false⟩ true),
   (0x501654B5, .vwmul .i8 true 18 ⟨20, true⟩ ⟨13, false⟩ true),
   (0x505E54D5, .vnarrow .i16 true 18 ⟨20, true⟩ 21 true),
   (0x51E0B680, .vfmt 5 ⟨22, true⟩)]

theorem test_decode_convert : (convertWords.all fun p => decodeTableWord 64 p.1 == some p.2) = true := by decide +kernel

/-- The other direction, and the checks of R148 in a state. -/
theorem witness_convert : (convertWords.all fun p => encode p.2 == some (p.1 % 2 ^ 32, if p.1 < 2 ^ 32 then none else some (p.1 / 2 ^ 32)) &&
  p.2.wf && passes wSvc p.2) = true := by decide +kernel

/-- For ReductionsFollowTheFixedTree and SortsAreOrderedAndStable. -/
def reduceWords : List (Nat × Instr) :=
  [(0x52865689, .vred .i32 true 18 ⟨22, true⟩ .max true),
   (0x538A56B5, .vdot .f32 false 18 ⟨22, true⟩ ⟨13, false⟩ true),
   (0x52565689, .vscan .i16 true 18 ⟨22, true⟩ .max true),
   (0x54864014, .vsort .i32 true 18 1 true),
   (0x544E5694, .vsortkv .i16 true 18 ⟨22, true⟩ 1 true),
   (0x549656B4, .vmerge .i32 true 18 ⟨22, true⟩ ⟨13, false⟩),
   (0x541E56B4, .vtopk .i8 true 18 ⟨22, true⟩ ⟨13, false⟩)]

theorem test_decode_reduce : (reduceWords.all fun p => decodeTableWord 64 p.1 == some p.2) = true := by decide +kernel

/-- The other direction, and the checks of R148 in a state. -/
theorem witness_reduce : (reduceWords.all fun p => encode p.2 == some (p.1 % 2 ^ 32, if p.1 < 2 ^ 32 then none else some (p.1 / 2 ^ 32)) &&
  p.2.wf && passes wSvc p.2) = true := by decide +kernel

/-- For SpecialFunctionsAndRandomAreElementwise and TritsPackUnpackAndCheck. -/
def specialWords : List (Nat × Instr) :=
  [(0x57825681, .vrcp 18 ⟨22, true⟩ true),
   (0x578A5681, .vrsq 18 ⟨22, true⟩ true),
   (0x57925699, .vsqrt 18 ⟨22, true⟩ .rdn true),
   (0x579A5681, .vexp2 18 ⟨22, true⟩ true),
   (0x57A25681, .vlog2 18 ⟨22, true⟩ true),
   (0x57AA5681, .vtanh 18 ⟨22, true⟩ true),
   (0x588656B5, .vrand true 18 ⟨22, true⟩ ⟨13, false⟩ true),
   (0x5A025680, .vpackt .i8 18 ⟨22, true⟩),
   (0x5ACA5680, .vunpkt .i4 18 ⟨22, true⟩),
   (0x5A125680, .vtchk 18 ⟨22, true⟩)]

theorem test_decode_special : (specialWords.all fun p => decodeTableWord 64 p.1 == some p.2) = true := by decide +kernel

/-- The other direction, and the checks of R148 in a state. -/
theorem witness_special : (specialWords.all fun p => encode p.2 == some (p.1 % 2 ^ 32, if p.1 < 2 ^ 32 then none else some (p.1 / 2 ^ 32)) &&
  p.2.wf && passes wSvc p.2) = true := by decide +kernel

/-- For ScratchpadLoadsAndStoresAreExact, ScatteredAccessesReachTheirPlaces and PackedFieldsMoveBitByBit. -/
def scratchWords : List (Nat × Instr) :=
  [(0x80DBA705, .lds .n16 27 ⟨41, true⟩ 0x105),
   (0x82A6B705, .sts .w32 ⟨38, true⟩ 45 0x105),
   (0x8412A705, .vlds 18 ⟨41, true⟩ 0x105),
   (0x8453B705, .vsts ⟨19, true⟩ 45 0x105),
   (0x860953D8, .vldss 18 ⟨41, true⟩ ⟨54, false⟩),
   (0x86495334, .vgats 18 ⟨41, true⟩ ⟨13, false⟩),
   (0x862953D8, .vstss 18 ⟨41, true⟩ ⟨54, false⟩),
   (0x86695334, .vscts 18 ⟨41, true⟩ ⟨13, false⟩),
   (0x880953D8, .vldb 18 ⟨41, true⟩ ⟨54, false⟩),
   (0x882953D8, .vstb 18 ⟨41, true⟩ ⟨54, false⟩)]

theorem test_decode_scratch : (scratchWords.all fun p => decodeTableWord 64 p.1 == some p.2) = true := by decide +kernel

/-- The other direction, and the checks of R148 in a state. -/
theorem witness_scratch : (scratchWords.all fun p => encode p.2 == some (p.1 % 2 ^ 32, if p.1 < 2 ^ 32 then none else some (p.1 / 2 ^ 32)) &&
  p.2.wf && passes wSvc p.2) = true := by decide +kernel

/-- For WindowsAndFullBitsSynchronise and BarrierInstructionsActAtCommit. -/
def windowWords : List (Nat × Instr) :=
  [(0x8B26B705, .stn 1 ⟨38, true⟩ 45 0x105),
   (0x8B53B705, .vstn 1 ⟨19, true⟩ 45 0x105),
   (0x8C1BA705, .ldf 27 ⟨41, true⟩ 0x105),
   (0x8C52A705, .vldf 18 ⟨41, true⟩ 0x105),
   (0x8CE6B705, .fset ⟨38, true⟩ 45 0x105),
   (0x8CA6B705, .fclr ⟨38, true⟩ 45 0x105),
   (0x8E1BA705, .waita 27 ⟨41, true⟩ 0x105),
   (0xB00053D8, .binit ⟨41, true⟩ ⟨54, false⟩),
   (0xB0205300, .barr ⟨41, true⟩),
   (0xB04053D8, .bwait ⟨41, true⟩ ⟨54, false⟩),
   (0xB06DD300, .bstat 27 ⟨41, true⟩)]

theorem test_decode_window : (windowWords.all fun p => decodeTableWord 64 p.1 == some p.2) = true := by decide +kernel

/-- The other direction, and the checks of R148 in a state. -/
theorem witness_window : (windowWords.all fun p => encode p.2 == some (p.1 % 2 ^ 32, if p.1 < 2 ^ 32 then none else some (p.1 / 2 ^ 32)) &&
  p.2.wf && passes wSvc p.2) = true := by decide +kernel

/-- For GlobalReadsLeaveForTheirHome, GlobalStoresJoinsAndCapsEnterTheOutbox and ThresholdReadsParkOrAnswer. -/
def globalWords : List (Nat × Instr) :=
  [(0x99412E83E006E980, .ldx 9 .w16 (.acq .sys) 27 ⟨⟨41, true⟩, ⟨11, true⟩, 0x83⟩),
   (0x99402E83E024A980, .vldx 9 (.acq .sys) 18 ⟨⟨41, true⟩, ⟨11, true⟩, 0x83⟩),
   (0x99402E83E041E980, .ldc 9 (.acq .sys) 7 ⟨⟨41, true⟩, ⟨11, true⟩, 0x83⟩),
   (0x995D2E83E606E980, .xrd 9 .union .w16 (.acq .sys) 27 ⟨⟨41, true⟩, ⟨11, true⟩, 0x83⟩),
   (0x994A2F83E614A980, .vxrd 9 .maxi .w32 (.acq .sys) 18 ⟨⟨41, true⟩, ⟨11, true⟩, 0x83⟩ true),
   (0x95812E83E01029ED, .stx 9 .w16 (.rel .pkg) ⟨⟨41, true⟩, ⟨11, true⟩, 0x83⟩ ⟨54, true⟩),
   (0x95802E83E03029AD, .vstx 9 (.rel .pkg) ⟨⟨41, true⟩, ⟨11, true⟩, 0x83⟩ ⟨22, true⟩),
   (0x95802E83E050299B, .stc 9 (.rel .pkg) ⟨⟨41, true⟩, ⟨11, true⟩, 0x83⟩ ⟨13, true⟩),
   (0x95872E83E20029ED, .join 9 .maxn .w64 (.rel .pkg) ⟨⟨41, true⟩, ⟨11, true⟩, 0x83⟩ ⟨54, true⟩),
   (0x95872E83E21029AD, .vjoin 9 .maxn .w64 (.rel .pkg) ⟨⟨41, true⟩, ⟨11, true⟩, 0x83⟩ ⟨22, true⟩),
   (0x95A72E83E221A9AD, .vjoinx 9 .fill .w64 (.rel .pkg) ⟨⟨41, true⟩, ⟨11, true⟩, 0x83⟩ ⟨22, true⟩ 6),
   (0x941D2E83E62029ED, .cap 9 .union .w16 .die false ⟨⟨41, true⟩, ⟨11, true⟩, 0x83⟩ ⟨54, true⟩)] ++
  [(0x99622E83E406E9ED, .thr 9 .count .w32 (.acq .sys) 27 ⟨⟨41, true⟩, ⟨11, true⟩, 0x83⟩ ⟨54, true⟩),
   (0x996B2E83E414A9ED, .thrf 9 .lap .w64 (.acq .sys) 18 ⟨⟨41, true⟩, ⟨11, true⟩, 0x83⟩ ⟨54, true⟩),
   (0x94C00000E8000000, .fence 9 .die),
   (0x90002E00EA01C06D, .ofork 9 7 ⟨11, true⟩ ⟨54, true⟩)]

theorem test_decode_global : (globalWords.all fun p => decodeTableWord 64 p.1 == some p.2) = true := by decide +kernel

/-- The other direction, and the checks of R148 in a state. -/
theorem witness_global : (globalWords.all fun p => encode p.2 == some (p.1 % 2 ^ 32, if p.1 < 2 ^ 32 then none else some (p.1 / 2 ^ 32)) &&
  p.2.wf && passes wSvc p.2) = true := by decide +kernel

/-- For TileWalkInstructionsUseTheCombsChannel, SpawnReservesARecord, GroupInstructionsEnterTheirEffects and MessagesAndHandlersActAtCommit. -/
def taskWords : List (Nat × Instr) :=
  [(0x90002E83EC016980, .twgo 9 5 ⟨⟨41, true⟩, ⟨11, true⟩, 0x83⟩),
   (0x90000000EC11406D, .twperm 9 5 ⟨54, true⟩),
   (0x90000015EC26C000, .twstat 9 27 5 2),
   (0x90000000EC31406D, .twwait 9 5 ⟨54, true⟩),
   (0x90002F3DEE06E9ED, .spawn 9 27 ⟨41, true⟩ ⟨54, true⟩ ⟨11, true⟩ 13 3 true),
   (0x90002F3DEE16E9ED, .spawnat 9 27 ⟨41, true⟩ ⟨54, true⟩ ⟨11, true⟩ 13 3 true),
   (0x90002E83EE26E9CA, .tgnew 9 27 ⟨⟨41, true⟩, ⟨11, true⟩, 0x83⟩ 37),
   (0x90002E00EE302980, .tgclose 9 ⟨41, true⟩ ⟨11, true⟩),
   (0x90000000EE402980, .cancel 9 ⟨41, true⟩),
   (0x90000000EE5029ED, .setdl 9 ⟨41, true⟩ ⟨54, true⟩),
   (0x90000000EE6029ED, .setbg 9 ⟨41, true⟩ ⟨54, true⟩),
   (0x90000025F00029ED, .msg 9 ⟨41, true⟩ ⟨54, true⟩ 37)] ++
  [(0x90002E25F01029ED, .hreg 9 ⟨41, true⟩ ⟨54, true⟩ ⟨11, true⟩ 37),
   (0x90000025F0200000, .hdrop 9 37)]

theorem test_decode_task : (taskWords.all fun p => decodeTableWord 64 p.1 == some p.2) = true := by decide +kernel

/-- The other direction, and the checks of R148 in a state. -/
theorem witness_task : (taskWords.all fun p => encode p.2 == some (p.1 % 2 ^ 32, if p.1 < 2 ^ 32 then none else some (p.1 / 2 ^ 32)) &&
  p.2.wf && passes wSvc p.2) = true := by decide +kernel

/-- For ArrayLeasesFormatsAndTiles and ArrayComputesExactly. -/
def arrayWords : List (Nat × Instr) :=
  [(0x90000000F2000000, .tlease 9),
   (0x90000000F2100000, .trel 9),
   (0x90000006F2200000, .tfmt 9 0 6),
   (0x90002F83F2302980, .tldw 9 ⟨⟨41, true⟩, ⟨11, true⟩, 0x83⟩ true),
   (0x90000183F246E9ED, .tmma 9 27 ⟨41, true⟩ ⟨54, true⟩ 0x83 true),
   (0x90050083F256E9ED, .tdrain 9 true false 27 ⟨41, true⟩ ⟨54, true⟩ 0x83 true false),
   (0x90000000F266C06D, .tzero 9 27 ⟨54, true⟩),
   (0x90000002F276C000, .tstat 9 27 2)]

theorem test_decode_array : (arrayWords.all fun p => decodeTableWord 64 p.1 == some p.2) = true := by decide +kernel

/-- The other direction, and the checks of R148 in a state. -/
theorem witness_array : (arrayWords.all fun p => encode p.2 == some (p.1 % 2 ^ 32, if p.1 < 2 ^ 32 then none else some (p.1 / 2 ^ 32)) &&
  p.2.wf && passes wSvc p.2) = true := by decide +kernel

/-! Ill-formed terms, one for each check of WellFormed, at the first value that the check refuses. -/

def badTerms : List Instr :=
  let x : VSrc := ⟨1, false⟩
  let g : GAddr := ⟨⟨1, false⟩, ⟨2, false⟩, 0⟩
  let g4 : GAddr := ⟨⟨1, false⟩, ⟨2, false⟩, 0xC0⟩
  let p : SSrc := ⟨3, false⟩
  [.cget 1 ⟨2, false⟩ 5, .mfs 1 14, .mts 15 p, .loop 0 1,
   .vadd .x8 1 x x false, .vsub .x8 1 x x false, .vmul .x8 1 x x false, .vabs .x8 1 x false, .vneg .x8 1 x false,
   .vfma .x8 1 x x false, .vfms .x8 1 x x false, .vfnma .x8 1 x x false,
   .vmulh .f32 false 1 x x false, .vadds .i4 true 1 x x false, .vsubs .bf16 false 1 x x false,
   .vmin .f16 true 1 x x false, .vmax .x8 false 1 x x false, .vdiv .i4 true 1 x x false] ++
  [.vshl .f32 1 x x false, .vshr .bf16 1 x x false, .vsra .x8 1 x x false, .vidx .f16 1 x false,
   .vcmpeq .x8 false 1 x x false, .vcmpne .f32 true 1 x x false, .vcmplt .i4 true 1 x x false, .vcmple .x8 false 1 x x false,
   .vcmpgt .bf16 true 1 x x false, .vcmpge .x8 true 1 x x false,
   .vext .f32 true 1 x x, .vperm .i8 1 x x false, .vzip .i8 1 x x false, .vunzip .i8 1 ⟨2, false⟩ false,
   .vunzip .i8 2 ⟨1, false⟩ false, .vcvt .x8 false 2 ⟨4, false⟩ .x8 false false, .vcvt .i32 false 2 ⟨4, false⟩ .i8 false false,
   .vcvt .i4 false 2 ⟨4, false⟩ .i32 false false, .vcvt .f32 true 4 ⟨4, false⟩ .i32 false false] ++
  [.vwadd .i32 false 2 x x false, .vwmul .i8 false 1 x x false, .vnarrow .i32 false 1 ⟨2, false⟩ 0 false,
   .vnarrow .i8 false 2 x 0 false, .vred .x8 false 1 x .sum false, .vdot .x8 false 1 x x false, .vscan .f32 true 1 x .sum false,
   .vsort .i4 false 1 0 false, .vsortkv .i8 false 1 ⟨2, false⟩ 0 false, .vsortkv .i16 false 8 ⟨16, false⟩ 3 false,
   .vsortkv .i16 false 4 ⟨5, false⟩ 1 false, .vmerge .i16 false 1 x x, .vtopk .i16 false 3 x x, .vpackt .i16 1 x,
   .vunpkt .i32 1 x] ++
  [.join 0 .maxf .w64 .relaxed g p, .vjoin 0 .fill .w32 .relaxed g x, .vjoinx 0 .arr .w8 .relaxed g x 0,
   .xrd 0 .lap .w32 .relaxed 1 g, .vxrd 0 .minf .w16 .relaxed 1 g false, .cap 0 .fill .w32 .die false g p,
   .thr 0 .maxf .w64 .relaxed 1 g p, .thr 0 .fill .w64 .relaxed 1 g4 ⟨61, false⟩, .thrf 0 .fill .w64 .relaxed 1 g ⟨1, false⟩,
   .thrf 0 .fill .w64 .relaxed 1 g ⟨0, true⟩, .spawn 0 1 p p ⟨2, false⟩ 0 5 false, .spawnat 0 1 ⟨63, false⟩ p ⟨2, false⟩ 0 0 false,
   .msg 0 p ⟨61, false⟩ 4, .hreg 0 ⟨63, false⟩ p ⟨2, false⟩ 4, .tfmt 0 3 0, .tfmt 0 1 1,
   .tdrain 0 true true 1 p p 0 false false, .tdrain 0 false false 1 p p 0 true true,
   .tdrain 0 false false 1 p ⟨63, false⟩ 0 true false, .tstat 0 1 3]

theorem test_wellformed_refuses : (badTerms.all fun i => !i.wf) = true := by decide +kernel

/-! One step each; the results are worked out by hand from the rules cited. -/

/-- What stands in s5 after the word w. -/
def s5After (s : State) (w : Nat) : Option Nat := match step (s.putAtPc (toBytes w 8)) with
  | .next t => some (t.rS 5).toNat
  | _ => none

/-- R154, R156: ADDI s5, s5, 1 wraps to 0 and does not touch another register. -/
theorem test_addi_wraps : s5After (sr w0 [(5, 2 ^ 64 - 1)]) 0x1028A001 = some 0 := by decide +kernel

/-- The state after an instruction; w0 where there is none. -/
def after (i : Instr) (s : State) : State := match exec i s with
  | .next t => t
  | _ => w0

/-- R70: the least number divided by -1 wraps, and a zero divisor gives all ones. -/
theorem test_div_corners :
    (after (.div 5 ⟨6, false⟩ ⟨7, false⟩) (sr w0 [(6, 2 ^ 63), (7, 2 ^ 64 - 1)])).rS 5 = 0x8000000000000000 ∧
    (after (.divn 5 ⟨6, false⟩ ⟨7, false⟩) (sr w0 [(6, 9), (7, 0)])).rS 5 = BitVec.allOnes 64 := by decide +kernel

/-- R155: a rotation by 68 is one by 4. R31: s0 discards what is written. -/
theorem test_rol_and_s0 : (after (.rol 5 ⟨6, false⟩ ⟨7, false⟩) (sr w0 [(6, 0xF000000000000001), (7, 68)])).rS 5 = 0x1F ∧
    (after (.addi 0 ⟨0, false⟩ 7) w0).rS 0 = 0 := by decide +kernel

/-- R163, R164: JALR reads its target before it writes the link. R165: LOOP ends at zero. -/
theorem test_jalr_and_loop :
    (after (.jalr 6 ⟨6, false⟩ 4) (sr w0 [(6, 0x1000)])).ln.pc = 0x1004 ∧
    (after (.jalr 6 ⟨6, false⟩ 4) (sr w0 [(6, 0x1000)])).rS 6 = w0.ln.pc + 4 ∧
    (after (.loop 5 (-1)) (sr w0 [(5, 1)])).ln.pc = w0.ln.pc + 4 ∧ (after (.loop 5 (-1)) (sr w0 [(5, 2)])).ln.pc = w0.ln.pc - 4 := by
  decide +kernel

/-- R71, R158: 2^24 + 1 halves: 16777216 + 1 is a tie, to even, and inexact; 1 / 0 raises DZ. -/
theorem test_float_flags :
    (after (.fadd 5 ⟨6, false⟩ ⟨7, false⟩) (sr w0 [(6, 0x4B800000), (7, 0x3F800000)])).rS 5 = 0x4B800000 ∧
    (after (.fadd 5 ⟨6, false⟩ ⟨7, false⟩) (sr w0 [(6, 0x4B800000), (7, 0x3F800000)])).ln.fpc = BitVec.ofNat 64 (fNX * 256) ∧
    (after (.fdiv 5 ⟨6, false⟩ ⟨7, false⟩) (sr w0 [(6, 0x3F800000)])).rS 5 = 0x7F800000 := by decide +kernel

/-- R104: a marked source dies, unless it is written. -/
theorem test_last_use : (after (.add 5 ⟨6, true⟩ ⟨5, true⟩) w0).ln.sLive 6 = false ∧
    (after (.add 5 ⟨6, true⟩ ⟨5, true⟩) w0).ln.sLive 5 = true := by decide +kernel

/-- R201: a store of 8 bytes at the scratchpad's last place, read back with its sign; one byte further traps (R102: the
record becomes READY for its confirming run). -/
theorem test_scratch_edge :
    let s := after (.sts .w64 ⟨6, false⟩ 7 0) (sr w0 [(6, 0x80FF000000000000), (7, w0.scratchSize - 8)])
    (after (.lds .i16 5 ⟨7, false⟩ 3) s).rS 5 = 0xFFFFFFFFFFFF80FF ∧
    ((after (.sts .w64 ⟨6, false⟩ 7 1) s).record 1).st = .ready := by decide +kernel

/-- R177, R180: integer elements wrap by themselves, inactive ones keep their value. -/
theorem test_vadd_masked :
    let s := (vr w0 [(1, 0x0000FFFF), (2, 0x00010001), (3, 0x7777777777777777)]).wM 0 1
    ((after (.vadd .i16 3 ⟨1, false⟩ ⟨2, false⟩ true) s).rV 3).toNat = 0x7777777777770000 := by decide +kernel

/-- R182: a signed compare. R191: the least of the elements. -/
theorem test_vcmp_and_vred :
    let s := vr w0 [(1, 0xFFFFFFFF00000001)]
    (after (.vcmplt .i32 false 2 ⟨1, false⟩ ⟨4, false⟩ false) s).rM 2 = 2 ∧
    (after (.vred .i32 false 3 ⟨1, false⟩ .min false) s).rV 3 = 0xFFFFFFFF := by decide +kernel

/-- R198: an empty slot unpacks, a byte above 242 raises TRITBYTE. -/
theorem test_vunpkt : ((after (.vunpkt .i8 3 ⟨1, false⟩) (vr w0 [(1, 5)])).rV 3).toNat = 0x01FF ∧
    ((after (.vunpkt .i8 3 ⟨1, false⟩) (vr w0 [(1, 243)])).record 1).confirm = true := by decide +kernel

/-- R161, Table 7-4: CBOUND narrows the window, and a wider one traps. -/
theorem test_cbound :
    let s := w0.wC 2 (mkCap w0.ln.pc.toNat 1 0x41 0 0)
    let t := after (.cbound 3 ⟨2, false⟩ ⟨5, false⟩) (sr s [(5, 4 + 2 * 2 ^ 20)])
    capWoff (t.rC 3) = 4 ∧ capWlen (t.rC 3) = 2 ∧
    ((after (.cbound 4 ⟨3, false⟩ ⟨5, false⟩) (sr t [(5, 4 + 3 * 2 ^ 20)])).record 1).confirm = true := by decide +kernel

/-- R137: a word of zeros is unassigned, and its trap returns the record. -/
theorem test_unassigned : (match step (w0.putAtPc (toBytes 0 8)) with
    | .next t => (t.record 1).confirm
    | _ => false) = true := by decide +kernel

/-! The spec's worked examples. -/

/-- The words that the spec's examples write out (R137, R157, R160, R162 to R166, R185, R217, R221, R228 to R237). -/
def exampleWords : List (Nat × Instr) :=
  [(0x1028A001, .addi 5 ⟨5, false⟩ 1), (0x02030A1E, .add 6 ⟨5, false⟩ ⟨7, true⟩), (0x360B18DB, .sig 0xB18DB), (0x38000000, .nop),
   (0x0A420618, .cbound 4 ⟨3, false⟩ ⟨6, false⟩), (0x0A62881C, .crights 5 ⟨4, false⟩ ⟨7, false⟩), (0x0A840A08, .cget 8 ⟨5, false⟩ 2),
   (0x2C59000C, .bnez ⟨25, false⟩ 12), (0x34097FFD, .loop 9 (-3)), (0x4180618A, .vadd .f32 3 ⟨1, true⟩ ⟨2, true⟩ false),
   (0x8B897A00, .stn 2 ⟨9, true⟩ 30 0), (0x4F804814, .vgetr .f32 2 ⟨8, false⟩ ⟨5, false⟩ false)] ++
  [(0x25870C00E200040A, .join 2 .maxn .w64 (.rel .pkg) ⟨⟨4, false⟩, ⟨3, false⟩, 0⟩ ⟨5, false⟩),
   (0x021D0C00E6200015, .cap 0 .union .w16 .comb false ⟨⟨0, false⟩, ⟨3, false⟩, 0⟩ ⟨10, true⟩),
   (0x09671040E406402F, .thr 0 .fill .w64 (.acq .sys) 25 ⟨⟨0, false⟩, ⟨4, false⟩, 0x40⟩ ⟨23, true⟩),
   (0xF2000000, .tlease 0), (0x1F2200000, .tfmt 0 0 1), (0x1000F2300500, .tldw 0 ⟨⟨5, false⟩, ⟨4, false⟩, 0⟩ false),
   (0xF2628016, .tzero 0 10 ⟨11, false⟩), (0xF2428C16, .tmma 0 10 ⟨12, false⟩ ⟨11, false⟩ 0 false),
   (0xF2528D16, .tdrain 0 false false 10 ⟨13, false⟩ ⟨11, false⟩ 0 false false), (0xF2100000, .trel 0)]

theorem test_example_words : (exampleWords.all fun p => decodeTableWord 64 p.1 == some p.2) = true := by decide +kernel

/-- The example of R133 and R134: after ADDI and ADD the checker holds 0xB18DB, and the SIG of that value matches. -/
theorem test_example_signature :
    let s := after (.addi 5 ⟨5, false⟩ 1) { w0 with ir := 0x1028A001 }
    let t := after (.add 6 ⟨5, false⟩ ⟨7, true⟩) { s with ir := 0x02030A1E }
    s.ln.sig = 0x8B021 ∧ t.ln.sig = 0xB18DB := by decide +kernel

/-- The example after R159: FMA rounds once, FMUL and FADD twice. -/
theorem test_example_fma :
    let s := sr w0 [(6, 0x3F800001), (7, 0x3F7FFFFE), (5, 0xBF800000)]
    let t := after (.fmul 8 ⟨6, false⟩ ⟨7, false⟩) s
    (after (.fma 5 ⟨6, false⟩ ⟨7, false⟩) s).rS 5 = 0xA8800000 ∧ (after (.fma 5 ⟨6, false⟩ ⟨7, false⟩) s).ln.fpc = 0 ∧
    t.rS 8 = 0x3F800000 ∧ t.ln.fpc = BitVec.ofNat 64 (fNX * 256) ∧ (after (.fadd 8 ⟨8, false⟩ ⟨5, false⟩) t).rS 8 = 0 := by decide +kernel

/-- The example after R161: CBOUND, CRIGHTS, CGET, and a further CRIGHTS without right D. -/
theorem test_example_capability :
    let o : Obj := ⟨0x10000000000, 256, .excl, .w8, 0, 1, 0, 0, 0, false, false, false, false, none⟩
    let s := sr ((w0.onK (fun k => { k with objs := [(0x42, o)] })).wC 3 (BitVec.ofNat 128 (0x0F300042 * 2 ^ 64 + 0x10000000000))) [(6, 0x800010), (7, 1)]
    let s4 := after (.cbound 4 ⟨3, false⟩ ⟨6, false⟩) s
    let s5 := after (.crights 5 ⟨4, false⟩ ⟨7, false⟩) s4
    (s4.rC 4).toNat / 2 ^ 64 = 0x000800010F300042 ∧ (s5.rC 5).toNat = 0x0008000100100042 * 2 ^ 64 + 0x10000000000 ∧
    (after (.cget 8 ⟨5, false⟩ 2) s5).rS 8 = 1 ∧ (s5.preCheck (.crights 6 ⟨5, false⟩ ⟨7, false⟩)).isNone = true ∧
    ((after (.crights 6 ⟨5, false⟩ ⟨7, false⟩) s5).record 1).confirm = true := by decide +kernel

/-- The example after R192: the tree of VRED keeps what an order from left to right loses; VSCAN's first prefix. -/
theorem test_example_vred : let s := vr w0 [(1, 0x3F8000003F8000003F8000004B800000)]
    ((after (.vred .f32 false 3 ⟨1, false⟩ .sum false) s).rV 3).toNat = 0x4B800001 ∧
    elemAt 32 ((after (.vscan .f32 false 4 ⟨1, false⟩ .sum false) s).rV 4) 0 = 0x4B800000 := by decide +kernel

/-- The example after R199: five trits in byte 0, one in byte 51, and a check that finds nothing. -/
theorem test_example_trits :
    let s := vr w0 [(2, 1 + 0xFF * 2 ^ 16 + 2 ^ 32 + 0xFF * 2 ^ (8 * 255))]
    let t := after (.vpackt .i8 3 ⟨2, false⟩) s
    (t.rV 3).toNat = 0x64 + 2 * 2 ^ (8 * 51) ∧ (after (.vtchk 7 ⟨3, false⟩) t).rS 7 = 0 := by decide +kernel

/-- The two examples after R90: E4M3 with scale 1, E5M2 with scale 0.5. -/
theorem test_example_dot :
    let u (f : BitVec 32) (l : List Nat) : List Int := l.map (fun x => (unitsOf (.narrow f) x).getD 0)
    let row (f : BitVec 32) (c : List Int) (l : List Nat) : Row := (accRow [c] (lsbOf (.narrow f)) (u f l) ⟨[0], none⟩).1
    let of (t : FFmt) (r : Row) (scale : Nat) : Nat := drainVal t (lget r.vals 0 0) (r.weight.getD 0) scale
    let r1 := row 0x00020798 [1, -1, 1, 1] [0x38, 0xB4, 0x7E, 0x01]
    let r2 := row 0x00010FB8 [1, 1, -1] [0x7B, 0x01, 0x7B]
    r1 = ⟨[230273], some (-9)⟩ ∧ of fmtF32 r1 0x3F800000 = 0x43E0E040 ∧
    of fmtBF16 r1 0x3F800000 = 0x43E1 ∧ r2 = ⟨[1], some (-16)⟩ ∧ of fmtF32 r2 0x3F000000 = 0x37000000 := by decide +kernel

/-! Hypotheses of the statements about instructions. Clauses that only ask for Passes are met by the witness of their
family above; here are the others, each at a boundary where it has one. -/

def isOk {α : Type} (e : Except Nat α) : Bool := match e with
  | .ok _ => true
  | .error _ => false

def isErr {α : Type} (e : Except Nat α) (code : Nat) : Bool := match e with
  | .ok _ => false
  | .error c => c == code

/-- w0 with another record, or another lane. -/
def wRec (f : Rec → Rec) : State := w0.onK (fun k => { k with recs := [(1, f placeRec)] })
def wLn (f : Lane → Lane) : State := w0.onLn f

/-- An instruction is read back from its words. -/
theorem witness_DecodeOfEncode : let i : Instr := .addi 5 ⟨5, false⟩ 1
    (i.wf && (encode i).isSome) = true ∧ decodeWords 0x1028A001 (some 0) = .ok i := ⟨by decide, rfl⟩

/-- Lane 0 is told to issue an ADDI, or comes to issue it by itself; and event turns, and nothing to do. -/
def wFetch : State := State.reset.withFetchWord 32 0x1028A001

theorem fetches_sound {v : State} {l : Nat} {i : Instr} {n : Nat}
    (h : (v.cur == l && v.hasLane l && (v.ln.st == .run || v.ln.st == .finish) && v.ln.rd.isNone && v.inSlice (combOf v.lcore) &&
      !v.budgetDue && v.ln.pc.toNat % 4 == 0 && v.inCode v.ln.pc.toNat) = true)
    (hd : decode (v.readV v.ln.pc.toNat (if v.inCode (v.ln.pc.toNat + 4) then 8 else 4)) = .ok (i, n) ∧
      v.poisonedAt v.ln.pc.toNat n = false) :
    v.Fetches l i (BitVec.ofNat 32 (ofBytes (v.readV v.ln.pc.toNat 4))) := by
  simp only [Bool.and_eq_true, Bool.or_eq_true, beq_iff_eq, Bool.not_eq_true', Option.isNone_iff_eq_none] at h
  obtain ⟨⟨⟨⟨⟨⟨⟨h1, h2⟩, h3⟩, h4⟩, h5⟩, h6⟩, h7⟩, h8⟩ := h
  exact ⟨h1, h2, h3, h4, h5, h6, h7, h8, ⟨n, hd⟩, rfl⟩

/-- The bytes that a state fetches, when they decode to i. -/
def fetched (v : State) (i : Instr) (n : Nat) : Bool :=
  match decode (v.readV v.ln.pc.toNat (if v.inCode (v.ln.pc.toNat + 4) then 8 else 4)) with
  | .ok x => x.1 == i && x.2 == n && !v.poisonedAt v.ln.pc.toNat n
  | .error _ => false

theorem fetched_sound {v : State} {i : Instr} {n : Nat} (h : fetched v i n = true) :
    decode (v.readV v.ln.pc.toNat (if v.inCode (v.ln.pc.toNat + 4) then 8 else 4)) = .ok (i, n) ∧
      v.poisonedAt v.ln.pc.toNat n = false := by
  unfold fetched at h
  split at h
  · rename_i x hx
    simp only [Bool.and_eq_true, beq_iff_eq, Bool.not_eq_true'] at h
    exact ⟨by rw [hx, ← h.1.1, ← h.1.2], h.2⟩
  · contradiction

theorem witness_StepRuns : let v := ((({ wFetch with sched := [] }).pass 0 0).focus 0).focusLane 0
    wFetch.sched = [⟨0, 0, .issue 0 0⟩] ∧
    v.Fetches 0 (.addi 5 ⟨5, false⟩ 1) (BitVec.ofNat 32 (ofBytes (v.readV v.ln.pc.toNat 4))) :=
  ⟨by decide +kernel, fetches_sound (by decide +kernel) (fetched_sound (n := 4) (by decide +kernel))⟩

/-- A package whose boot is over. -/
def booted (s : State) : State := { s with hw := [(0, { Pkg.init with state := 2 })] }

theorem witness_StepRuns_auto : let s := { booted wFetch with sched := [] }
    let v := ((s.pass 1 (nsOf (s.cyc + 1) - nsOf s.cyc)).focus 0).focusLane 0
    (s.autoChoice = some (.issue 0 0) ∧
    v.Fetches 0 (.addi 5 ⟨5, false⟩ 1) (BitVec.ofNat 32 (ofBytes (v.readV v.ln.pc.toNat 4)))) ∧
    (booted State.reset).autoChoice = none :=
  ⟨⟨by decide +kernel, fetches_sound (by decide +kernel) (fetched_sound (n := 4) (by decide +kernel))⟩, by decide +kernel⟩

theorem witness_EveryStep : (booted State.reset).Inv ∧ step (booted State.reset) = .next ((booted State.reset).pass 11 10) :=
  ⟨by unfold State.Inv; decide +kernel, by
    have h : (booted State.reset).autoChoice = none := witness_StepRuns_auto.2
    have : step (booted State.reset) = (booted State.reset).auto := rfl
    rw [this, State.auto, h]⟩

theorem witness_Traps :
    let i : Instr := .ldx 0 .w32 (.rel .pkg) 1 ⟨⟨1, false⟩, ⟨2, false⟩, 0⟩
    let p := State.reset.place
    -- the block is full; no SIG follows; ORDER; PRIV; REGBOUND; DEADREG
    (decide (256 ≤ (wLn (fun l => { l with blk := 256 })).ln.blk) && suspends .yield && !p.sigAt (p.ln.pc.toNat + 4) && orderBad i &&
    privBad false (.tret ⟨1, false⟩) && ((wRec (fun r => { r with f := { r.f with alloc := 8 } })).alloc == 8) &&
    (foot (.vmov .i8 8 ⟨1, false⟩ false)).wv.contains 8 && !(wLn (fun l => { l with liveS := 1 })).ln.sLive 1 &&
    (foot (.abs 2 ⟨1, false⟩)).readS.contains 1 &&
    -- a word that decodes to nothing, a PC that is not aligned, one outside the code, and both kinds of run
    p.ln.st == .run && p.inCode p.ln.pc.toNat && p.ln.pc.toNat % 4 == 0 &&
    (match decode (p.readV p.ln.pc.toNat (if p.inCode (p.ln.pc.toNat + 4) then 8 else 4)) with
      | .ok _ => false
      | .error _ => true) &&
    (wLn (fun l => { l with pc := l.pc + 2 })).ln.pc.toNat % 4 == 2 &&
    !(wLn (fun l => { l with pc := l.pc + 0x10000 })).inCode (w0.ln.pc + 0x10000).toNat && w0.inCode (w0.ln.pc + 0xFFFC).toNat &&
    !w0.rec_.confirm && (wRec (fun r => { r with confirm := true })).rec_.confirm) = true := by decide +kernel

/-- A value that a format holds, and a fraction. -/
theorem witness_Rounding : (decide (0x7F7FFFFF < 2 ^ fmtF32.width) && !(unpackF fmtF32 0x7F7FFFFF).isNan &&
    decide (0x8001 < 2 ^ fmtF16.width) && !(unpackF fmtF16 0x8001).isNan && !(unpackF fmtBF16 0x7F80).isNan && decide (0 < 1)) = true := by
  decide +kernel

/-- Object 1 lies in w0 from its PC on; rights D (0x40) and none. -/
def capAt (cursor rights woff wlen : Nat) : State := w0.wC 2 (mkCap cursor 1 rights woff wlen)

theorem witness_Capability :
    let s := capAt (2 ^ 60 - 2) 0x40 0 0
    let at' (x : Nat) : Nat := (BitVec.ofNat 64 (capCursor (s.rC 2)) + (sr s [(5, x)]).rS 5).toNat
    let cb : Instr := .cbound 3 ⟨2, false⟩ ⟨5, false⟩
    -- CINC below and at 2^60; CRIGHTS with and without D
    (at' 1 == 2 ^ 60 - 1 && at' 2 == 2 ^ 60 && passes (sr s [(5, 2)]) (.cinc 3 ⟨2, false⟩ ⟨5, false⟩) &&
    capHas (s.rC 2) rD && !capHas ((capAt 0 0 0 0).rC 2) rD && passes (capAt 0 0 0 0) (.crights 3 ⟨2, false⟩ ⟨5, false⟩) &&
    -- CBOUND: no object, no D, a bad number, the whole old window and one more
    passes (w0.wC 2 (mkCap 0 9 0x40 0 0)) cb && ((w0.wC 2 (mkCap 0 9 0x40 0 0)).obj? 9).isNone && (w0.obj? 1).isSome &&
    passes s cb && decide (2 ^ 36 ≤ ((sr s [(5, 2 ^ 36)]).rS 5).toNat) && decide ((w0.obj? 1).map (fun x => x.len) = some 16)) = true := by
  decide +kernel

/-- An array command of task t on core c; a comb with a lease of core 0 and such a queue. -/
def cmdOf (t c : Nat) : ArrCmd := ⟨false, some 0, t, c, 0, none, none, 0, none⟩
def wComb (f : CombSt → CombSt) (s : State) : State := s.onK (fun k => { k with combs := [(0, f CombSt.init)] })
def wLease (s : State) : State := wComb (fun c => { c with lease := some ⟨0, 64, none, []⟩ }) s
/-- A comb whose queue is full: one command that has begun, and four behind it. -/
def wFull (s : State) : State := wComb (fun c => { c with lease := some ⟨0, 60, none, [1]⟩, queue := List.replicate 5 (cmdOf 1 0) }) s
def wBusy : State := wComb (fun c => { c with lease := some ⟨0, 63, none, [1]⟩, queue := [cmdOf 1 0] }) w0

theorem witness_SpecialRegisters : (!w0.commandsOf w0.cur && wBusy.commandsOf wBusy.cur && passes wBusy (.mfs 5 12) &&
    passes wBusy (.mts 12 ⟨5, false⟩) && passes w0 (.mts 11 ⟨5, false⟩) && passes w0 (.mts 13 ⟨5, false⟩) && passes w0 (.mts 12 ⟨5, false⟩) &&
    !depends (.mts 12 ⟨5, false⟩) w0.ln && decide (w0.ln.blk < 256)) = true := by decide +kernel

theorem witness_Privileged : passes w0 (.trap ⟨5, false⟩) = true ∧ w0.k.service = false ∧ w0.ln.blk < 256 := by decide +kernel

theorem witness_SystemRegisters :
    let t := wSvc.onLn (fun l => { l with trapc := 1 })
    ((wSvc.sysReg 1).isSome && (wSvc.sysReg 0x0B).isNone && !wSvc.sysBad 0x10 0 && wSvc.sysBad 0x01 0xFFFF && wSvc.room (effBytes (.syswr 0x10 0)) &&
    t.ln.trapc != 0 && !t.ln.tret && passes t (.tret ⟨5, false⟩) && t.room (effBytes (.tret 0 0)) && wSvc.ln.trapc == 0 &&
    passes wSvc (.tret ⟨5, false⟩) && passes (sr wSvc [(6, 0x0B)]) (.sysrd 5 ⟨6, false⟩) && passes (sr wSvc [(6, 1), (7, 0xFFFF)]) (.syswr ⟨6, false⟩ ⟨7, false⟩)) = true := by
  decide +kernel

theorem witness_Loop_and_Sig : ((45 : SReg) ≠ 0) ∧ w0.ln.mism = none ∧ passes w0 (.sig 0) = true := by decide +kernel

theorem witness_ComputedNumbers :
    let g : Instr := .vgetr .i8 3 ⟨31, false⟩ ⟨6, false⟩ false
    let p : Instr := .vputr .i8 31 ⟨3, false⟩ ⟨6, false⟩ true
    let dead (n : Nat) : State := w0.onLn (fun l => { l with liveV := l.liveV &&& ~~~ BitVec.twoPow 32 n })
    -- register 31 - 32, 31 + 1, a dead register 29, register 31, 0
    ([-32, 1, -2, 0, -31].all (fun (x : Int) => let s := vr w0 []
      passes (s.wS 6 (BitVec.ofInt 64 x)) g && passes (s.wS 6 (BitVec.ofInt 64 x)) p) &&
    (31 + ((w0.wS 6 (BitVec.ofInt 64 (-32))).sV ⟨⟨6, by decide⟩, false⟩).toInt == -1) && w0.alloc == 32 && !(dead 29).ln.vLive 29 &&
    passes ((dead 29).wS 6 (BitVec.ofInt 64 (-2))) g && passes ((dead 29).wS 6 (BitVec.ofInt 64 (-2))) p && w0.ln.vLive 31) = true := by decide +kernel

theorem witness_Conversions : let i : Instr := .vcvt .x8 false 2 ⟨4, false⟩ .i8 true false
    let bad := wLn (fun l => { l with fmt := l.fmt.set 0 9 })
    let good := wLn (fun l => { l with fmt := l.fmt.set 0 8 })
    (i.wf && passes bad i && !nfValid bad.nfFmt && passes good i && nfValid good.nfFmt) = true := by decide +kernel

theorem witness_Reductions : let l : List (Option Nat) := none :: List.replicate 127 (some 0xFFFFFFFF)
    (ETy.i32.isInt && l.length == elemCount 32 && l.all (fun x => x.all (fun y => decide (y < 2 ^ 32)))) = true := by decide +kernel

theorem witness_Sorts : let k : Instr := .vsortkv .i16 false 2 ⟨4, false⟩ 1 false
    let t : Instr := .vtopk .i16 false 2 ⟨4, false⟩ ⟨6, false⟩
    let s (x : Nat) : State := sr w0 [(6, x)]
    -- 128 of one register, k = 129, register 32, a dead register
    (k.wf && t.wf && passes (s 0x180) t && (s 0x180).topkBad .i16 4 0x180 == none && (s 0x181).topkBad .i16 4 0x181 == some tILLEGAL &&
    (s 0x201).topkBad .i16 31 0x201 == some tREGBOUND && (wLn (fun l => { l with liveV := 0 })).topkBad .i16 4 0x180 == some tDEADREG &&
    decide (w0.alloc ≤ 32)) = true := by decide +kernel

theorem witness_SpecialFunctions_and_Trits : let i : Instr := .vunpkt .i8 3 ⟨1, false⟩
    ((unpackF fmtF32 0x7F800001).isNan && decide (0x7F800001 < 2 ^ 32) && passes w0 i && passes (vr w0 [(1, 243)]) i &&
    passes w0 (.vpackt .i4 3 ⟨1, false⟩) && (List.range 2).all (fun h => decide (w0.runAt 8 1 (64 * h + 51) ≤ 2)) &&
    (vr w0 [(1, 243)]).runAt 8 1 0 == 243) = true := by decide +kernel

/-! Scratchpad, windows, barriers. -/

/-- The scratchpad's size in w0, and w0 with poison in its first word. -/
def z0 : Nat := w0.scratchSize
def wPoison : State := w0.onK (fun k => { k with cores := [(0, { CoreSt.init with badW := [0] })] })

theorem witness_Scratchpad : let l : Instr := .lds .i64 5 ⟨6, false⟩ 0
    let s (x : Nat) : State := sr w0 [(6, x)]
    let off (s : State) : Nat := (s.rS 6 + BitVec.ofInt 64 (0 * 8)).toNat
    -- the last place, one further, one that is not aligned, a poisoned one
    (off (s (z0 - 8)) + 8 == z0 && off (s (z0 - 8)) % 8 == 0 && !(s (z0 - 8)).scratchBad 0 (z0 - 8) 8 && passes (s (z0 - 8)) l &&
    passes (s z0) l && decide ((s z0).scratchSize < off (s z0) + 8) && passes (s 4) l && off (s 4) % 8 == 4 &&
    wPoison.scratchBad wPoison.lcore 0 8 && passes wPoison l &&
    passes (s (z0 - 512)) (.vlds 5 ⟨6, false⟩ 0) && passes (s (z0 - 512)) (.vsts ⟨5, false⟩ 6 0) && (z0 - 512) % 4 == 0 &&
    !(s 0).scratchBad 0 (z0 - 512) 512 && passes (s (z0 - 8)) (.sts .w64 ⟨5, false⟩ 6 0) && passes (s z0) (.sts .w8 ⟨5, false⟩ 6 0)) = true := by
  decide +kernel

theorem witness_Scattered : let s (x y : Nat) : State := sr w0 [(6, x), (7, y)]
    let row (s : State) (r : Nat) : Nat := (s.rS 6 + BitVec.ofNat 64 r * s.rS 7).toNat
    let word (s : State) (k : Nat) : Nat := (s.rS 6 + BitVec.ofNat 64 (4 * s.runAt 32 1 k)).toNat
    let a := s (z0 - 512) 64
    let b := s (z0 - 512) 128
    let c := s (z0 - 4) 0
    ((List.range 8).all (fun r => row a r + 64 ≤ z0 && row a r % 4 == 0 && !a.scratchBad 0 (row a r) 64) &&
    (List.range 8).any (fun r => z0 < row b r + 64) && (List.range 8).all (fun r => row b r % 4 == 0) &&
    (List.range 128).all (fun k => word c k + 4 ≤ z0 && word c k % 4 == 0 && !c.scratchBad 0 (word c k) 4) &&
    passes a (.vldss 5 ⟨6, false⟩ ⟨7, false⟩) && passes b (.vldss 5 ⟨6, false⟩ ⟨7, false⟩) && passes a (.vstss 5 ⟨6, false⟩ ⟨7, false⟩) &&
    passes c (.vgats 5 ⟨6, false⟩ ⟨1, false⟩) && passes c (.vscts 5 ⟨6, false⟩ ⟨1, false⟩)) = true := by decide +kernel

theorem witness_Packed : let s (p w n : Nat) : State := sr w0 [(6, p), (7, w + 65536 * n)]
    let fit (p w n : Nat) : Bool := (p + w * n + 7) / 8 ≤ z0
    (fieldBad ((s 0 0 1).rS 7) && fieldBad ((s 0 9 1).rS 7) && fieldBad ((s 0 8 513).rS 7) && !fieldBad ((s 0 8 512).rS 7) &&
    fit (8 * (z0 - 512)) 8 512 && !w0.scratchBad 0 (z0 - 512) 512 && !w0.cutsBad (8 * (z0 - 512)) 4096 && !wPoison.cutsBad 0 32 &&
    passes (s 0 0 1) (.vldb 5 ⟨6, false⟩ ⟨7, false⟩) && passes (s 0 0 1) (.vstb 5 ⟨6, false⟩ ⟨7, false⟩) &&
    passes (s (8 * (z0 - 512)) 8 512) (.vldb 5 ⟨6, false⟩ ⟨7, false⟩) && passes (s (8 * (z0 - 512)) 8 512) (.vstb 5 ⟨6, false⟩ ⟨7, false⟩)) = true := by
  decide +kernel

theorem witness_Windows : let s (x : Nat) : State := sr w0 [(6, x)]
    let y := w0.windowSize
    let full (s : State) : State := s.onK (fun k => { k with cores := [(0, { CoreSt.init with full := 2 ^ (z0 / 4) - 1 })] })
    let q := z0 - 4
    let v := z0 - 512
    (y % 4 == 0 && passes (s (y - 4)) (.stn 0 ⟨5, false⟩ 6 0) && (s (y - 4)).room (effBytes (.window 1 (y - 4) [0, 0, 0, 0])) &&
    passes (s (y - 512)) (.vstn 2 ⟨5, false⟩ 6 0) && (s 0).room (effBytes (.window 3 (y - 512) (List.replicate 512 0))) &&
    passes (s y) (.stn 0 ⟨5, false⟩ 6 0) && !((s q).core 0).full.testBit (q / 4) && ((full (s q)).core 0).full.testBit (q / 4) &&
    !(full (s q)).scratchBad 0 q 4 && passes (s q) (.ldf 5 ⟨6, false⟩ 0) && passes (full (s q)) (.ldf 5 ⟨6, false⟩ 0) &&
    (List.range 128).all (fun j => ((full (s v)).core 0).full.testBit (v / 4 + j)) && !((s v).core 0).full.testBit (v / 4 + 127) &&
    passes (s v) (.vldf 5 ⟨6, false⟩ 0) && passes (full (s v)) (.vldf 5 ⟨6, false⟩ 0) &&
    -- no word at all, and the last ones
    passes (s z0) (.fset ⟨0, false⟩ 6 0) && passes (sr (s (z0 - 8)) [(5, 2)]) (.fclr ⟨5, false⟩ 6 0) &&
    passes (s q) (.waita 5 ⟨6, false⟩ 0) && passes (sr (s q) [(5, 1)]) (.waita 5 ⟨6, false⟩ 0)) = true := by decide +kernel

/-- The traps of R201 and R327 at their edges: one place too far, one that is not aligned, one with a poisoned word. -/
theorem witness_ScratchTraps : let s (x y : Nat) : State := sr w0 [(5, 1), (6, x), (7, y)]
    let p (x y : Nat) : State := (s x y).onK (fun k => { k with cores := [(0, { CoreSt.init with full := 2 ^ 128 - 1, badW := [0] })] })
    let row (s : State) (r : Nat) : Nat := (s.rS 6 + BitVec.ofNat 64 r * s.rS 7).toNat
    let word (s : State) (k : Nat) : Nat := (s.rS 6 + BitVec.ofNat 64 (4 * s.runAt 32 1 k)).toNat
    let one : List Instr := [.lds .i64 5 ⟨6, false⟩ 0, .vlds 5 ⟨6, false⟩ 0, .sts .w64 ⟨5, false⟩ 6 0, .vsts ⟨5, false⟩ 6 0, .stn 0 ⟨5, false⟩ 6 0,
      .vstn 2 ⟨5, false⟩ 6 0, .ldf 5 ⟨6, false⟩ 0, .vldf 5 ⟨6, false⟩ 0, .waita 5 ⟨6, false⟩ 0, .fset ⟨5, false⟩ 6 0, .fclr ⟨5, false⟩ 6 0]
    let rows : List Instr := [.vldss 5 ⟨6, false⟩ ⟨7, false⟩, .vstss 5 ⟨6, false⟩ ⟨7, false⟩]
    let words : List Instr := [.vgats 5 ⟨6, false⟩ ⟨1, false⟩, .vscts 5 ⟨6, false⟩ ⟨1, false⟩]
    let bits : List Instr := [.vldb 5 ⟨6, false⟩ ⟨7, false⟩, .vstb 5 ⟨6, false⟩ ⟨7, false⟩]
    let b := s (z0 - 512) 128
    let far := s (8 * z0) (8 + 65536)
    (one.all (fun i => passes (s z0 0) i && passes (s 2 0) i && passes (p 0 0) i) && (s 0 0).windowSize ≤ z0 && (p 0 0).scratchBad 0 0 8 &&
    (List.range 128).all (fun j => ((p 0 0).core 0).full.testBit j) && rows.all (fun i => passes b i && passes (s 2 64) i && passes (p 0 64) i) &&
    (List.range 4).all (fun r => row b r + 64 ≤ z0 && row b r % 4 == 0) && decide (z0 < row b 4 + 64) && row (s 2 64) 0 == 2 && row (p 0 64) 0 == 0 &&
    (List.range 8).all (fun r => row (p 0 64) r + 64 ≤ z0 && row (p 0 64) r % 4 == 0) &&
    words.all (fun i => passes (s (z0 - 2) 0) i && passes (s 2 0) i && passes (p 0 0) i) && word (s (z0 - 2) 0) 0 == z0 - 2 && word (s 2 0) 0 == 2 &&
    (List.range 128).all (fun k => word (p 0 0) k == 0) && bits.all (fun i => passes far i && passes (p 0 (8 + 65536)) i) && !fieldBad (far.rS 7) &&
    decide (z0 < (8 * z0 + 8 + 7) / 8) && (p 0 0).scratchBad 0 0 1 && (p 0 0).cutsBad 0 8) = true := by decide +kernel

theorem witness_Barriers : let s (x y : Nat) : State := sr w0 [(6, x), (7, y)]
    let bound (s : State) (p : BitVec 16) : State := s.onK (fun k => { k with cores := [(0, { CoreSt.init with bars := [(5, ⟨.core, 2, p, false, []⟩)] })] })
    let bad (x y : Nat) : Bool := 4096 ≤ x || x / 128 % 2 == 1 || x / 256 % 16 == 0 || 9 < x / 256 % 16 || y == 0 || 2 ^ 32 ≤ y
    let done (p : BitVec 16) (y : Nat) : Bool := decide ((p - BitVec.ofNat 16 y - 1).toNat < 32768)
    let i : Instr := .binit ⟨6, false⟩ ⟨7, false⟩
    let w : Instr := .bwait ⟨6, false⟩ ⟨7, false⟩
    (bad 4096 1 && bad 0x180 1 && bad 0x7F 1 && bad 0xA7F 1 && bad 0x17F 0 && bad 0x17F (2 ^ 32) && passes (s 4096 1) i &&
    !bad 0x17F 1 && !bad 0x97F (2 ^ 32 - 1) && passes (s 0x17F 1) i && w0.room (effBytes (.binit 0 0x7F .core 1)) &&
    ((bound w0 0).barrier? 5).isSome && (w0.barrier? 5).isNone && passes (s 5 0) (.barr ⟨6, false⟩) && passes (s 128 0) (.barr ⟨6, false⟩) &&
    passes (bound (s 5 0) 0) (.barr ⟨6, false⟩) && passes (s 5 65536) w && w0.room (effBytes (.barr 0 5 .core 2)) &&
    -- P = 1 and P = 32,768 have passed phase 0; P = 0 and 32,769 have not
    done 1 0 && done 32768 0 && !done 32769 0 && !done 0 0 && (boxInit 5 w0.ln.box).isNone && passes (bound (s 5 0) 1) w &&
    passes (bound (s 5 0) 0) w && w0.room (effBytes (.bwait 0 5 0)) && (tget? ((bound w0 1).core 0).bars 5).isSome) = true := by decide +kernel

/-! Global memory. -/

/-- An object of a type and width, mapped, with a capability for all of it in c2; on another die when near is false. -/
def wObjOn (s : State) (ty : LTy) (w : Wd) (near : Bool) (rights : Nat) : State :=
  match s.newObj none (if near then .spread else .sector 0 1 0) ⟨0, 16, ty, w, 0, 1, 0, 0, 0, false, false, false, false, none⟩ with
  | some (o, s) => let b := s.baseOf o
    (s.mapVa b).wC 2 (mkCap b o rights 0 0)
  | none => s
def wObj : LTy → Wd → Bool → Nat → State := wObjOn w0

/-- The address that c2 holds, and the address operand c2 + s6 + 64 * imm. -/
def at2 (s : State) : Nat := capCursor (s.rC 2)
def g2 : GAddr := ⟨⟨6, false⟩, ⟨2, false⟩, 0⟩

theorem witness_AccessOrder : let s := wObj .excl .w8 true 0xFF
    let a := at2 s
    let c := s.rC 2
    let len := ((s.obj? 2).map (fun x => x.len * 4096)).getD 0
    ((s.obj? 9).isNone && (s.obj? (capOid c)).isSome && isErr (s.access c (a - 1) 8 rR true (fun _ => none)) tCAPBOUND &&
    isErr (s.access c (a + len - 7) 8 rR true (fun _ => none)) tCAPBOUND && isOk (s.access c (a + len - 8) 8 rR true (fun _ => none)) &&
    isErr (s.access (mkCap a 2 0 0 0) a 8 rR true (fun _ => none)) tCAPRIGHT && isErr (s.access c a 8 rR true (s.latTy .join .maxn .w8)) tTYPEMIS &&
    isErr (s.access c a 8 rR false (fun _ => none)) tALIGN && (ownAt s.k.owns (a / 4096)).isSome &&
    isErr ({ s with k := { s.k with owns := [] } }.access c a 8 rR true (fun _ => none)) tPAGEFAULT) = true := by decide +kernel

theorem witness_GlobalReads : let x := wObj .excl .w8 true 0xFF
    let y := wObj .maxn .w64 true 0xFF
    (isOk (x.access (x.rC 2) (x.ea g2) 8 rR true (x.exclOrMmio 2 .w64)) && passes x (.ldx 0 .w64 .relaxed 5 g2) &&
    isErr (y.access (y.rC 2) (y.ea g2) 8 rR true (y.exclOrMmio 2 .w64)) tTYPEMIS && passes y (.ldx 0 .w64 .relaxed 5 g2) &&
    isOk (x.access (x.rC 2) (x.ea g2) 512 rR true (x.exclTy 2)) && passes x (.vldx 0 .relaxed 5 g2) &&
    isOk (x.access (x.rC 2) (x.ea g2) 16 rR true (x.exclTy 2)) && passes x (.ldc 0 .relaxed 3 g2) &&
    isOk (y.access (y.rC 2) (y.ea g2) 8 rR true (y.latTy .exact .maxn .w64)) && passes y (.xrd 0 .maxn .w64 .relaxed 5 g2) &&
    isErr (y.access (y.rC 2) (y.ea g2) 8 rR true (y.latTy .exact .minn .w64)) tTYPEMIS && passes y (.vxrd 0 .maxn .w64 .relaxed 5 g2 true)) = true := by
  decide +kernel

theorem witness_GlobalEffects : let x := wObj .excl .w8 true 0xFF
    let y := sr (wObj .count .w64 true 0xFF) [(5, 4096)]
    let n : List Byte := List.replicate 512 0
    (isOk (x.access (x.rC 2) (x.ea g2) 8 rW true (x.exclOrMmio 2 .w64)) && passes x (.stx 0 .w64 .relaxed g2 ⟨5, false⟩) &&
    x.room (effBytes (.store 0 (n.take 8) false)) && isOk (x.access (x.rC 2) (x.ea g2) 512 rW true (x.exclTy 2)) &&
    passes x (.vstx 0 .relaxed g2 ⟨5, false⟩) && x.room (effBytes (.store 0 n false)) && passes x (.stc 0 .relaxed g2 ⟨3, false⟩) &&
    isOk (y.access (y.rC 2) (y.ea g2) 8 rJ true (y.latTy .join .count .w64)) && passes y (.join 0 .count .w64 .relaxed g2 ⟨5, false⟩) &&
    isOk (y.access (y.rC 2) (y.ea g2) 512 rJ true (y.latTy .join .count .w64)) && passes y (.vjoin 0 .count .w64 .relaxed g2 ⟨5, false⟩) &&
    passes y (.vjoinx 0 .count .w64 .relaxed g2 ⟨5, false⟩ 7) && isOk (y.access (y.rC 2) (y.ea g2) 4096 rC true (y.latTy .cap .count .w64)) &&
    passes y (.cap 0 .count .w64 .die false g2 ⟨5, false⟩) && isErr (x.access (x.rC 2) (x.ea g2) 8 rJ true (x.latTy .join .count .w64)) tTYPEMIS &&
    passes x (.join 0 .count .w64 .relaxed g2 ⟨5, false⟩) &&
    -- the 768th count join of an activation asks for a commit
    ((after (.join 0 .count .w64 .relaxed g2 ⟨5, false⟩) (y.onLn (fun l => { l with cnt := 767 }))).ln.st == .finish) &&
    ((after (.join 0 .count .w64 .relaxed g2 ⟨5, false⟩) y).ln.cnt == 1)) = true := by decide +kernel

/-- Does a copy on the lane's die answer at va, when the free bit of the tick says so (log entry 23)? -/
def copyB (s : State) (va : Nat) : Bool := match s.translate va, s.homeOf va with
  | .at a false _, some h => (h.pkg == s.pkgOf s.lcore && h.die == s.dieOf (s.lcore / 256 % 8)) && !s.mem.poison.contains (a / 64) &&
    !s.undone s.ln.task s.k.nextFlit (fun g => effMeets g.e.eff (va / 64 * 64) 64) && (s.lagging va).isEmpty
  | _, _ => false

theorem copyB_sound {s : State} {va n : Nat} (h : copyB s va = true) (hf : (Config.freeWord s.tick).getLsbD 0 = true) :
    s.copy? va n = some (s.seen ((s.phys? va).getD 0) va n, s.changes (va / 64)) := by
  unfold copyB at h
  split at h
  · rename_i a mt x ht hx
    simp only [Bool.and_eq_true] at h
    have hl : s.lagging va = [] := List.isEmpty_iff.mp h.2
    simp [State.copy?, ht, hx, h.1.1.1, h.1.1.2, h.1.2, hl, hf, State.phys?, lget, -List.contains_eq_mem]
  · contradiction

theorem witness_Thresholds : let s := wObj .maxn .w64 false 0xFF
    let f := wObj .fill .w64 false 0xFF
    let i : Instr := .thr 0 .maxn .w64 .relaxed 5 g2 ⟨7, false⟩
    let g : GAddr := { g2 with imm := 0x40 }
    -- a type error; two equal triggers on fill; no copy on the lane's die; an unmapped page; THRF
    (isErr (s.access (s.rC 2) (s.ea g2) 64 rR true (s.latTy .thr .fill .w64)) tTYPEMIS && passes s (.thr 0 .fill .w64 .relaxed 5 g2 ⟨7, false⟩) &&
    passes s i && isOk (s.access (s.rC 2) (s.ea g2) 8 rR true (s.latTy .thr .maxn .w64)) && (s.unmapped? (at2 s)).isNone && (s.copy? (at2 s) 8).isNone &&
    s.room (effBytes (.watch ⟨false, .maxn, .w64, (at2 s), [0], 5, 0, none, 0⟩)) &&
    isOk (f.access (f.rC 2) (f.eaFill g) 64 rR true (f.latTy .thr .fill .w64)) && passes f (.thr 0 .fill .w64 .relaxed 5 g ⟨7, false⟩) &&
    !decide ([(f.rN 7).toNat, (f.rN 8).toNat].Nodup) && (s.unmapped? (at2 s + 65536)).isNone &&
    ({ s with k := { s.k with roots := [] } }.unmapped? (at2 s)).isSome &&
    isOk (f.access (f.rC 2) (f.ea g2) 64 rR true (f.latTy .thrf .fill .w64)) && passes f (.thrf 0 .fill .w64 .relaxed 5 g2 ⟨0, false⟩) &&
    (f.unmapped? (at2 f)).isNone && (f.copy? (at2 f) 64).isNone && isErr (s.access (s.rC 2) (s.ea g2) 64 rR true (s.latTy .thrf .fill .w64)) tTYPEMIS &&
    passes s (.thrf 0 .fill .w64 .relaxed 5 g2 ⟨0, false⟩) && passes s (.fence 0 .sys)) = true := by decide +kernel

/-- For either value of the free bit one of the two clauses of THR and of THRF applies; here the one in which a copy
answers. -/
theorem witness_Copies : let s := wObj .maxn .w64 true 0xFF
    let f := wObj .lap .w64 true 0xFF
    ((Config.freeWord s.tick).getLsbD 0 = true → s.copy? (at2 s) 8 = some (s.seen ((s.phys? (at2 s)).getD 0) (at2 s) 8, s.changes (at2 s / 64))) ∧
    ((Config.freeWord f.tick).getLsbD 0 = true → f.copy? (at2 f) 64 = some (f.seen ((f.phys? (at2 f)).getD 0) (at2 f) 64, f.changes (at2 f / 64))) ∧
    (thrReply .maxn 64 [0] (s.seen ((s.phys? (at2 s)).getD 0) (at2 s) 8) matches .index 0) = true ∧
    (thrfReply .lap [0] (f.seen ((f.phys? (at2 f)).getD 0) (at2 f) 64) matches .data _ _) = true ∧
    passes s (.thr 0 .maxn .w64 .relaxed 5 g2 ⟨7, false⟩) = true ∧ passes f (.thrf 0 .lap .w64 .relaxed 5 g2 ⟨7, false⟩) = true ∧
    isOk (f.access (f.rC 2) (f.ea g2) 64 rR true (f.latTy .thrf .lap .w64)) = true :=
  ⟨copyB_sound (by decide +kernel), copyB_sound (by decide +kernel), by decide +kernel, by decide +kernel, by decide +kernel,
    by decide +kernel, by decide +kernel⟩

theorem witness_Ofork : let s := (wObj .fill .w64 true 0xFF).stock
    let c := s.capBlocks (at2 s) 1
    let i : Instr := .ofork 0 3 ⟨2, false⟩ ⟨5, false⟩
    (isOk (c.oforkChk (c.rC 2) 4096) && (match c.obj? 2 with
      | some x => (c.fork 2 x 4096).isSome
      | none => false) && c.room 16 && passes (sr c [(5, 4096)]) i && isErr (s.oforkChk (s.rC 2) 4095) tALIGN && isErr (s.oforkChk 0 0) tCAPBOUND &&
    passes (sr s [(5, 4095)]) i && isErr (s.oforkChk (s.rC 2) 4096) tNOTCAPPED && !s.undone s.ln.task s.k.nextFlit (fun g => !isStore g.e.eff) &&
    passes (sr s [(5, 4096)]) i) = true := by decide +kernel

/-! Tile walks, tasks, groups, messages. -/

theorem witness_TileWalks : let x := wObj .excl .w8 true 0xFF
    let s (n : Nat) : State := sr w0 [(5, n)]
    (isOk (x.access (x.rC 2) (x.ea g2) 64 rR true (x.exclTy 2)) && passes x (.twgo 0 7 g2) && x.room (effBytes (.twgo 0 7 0)) &&
    isErr (w0.access (w0.rC 2) (w0.ea g2) 64 rR true (w0.exclTy 2)) tCAPBOUND && passes w0 (.twgo 0 7 g2) &&
    passes (s 65535) (.twperm 0 7 ⟨5, false⟩) && passes (s 65536) (.twperm 0 7 ⟨5, false⟩) && w0.room (effBytes (.twperm 0 7 65535)) &&
    passes (s (2 ^ 32)) (.twwait 0 7 ⟨5, false⟩) && passes (s 0) (.twwait 0 7 ⟨5, false⟩) && passes (s 1) (.twwait 0 7 ⟨5, false⟩) &&
    (w0.chan (w0.lcore / 4) 7).doneId == 0 && w0.room (effBytes (.twwait 0 7 1))) = true := by decide +kernel

/-- A frame in c2, a PC in s6 and a group and core in s5. -/
def wFrame (pc x : Nat) : State := sr (wObj .excl .w8 true 0xFF) [(5, x), (6, pc)]

theorem witness_Spawn : let i (al : Fin 8) (pin : Bool) : Instr := .spawn 0 7 ⟨6, false⟩ ⟨5, false⟩ ⟨2, false⟩ 3 al pin
    let at' (a : SSrc) : Instr := .spawnat 0 7 a ⟨5, false⟩ ⟨2, false⟩ 3 1 false
    let s := wFrame 0x1000 1
    let area (al : Nat) : Nat := 2 * areaBytes (8 * al)
    let small := s.onK (fun k => { k with launch := k.launch.map (fun l => { l with valloc := 8 }) })
    let empty := s.onK (fun k => { k with pool := 0 })
    -- the field, the width of s[B] in both forms, the PC, the core
    (passes s (i 5 false) && passes (wFrame 0 (2 ^ 32)) (i 0 false) && passes (wFrame 0 (2 ^ 61)) (i 0 true) &&
    passes (wFrame (2 ^ 60) 1) (i 0 false) && passes (wFrame 0 (w0.lcount * 2 ^ 32)) (i 0 true) && !s.groupOk 7 && passes (wFrame 0 7) (i 0 false) &&
    s.groupOk 1 && small.valloc == 8 && passes small (i 2 false) && s.valloc == 32 && (s.frameChk 0 (area 4) 1).isSome &&
    passes (s.wC 2 0) (i 4 false) && (s.frameChk (s.rC 2) (area 4) 1).isNone && s.room 64 && decide (0 < s.poolFree) && passes s (i 4 false) &&
    passes (wFrame (2 ^ 60 - 1) ((w0.lcount - 1) * 2 ^ 32 + 1)) (i 4 true) && passes s (at' ⟨62, false⟩) &&
    empty.poolFree == 0 && (tget? empty.k.bound empty.tag).isNone && passes empty (i 1 false)) = true := by decide +kernel

theorem witness_Groups : let f := wObj .fill .w64 true 0xFF
    let s (x y : Nat) : State := sr w0 [(5, x), (6, y)]
    (isOk (f.access (f.rC 2) (f.ea g2) 128 rJ true (f.latTy .join .fill .w64)) && passes f (.tgnew 0 7 g2 4) && f.room 16 &&
    (tget? f.k.bound f.tag).isNone && isErr (w0.access (w0.rC 2) (w0.ea g2) 128 rJ true (w0.latTy .join .fill .w64)) tCAPBOUND &&
    passes w0 (.tgnew 0 7 g2 4) && !w0.ownGroup 7 && passes (s 7 0) (.tgclose 0 ⟨5, false⟩ ⟨0, false⟩) && (w0.tgcloseChk 1 0).isNone &&
    passes (s 1 0) (.tgclose 0 ⟨5, false⟩ ⟨0, false⟩) && w0.room (effBytes (.tgclose 1 0)) && passes (s 7 0) (.cancel 0 ⟨5, false⟩) && w0.ownGroup 1 &&
    passes (s 1 0) (.cancel 0 ⟨5, false⟩) && w0.room (effBytes (.cancel 1)) && w0.room (effBytes (.setdl 1 0)) && passes (s 1 0) (.setdl 0 ⟨5, false⟩ ⟨6, false⟩) &&
    passes (s 1 (2 ^ 32)) (.setbg 0 ⟨5, false⟩ ⟨6, false⟩) && passes (s 1 (2 ^ 32 - 1)) (.setbg 0 ⟨5, false⟩ ⟨6, false⟩) && w0.room (effBytes (.setbg 1 1))) = true := by
  decide +kernel

theorem witness_Messages :
    let h : Instr := .hreg 0 ⟨6, false⟩ ⟨5, false⟩ ⟨2, false⟩ 4
    let y (grp al : Nat) : Nat := grp + al * 2 ^ 36
    let m : Msg := ⟨0, 0, 4, [0, 0, 0, 0], none, []⟩
    let s := wFrame 0x1000 (y 1 1)
    -- 16 frames of 2 areas of 6,144 bytes need 48 blocks of 4 KiB
    let big := match w0.newObj none .spread ⟨0, 48, .excl, .w8, 0, 1, 0, 0, 0, false, false, false, false, none⟩ with
      | some (o, s) => sr (s.wC 2 (mkCap (s.baseOf o) o 0xFF 0 0)) [(5, y 1 1)]
      | none => w0
    (passes (sr w0 [(5, w0.lcount - 1)]) (.msg 0 ⟨5, false⟩ ⟨60, false⟩ 4) && w0.room (effBytes (.msg m)) &&
    passes (sr w0 [(5, w0.lcount)]) (.msg 0 ⟨5, false⟩ ⟨60, false⟩ 4) && passes big h && big.groupOk 1 && big.valloc == 32 &&
    (big.frameChk (big.rC 2) (16 * (2 * areaBytes 8)) 1).isNone && decide (16 ≤ big.poolFree) && passes (wFrame 0 (2 ^ 39)) h && passes (wFrame 0 (y 1 0)) h &&
    passes (wFrame 0 (y 1 5)) h && !s.groupOk 7 && passes (wFrame 0 (y 7 1)) h &&
    big.room (effBytes (.hreg 0 4 ⟨0, 0, 1, 0, 8, 0, 0, []⟩)) && passes w0 (.hdrop 0 63) && w0.room (effBytes (.hdrop 0 63)) && decide (w0.ln.blk < 256)) = true := by
  decide +kernel

/-! The array. -/

theorem witness_Leases : let h := wLease w0
    let i : Instr := .tfmt 0 0 0
    let fm (s : State) (f : BitVec 32) : State := s.onLn (fun l => { l with fmt := l.fmt.set 0 f })
    let x := wLease (wObj .excl .w8 true 0xFF)
    let f := wObj .fill .w64 true 0xFF
    let c := wLease ((f.capBlocks (at2 f) 2))
    (!w0.leaseHeld && h.leaseHeld && wBusy.leaseHeld && h.ownComb.queue.isEmpty && !wBusy.ownComb.queue.isEmpty && passes h (.tlease 0) &&
    passes w0 (.tlease 0) && passes h (.trel 0) && passes wBusy (.trel 0) && passes w0 (.trel 0) && passes w0 i && passes w0 (.tldw 0 g2 false) &&
    -- an invalid format, six exponent bits, a good one
    !nfValid ((fm h 9).ln.fmt[0]) && passes (fm h 9) i && nfE ((fm h 0xC8).ln.fmt[0]) == 6 && nfValid ((fm h 8).ln.fmt[0]) && decide (nfE ((fm h 8).ln.fmt[0]) ≤ 5) &&
    passes (fm h 8) i && !h.ownComb.queueFull && (wFull w0).ownComb.queueFull && passes (wFull (fm w0 8)) i &&
    isOk (x.access (x.rC 2) (x.ea g2) 8192 rR true (x.tileTy 2)) && x.leaseHeld && passes x (.tldw 0 g2 true) && !x.ownComb.queueFull &&
    isOk (c.access (c.rC 2) (c.ea g2) 8192 rR true (c.tileTy 2)) && c.rangeCapped (c.ea g2) 8192 && passes c (.tldw 0 g2 true) && passes (wFull c) (.tldw 0 g2 true) &&
    isErr (w0.access (w0.rC 2) (w0.ea g2) 8192 rR true (w0.tileTy 2)) tCAPBOUND) = true := by
  decide +kernel

/-- Lane 0 with a lease, the format i8, a tile of zeros in buffer 0, and registers. -/
def wArr (l : List (Nat × Nat)) : State :=
  let s := wComb (fun c => { c with lease := some ⟨0, 64, none, []⟩, buf0 := ⟨.loaded, List.replicate 8192 0⟩ }) (sr w0 l)
  s.onK (fun k => { k with cores := [(0, { CoreSt.init with fmt := .i8 })] })

theorem witness_Array : let rows := w0.accRows
    let mma : Instr := .tmma 0 5 ⟨6, false⟩ ⟨7, false⟩ 0 false
    let drain (bf vs : Bool) : Instr := .tdrain 0 bf false 5 ⟨6, false⟩ ⟨7, false⟩ 0 vs false
    let zero : Instr := .tzero 0 5 ⟨7, false⟩
    let s (row m off : Nat) : State := wArr [(5, row), (6, off), (7, m)]
    let t := s (rows - 1) 1 (z0 - 512)
    (passes (s 0 0 0) mma && passes (s 0 65 0) mma && passes (sr w0 [(7, 1)]) mma && passes (s rows 1 0) mma && passes (s 0 0 0) zero && passes (s 0 65 0) (drain true false) &&
    t.leaseHeld && !t.ownComb.queueFull && !t.ln.acc && t.accRows == rows && t.fmtSoon == .i8 &&
    passes t mma && passes t zero && passes t (drain false false) && passes t (drain true true) && (z0 - 512) % 4 == 0 &&
    (t.ownComb.bufOf false).st == .loaded && !loadAhead t.ownComb.queue false && (wFull t).ownComb.queueFull && passes (wFull t) zero &&
    (wFull t).leaseHeld) = true := by decide +kernel

/-- A command with a job of lane l, in the queue of comb 0 with buffer 0 as in wArr. -/
def wJob (j : Option Job) (b : Option Bool) (l : Option Nat) (s : State) : State :=
  s.onComb 0 (fun c => { c with queue := [⟨false, l, 1, 0, 0, b, j, 0, none⟩] })

/-- The commands at work: rows, words and formats, poison that they meet, and a tile that is not there. -/
theorem witness_ArrayWorks : let s := wArr []
    let works (t : State) (j : Job) (b : Option Bool) : Bool := (t.comb 0).nextMove == some 0 && ((t.comb 0).queue[0]?).any (fun q => q.job == some j && q.buf == b) &&
      t.combRuns 0 && ((t.comb 0).queue[0]?).any (fun q => ((t.comb 0).tileOf q).isSome)
    let on (j : Job) (b : Option Bool) (t : State) : State := wJob (some j) b (some 0) t
    let core (f : CoreSt → CoreSt) : State := s.onK (fun k => { k with cores := k.cores.map (fun e => (e.1, f e.2)) })
    let mma (m : Nat) : Job := .mma 0 3 m 0 .i8
    let drain (bf acc : Bool) (vec : Option Nat) (left : List Nat) : Job := .drain 0 3 256 bf acc vec left
    let weight := core (fun c => { c with acc := [(4, ⟨List.replicate 128 1, some 5⟩)] })
    let row := core (fun c => { c with badR := [3] })
    let word := core (fun c => { c with badW := [0, 64] })
    let inf := s.writeScratch 0 (List.replicate 256 0x7C)
    let gone := wJob (some (mma 1)) (some false) none (s.onComb 0 (fun c => { c with buf0 := ⟨.invalid, []⟩ }))
    (works (on (mma 2) (some false) s) (mma 2) (some false) && works (on (mma 1) (some false) s) (mma 1) (some false) && works (wJob (some (mma 1)) (some false) none s) (mma 1) (some false) &&
    (s.accOf 0 4).weight.isNone && (weight.accOf 0 4).weight == some 5 && lsbOf .i8 != 5 && works (on (mma 2) (some false) weight) (mma 2) (some false) &&
    (row.core 0).badR.contains 3 && works (on (mma 1) (some false) row) (mma 1) (some false) && !(s.core 0).badR.contains 3 && word.scratchBad 0 0 256 && !s.scratchBad 0 0 256 &&
    works (on (mma 1) (some false) word) (mma 1) (some false) && (rowUnits .i8 (s.scratch 0 0 256)).isSome && (rowUnits (.narrow 0x100B8) (inf.scratch 0 0 256)).isNone &&
    works (on (.mma 0 3 1 0 (.narrow 0x100B8)) (some false) inf) (.mma 0 3 1 0 (.narrow 0x100B8)) (some false) &&
    -- TDRAIN: a poisoned row, a poisoned word, a poisoned vector of scales, and none
    works (on (drain false true none [0, 1]) (some false) row) (drain false true none [0, 1]) (some false) && word.scratchBad 0 256 4 && works (on (drain false true none [0]) (some false) word) (drain false true none [0]) (some false) &&
    word.scratchBad 0 0 512 && works (on (drain true false (some 0) [1]) none word) (drain true false (some 0) [1]) none && !s.scratchBad 0 1024 512 &&
    works (on (drain false false (some 1024) (List.range 128)) none s) (drain false false (some 1024) (List.range 128)) none && decide (256 + 4 * 127 + 4 ≤ 1024) &&
    -- TFMT, TZERO, and a command of nobody whose tile is invalid
    works (on (.fmt 0 .i4) none s) (.fmt 0 .i4) none && works (on (.zero 0 3 2) none s) (.zero 0 3 2) none && (gone.comb 0).nextMove == some 0 && gone.combRuns 0 &&
    ((gone.comb 0).queue[0]?).any (fun q => ((gone.comb 0).tileOf q).isNone)) = true := by decide +kernel

/-! Hypotheses of the statements about what the machine does between instructions. -/

/-- Other records, lane 0 changed, other hardware, another time, an effect with number 5 of task 1 on its way. -/
def wRecs (s : State) (l : List (Nat × Rec)) : State := s.onK (fun k => { k with recs := l, nextTask := 9 })
def wLane (s : State) (f : Lane → Lane) : State := s.onLn f
def wTime (s : State) (t : Nat) : State := { s with time := t, cyc := t }
def flitOf (id : Nat) (e : Eff) : Flit := ⟨id, ⟨e, .relaxed, 0, 0, 0, []⟩, 1, 0, 1, 0, false, false, 0, 0, [], false, false, 0⟩
def wFlit (s : State) (e : Eff) : State := s.onK (fun k => { k with flits := [flitOf 5 e], nextFlit := 6 })
def wHw (s : State) (f : Pkg → Pkg) : State := { s with hw := [(0, f { Pkg.init with state := 2 })] }

/-- Record 1 with an allocation of 8 and a frame that is mapped; its save areas are of 6,144 bytes. -/
def wSaveOn (w : State) : State := let s := wObjOn w .excl .w8 true 0xFF
  wRecs s [(1, { placeRec with f := { placeRec.f with alloc := 8, frame := s.rC 2 } })]
def wSave : State := wSaveOn w0

/-- The same with a frame in kernel memory (R289), with a frame that is not mapped, and with one whose page could not be served. -/
def wKernel : State := wSaveOn (wHw w0 (fun p => { p with kframes := [(0, 2 ^ 37, true)] }))
def wUnmapped : State := wSave.onK (fun k => { k with roots := [] })
def wUnserved : State := wUnmapped.onK (fun k => { k with faults := match wUnmapped.unmapped? (at2 wSave + 6144) with
  | some m => [⟨m, false, 0, true, true⟩]
  | none => [] })

/-- A byte range is mapped, block by block, to one of memory that holds no table. -/
def plainB (s : State) (va n : Nat) : Bool :=
  let c := (s.phys? (va / 4096 * 4096)).getD 0
  s.k.objs.all (fun e => e.2.base % 4096 == 0 && e.2.src == 0) &&
    (List.range ((va % 4096 + n) / 4096 + 1)).all (fun i => s.phys? ((va / 4096 + i) * 4096) == some (c + i * 4096)) &&
    s.k.roots.all (fun r => r.lv ≤ 1 &&
      (decide (physAddr r.pkg r.top + 4096 ≤ c + va % 4096) || decide (c + va % 4096 + n ≤ physAddr r.pkg r.top)))

theorem plainB_sound {s : State} {va n : Nat} (h : plainB s va n = true) : s.PlainRange va n := by
  simp only [plainB, Bool.and_eq_true, List.all_eq_true, List.mem_range, beq_iff_eq, decide_eq_true_eq, Bool.or_eq_true] at h
  exact State.plainRange_blocks h.1.1 h.1.2 h.2

theorem witness_Lanes : let ready : Rec := { placeRec with st := .ready }
    let s := wRecs w0 [(1, placeRec), (2, ready)]
    let l0 (f : Lane → Lane) : State := wLane wSave f
    let load := l0 (fun l => { l with st := .load })
    let gone := load.onK (fun k => { k with roots := [] })
    let kern := wLane wKernel (fun l => { l with st := .load })
    let slots (s : State) : List (Nat × Nat) := loadSlots (s.record 1).f ((s.focusLane 0).savedC (((s.focusLane 0).areaVa (s.record 1).f 0).getD 0))
    let va := ((load.focusLane 0).areaVa (load.record 1).f 0).getD 0
    let stale := load.onK (fun k => { k with recs := tmap k.recs 1 (fun r => { r with first := some ([], []) }) })
    let new := wSave.onK (fun k => { k with recs := [(1, placeRec), (2, { (wSave.record 1) with st := .ready, first := some ([(1, 5), (63, 6)], [(15, 7)]) })] })
    let due := (wRec (fun r => { r with f := { r.f with cbud := 1 } })).onLn (fun l => { l with budgPc := some 0 })
    let bad := wRecs w0 [(1, { placeRec with mism := 3 })]
    -- DISPATCH of record 2 to lane 1, REGISTERS_LOADED, FRAME_LOAD_FAULT
    ((s.offer 1).map (fun x => x.1) == some 2 && s.laneFree 1 && s.valloc == 32 && load.laneOn 0 && (load.lane 0).st == .load &&
    ((load.focusLane 0).areaVa (load.record 1).f 0).isSome && (load.focusLane 0).loadMeet (load.record 1).f va == .ok &&
    !(load.focusLane 0).loadPoisoned (load.record 1).f va && (load.record 1).first.isNone &&
    ((gone.focusLane 0).loadMeet (gone.record 1).f va matches .missing _) && ((gone.focusLane 0).slotUnmapped va (slots gone)).isSome && gone.laneOn 0 &&
    (kern.focusLane 0).loadMeet (kern.record 1).f (((kern.focusLane 0).areaVa (kern.record 1).f 0).getD 0) == .kernel && kern.laneOn 0 && (kern.record 1).first.isNone &&
    (kern.lane 0).task == 1 && (kern.record 1).st == .active 0 && ((kern.focusLane 0).areaVa (kern.record 1).f 0).isSome &&
    (gone.lane 0).task == 1 && (gone.record 1).st == .active 0 && (stale.record 1).first.isSome && (stale.focusLane 0).loadMeet (stale.record 1).f va == .ok &&
    -- DISPATCH of a record with starting registers, whose area is mapped or not
    (new.offer 1).map (fun x => x.1) == some 2 && new.laneFree 1 && (new.areaVa (new.record 2).f 0).isSome && (new.firstUnmapped ((new.areaVa (new.record 2).f 0).getD 0) 0x360).isNone &&
    ((new.onK (fun k => { k with roots := [] })).firstUnmapped ((new.areaVa (new.record 2).f 0).getD 0) 0x360).isSome &&
    -- LOCAL_QUEUE_FILL while lanes of core 0 are idle
    s.laneFree 1 && decide (1 < s.lanesOn) && s.laneOn 0 && ((s.core 0).localq).isEmpty &&
    (bestRec (s.k.recs.filter (fun y => y.2.st == .ready && y.2.die == s.bankOf 0 && s.mayTake 0 y.2))).isSome &&
    -- BUDGET_EXHAUSTED, BLOCK_VERIFY: a good block, a first and a fourth mismatch, a parity mismatch at a SIG
    ((l0 (fun l => { l with lastSig := some 8 })).lane 0).st == .run && ((l0 (fun l => { l with lastSig := some 8 })).lane 0).lastSig.isSome &&
    (due.focusLane 0).budgetDue && (due.lane 0).st == .run && due.laneOn 0 && ((l0 (fun l => { l with st := .verify })).lane 0).mism.isNone &&
    !((l0 (fun l => { l with st := .verify })).focusLane 0).commandsOf 0 && ((l0 (fun l => { l with st := .verify, mism := some 0 })).lane 0).mism.isSome &&
    (bad.record 1).mism == 3 && (w0.record 1).mism == 0 && (w0.lane 0).task == 1 && (w0.record 1).st == .active 0 && decide (1 < w0.k.nextTask)) = true := by
  decide +kernel

theorem witness_Commits : let l0 (f : Lane → Lane) : State := wLane wSave f
    let drain := l0 (fun l => { l with st := .drain, box := [⟨.join .maxn .w64 0 [], .relaxed, 0, 0, 0, []⟩] })
    let save := l0 (fun l => { l with st := .drain, liveV := 0xFF })
    let other := ((save.focusLane 0).areaVa (save.record 1).f 1).getD 0
    let wrote (u : Option Susp) : State := l0 (fun l => { l with st := .save, susp := u })
    let trap := l0 (fun l => { l with st := .drain, fin := some ⟨tSWTRAP, 0, 0, false⟩ })
    let late := wTime (l0 (fun l => { l with preq := some 0 })) 2000
    let fenced := wRecs wSave [(2, { placeRec with st := .fenced .die })]
    let woken (c : Cause) (r : WakeRes) : State := (wRecs wSave [(2, { (wSave.record 1) with st := .parked c })]).onK (fun k => { k with wakes := [⟨2, 0, [], r, false, 0, 0, 0, none⟩] })
    ((drain.lane 0).st == .drain && drain.laneOn 0 && goesHome (.join .maxn .w64 0 []) && (drain.lane 0).box.length == 1 && !drain.drainHeld 0 ⟨.join .maxn .w64 0 [], .relaxed, 0, 0, 0, []⟩ &&
    save.laneOn 0 && (save.lane 0).box.isEmpty && (save.lane 0).fin.isNone && (save.lane 0).task == 1 && (save.record 1).st == .active 0 &&
    ((save.focusLane 0).areaVa (save.record 1).f 1).isSome && ((save.focusLane 0).slotUnmapped other (saveSlots (save.lane 0))).isNone && !(save.lane 0).selfCancel &&
    (List.range' 8 24).all (fun k => !(save.lane 0).liveV.getLsbD k) &&
    ([some .finish, some (.park (.watch ⟨false, .maxn, .w64, 0, [0], 1, 0, none, 0⟩)), some (.fence .die), some .yield, none].all (fun u =>
      (wrote u).laneOn 0 && ((wrote u).lane 0).st == .save && ((wrote u).lane 0).fin.isNone && !(wrote u).cancelledAt 1 0)) &&
    (trap.lane 0).fin.isSome && thas trap.k.groups 1 && trap.laneOn 0 && decide (1 < trap.k.nextTask) &&
    (late.lane 0).preq == some 0 && (late.lane 0).st == .run && late.laneOn 0 && decide (0 + 2000 ≤ late.time) &&
    (fenced.record 2).st == .fenced .die && !fenced.undone 2 fenced.k.nextFlit (fun _ => true) && !(fenced.record 2).f.tpd &&
    ((woken .watch .none).record 2).st == .parked .watch && ((woken .barrier .none).record 2).st == .parked .barrier &&
    (((woken .watch (.trap ⟨tFILLCONF, 0, 0, true⟩)).k.wakes[0]?).map (fun w => w.task)) == some 2 &&
    ((woken .watch (.scalar 63 7)).areaVa ((woken .watch (.scalar 63 7)).record 2).f 0).isSome &&
    ((drain.k.flits.length) == 0)) = true := by decide +kernel

/-- The other save area, and the last scalar register of the present one, are plain. -/
theorem witness_Commits_plain : (wSave.PlainRange (at2 wSave + 6144) 6144) ∧ wSave.PlainRange (at2 wSave + 8 * 63) 8 :=
  ⟨plainB_sound (by decide +kernel), plainB_sound (by decide +kernel)⟩

theorem witness_Preemptions : let k (s : State) (f : Ctx → Ctx) : State := s.onK f
    let pre := k (wRecs w0 [(1, placeRec), (2, { placeRec with st := .loc 0 })]) (fun k => { k with cores := [(0, { CoreSt.init with asked := true, localq := [2] })] })
    let rest := (k w0 (fun k => { k with cores := [(0, { CoreSt.init with pre := true })] })).onLn (fun l => { l with st := .idle })
    let g (x : Group) : State := k w0 (fun k => { k with groups := [(1, x)] })
    let marked := g { Group.init with cancelling := true, marks := [0] }
    let child := k w0 (fun k => { k with groups := [(1, Group.init), (2, { Group.init with parent := some 1, closed := true })] })
    let ovr (n : Nat) : State := wRecs (g { Group.init with status := n }) [(1, { placeRec with st := .ended })]
    let ended := wTime (wRecs w0 [(2, { placeRec with st := .ended, doneAt := some 0 })]) 100000
    (pre.laneOn 0 && (pre.core 0).asked && (pre.core 0).localq == [2] && (rest.core 0).pre && (rest.coreLanes 0).all (fun l => (rest.lane l).st == .idle) &&
    -- CANCEL_MARK, CANCEL_REQUEST, CANCEL_FINISH, RECLAIM
    (g { Group.init with cancelling := true }).liveGroup 1 && !((g { Group.init with cancelling := true }).group 1).marks.contains 0 && w0.npkg == 1 &&
    marked.laneOn 0 && marked.within 1 (marked.record 1).f.gid && (marked.lane 0).task == 1 && (marked.lane 0).st == .run && marked.liveGroup 1 &&
    (List.range marked.npkg).all (fun q => (marked.group 1).marks.contains q) &&
    ((wRecs marked [(1, { placeRec with st := .ended })]).k.recs.all (fun y => y.2.st == .ended)) && marked.k.combs.isEmpty &&
    ((ovr 2).group 1).status == 2 && thas (ovr 2).k.groups 1 && (ovr 2).settledEffects 1 && ((ovr 1).group 1).status == 1 && (ovr 1).settledEffects 1 &&
    ((ovr 1).k.launch.map (fun l => l.root)) == some 1 &&
    -- GROUP_COMPLETE of a child group, TASK_ID_FREE
    child.liveGroup 2 && child.isClosed 2 && !(child.group 2).cancelling && child.k.recs.all (fun y => y.2.f.gid != 2 || y.2.st == .ended) &&
    child.k.groups.all (fun e => e.2.parent != some 2 || e.2.status != 0) && child.settledEffects 2 && (ended.record 2).st == .ended &&
    decide (0 + 100000 ≤ ended.time) && ended.k.flits.isEmpty && !thas ended.k.holds 2) = true := by decide +kernel

/-- URGENCY_PREEMPT: all lanes of the package are reserved for class 15, and core 0 runs class 7. -/
theorem witness_Urgency : let urgent : Rec := { placeRec with st := .ready }
    let s := wTime ((wRecs w0 [(1, { placeRec with f := { placeRec.f with cls := 7 } }), (2, { urgent with f := { urgent.f with pin := true } })]).onK (fun k => { k with
      precls := 0x10, rsvhi := 0x2000000000000000 })) 1000
    (s.k.precls.toNat / 16 % 2 == 1 && (s.record 2).st == .ready && (s.record 2).pkg == 0 && decide ((s.record 2).f.cls ≤ s.k.precls.toNat % 16) && decide (max 0 0 + 1000 ≤ s.time) &&
    !s.idleFor (s.record 2) && s.k.cores.isEmpty && (s.runningCores 0).any (fun y => decide ((s.record 2).f.cls < (s.coreClasses y).foldl min 16))) = true := by decide +kernel

theorem witness_Arrivals : let res := wRecs w0 [(1, placeRec), (2, { placeRec with st := .reserved })]
    let sp := wFlit res (.spawn 2 placeRec.f none none)
    let m : Msg := ⟨0, 0, 4, [1, 2, 3, 4], none, []⟩
    let ms := wFlit w0 (.msg m)
    let frame := (wObj .excl .w8 true 0xFF)
    let bd : Binding := ⟨0x1000, 0, 1, 3, 8, frame.rC 2, 0, []⟩
    let bound (n : Nat) : State := (wFlit frame (.msg m)).onK (fun k => { k with cores := [(0, { CoreSt.init with
      binds := [(4, bd)], pend := if n = 0 then [] else [(4, List.replicate n m)] })] })
    let timed := wTime (wRecs w0 [(2, { placeRec with st := .timed 101, wheel := wheelPlace ((101 + 99) / 100) 0 })]) 200
    let skep := w0.onK (fun k => { k with cores := [(0, { CoreSt.init with spill := [(true, m)] })] })
    let arrived (s : State) : State := s.onK (fun k => { k with accepted := [(tagOf 1 0 0, 0)] })
    let x := wObj .maxn .w64 true 0xFF
    let w (trig : Nat) : Watch := ⟨false, .maxn, .w64, at2 x, [trig], 5, 0, none, 0⟩
    let wt (trig : Nat) : State := wFlit x (.watch (w trig))
    let again := wTime (x.onK (fun k => { k with refused := [(256, ⟨1, w 1⟩)] })) 256
    let ba := wFlit (w0.onK (fun k => { k with cores := [(0, { CoreSt.init with bars := [(5, ⟨.core, 2, 0, false, []⟩)] })] })) (.barr 0 5 .core 2)
    ((sp.due? 5).isSome && !sp.tagSeen (flitOf 5 (.spawn 2 placeRec.f none none)) && (sp.record 2).st == .reserved && !sp.cancelledAt 1 0 && thas sp.k.groups 1 &&
    (arrived sp).tagSeen (flitOf 5 (.spawn 2 placeRec.f none none)) && !(wTime (arrived sp) 40001).tagSeen (flitOf 5 (.spawn 2 placeRec.f none none)) &&
    (ms.due? 5).isSome && (tget? (ms.core 0).binds 4).isNone && ms.combRuns 0 && !ms.spillFull m && !(bound 0).spillFull m && (bound 0).combRuns 0 &&
    (arrived ms).tagSeen (flitOf 5 (.msg m)) && (skep.core 0).spill == [(true, m)] && !(skep.core 0).pre && (tget (skep.core 0).pend 4 []).isEmpty &&
    (tget? (skep.core 0).binds 4).isNone && skep.combRuns 0 && ((bound 0).due? 5).isSome && (tget? ((bound 0).core 0).binds 4).isSome &&
    ((bound 0).freeHandFrame bd).isSome && ((bound 0).handsOf 0 4).isEmpty && !((bound 0).core 0).pre && (tget ((bound 0).core 0).pend 4 []).isEmpty &&
    (tget ((bound 16).core 0).pend 4 []).length == 16 && ((bound 0).core 0).spill.isEmpty &&
    -- a release between two ticks waits for the later one
    (timed.record 2).st == .timed 101 && ((101 + 99) / 100 : Nat) == timed.timeOn (lget timed.pkgmap 0 0) / 100 && decide (0 ≤ timed.time / 100) &&
    ((wt 0).due? 5).isSome && ((wt 0).watchRes (w 0)).isSome && ((wt 1).watchRes (w 1)).isNone && ((wt 1).homeOf (at2 x)).isSome && (wt 1).fnField 3 == 0 &&
    (((wt 1).homeOf (at2 x)).map (fun h => decide ((wt 1).watchCount h < 16384))) == some true && (again.k.refused[0]?).isSome && decide (256 ≤ again.cyc) &&
    (ba.due? 5).isSome && !ba.tagSeen (flitOf 5 (.barr 0 5 .core 2)) && (arrived ba).tagSeen (flitOf 5 (.barr 0 5 .core 2)) &&
    (tget? (ba.core 0).bars 5).isSome && sameScope .core 0 0) = true := by decide +kernel

theorem witness_Effects : let x (t : LTy) (w : Wd) : State := wObj t w true 0xFF
    let join (t : LTy) (w : Wd) (n : Nat) : State := let s := x t w; wFlit s (.join t w (at2 s) (List.replicate n 1))
    let capped (s : State) : State := s.capBlocks (at2 s) 1
    let e := x .excl .w8
    let st := wFlit e (.store (at2 e) [1, 2, 3, 4] false)
    let cp (n : Nat) : State := wFlit (x .maxn .w64) (.cap .maxn .sys (at2 (x .maxn .w64)) n)
    let two : List (Nat × List Byte) := [(z0 - 8, [1, 2, 3, 4]), (z0 - 4, [5, 6, 7, 8])]
    let wd (rest : Bool) : State := wFlit w0 (.words 1 two rest)
    let taken := wTime (w0.onK (fun k => { k with accepted := [(7, 0)] })) 40001
    let old := wTime (w0.onK (fun k => { k with seen := [(7, 0)] })) 40000
    let isApply (s : State) (va : Nat) : Bool := s.meet va 8 matches .apply
    (elementwise .maxn && elementwise .count && ((join .maxn .w64 8).arriving? 5).isSome && isApply (join .maxn .w64 8) (at2 (x .maxn .w64)) &&
    ((join .maxn .w64 8).phys? (at2 (x .maxn .w64))).isSome && wdBytes .w64 == 8 && ((capped (join .maxn .w64 8)).arriving? 5).isSome &&
    (capped (join .maxn .w64 8)).cappedAt (at2 (x .maxn .w64)) && !(join .maxn .w64 8).cappedAt (at2 (x .maxn .w64)) &&
    ((join .fill .w64 64).arriving? 5).isSome && isApply (join .fill .w64 64) (at2 (x .fill .w64)) && ((join .lap .w64 64).arriving? 5).isSome &&
    isApply (join .lap .w64 64) (at2 (x .lap .w64)) && (st.arriving? 5).isSome && isApply st (at2 e) && (st.mmioAt (at2 e)).isNone && plainB st (at2 e) 4 &&
    ((cp 4096).arriving? 5).isSome && isApply (cp 8192) (at2 (x .maxn .w64)) && ((wd false).arriving? 5).isSome && ((wd true).arriving? 5).isSome && (wd true).combRuns 0 && two.all (fun y => y.1 % 4 == 0 && y.2.length == 4) &&
    decide ((two.map (fun y => y.1)).Nodup) && (old.k.seen[0]?).isSome && (taken.k.accepted[0]?).isSome && decide (0 + 40000 < taken.time) && !taken.heldAct (7 / 2 ^ 20) &&
    (capped (join .fill .w64 64)).cappedAt (at2 (x .fill .w64)) && (capped (join .lap .w64 64)).cappedAt (at2 (x .lap .w64)) &&
    ((capped (join .fill .w64 64)).arriving? 5).isSome && ((capped (join .lap .w64 64)).arriving? 5).isSome &&
    { (join .count .w64 8) with k := { (join .count .w64 8).k with seen := [(countKey (flitOf 5 (.cap .maxn .sys 0 1)) (at2 (x .count .w64)), 0)] } }.pairSeen (countKey (flitOf 5 (.cap .maxn .sys 0 1)) (at2 (x .count .w64))) &&
    decide (0 + 40000 ≤ old.time) && !old.heldAct (7 / 2 ^ 70)) = true := by decide +kernel

theorem witness_Reads : let e := wObj .excl .w8 true 0xFF
    let q : ReadReq := ⟨.ldx .w64, at2 e, 8, 5, 0, none, 0, 0, none⟩
    let asks (s : State) (a : Option Answer) : State := s.onLn (fun l => { l with rd := some { q with ans := a } })
    let s := asks e none
    let gone := s.onK (fun k => { k with roots := [] })
    let pg (n : Nat) : Missed := ⟨2, 0, 0, n, n * 65536, .missing⟩
    let x : Fault292 := ⟨pg 0, false, 0, false, false⟩
    let flt (x : Fault292) : State := e.onK (fun k => { k with faults := [x] })
    let m := wObj .maxn .w64 true 0xFF
    let y : Logged := ⟨0, flitOf 5 (.join .maxn .w64 (at2 m) (List.replicate 8 1))⟩
    let log (bad : Bool) : State := m.onK (fun k => { k with faults := [{ x with done := true, failed := bad }], sideLog := [y] })
    let parked := (wRecs e [(2, { placeRec with st := .parked (.page 0 0 0) })]).onK (fun k => { k with faults := [{ x with done := true }] })
    (s.laneOn 0 && !s.readHeld 1 q.va 8 && (objAt s.k.objs q.va).isSome && (s.firstUnmapped q.va 8).isNone && !s.kernelAt q.va 8 && !s.poisonedAt q.va 8 &&
    (s.mmioAt q.va).isNone && (s.lane 0).box.isEmpty && (gone.firstUnmapped q.va 8) == some q.va && (gone.unmapped? q.va).isSome && (gone.lane 0).task == 1 &&
    ((asks e (some (.data (List.replicate 8 1) false []))).lane 0).rd.isSome && (asks e (some (.trap ⟨tUNCORR, 0, 0, true⟩))).laneOn 0 &&
    decide (0 + 20000 ≤ (wTime s 20000).time) && (wTime s 20000).laneOn 0 &&
    (flt x).k.faults.length == 1 && thas (flt x).k.objs 2 && ((flt { x with page := pg 1 }).mapPageAt 2 0 0 1 0 none).isSome &&
    ((tget? m.k.objs 2).map (fun y => y.ty)) == some .maxn && (List.range' 65536 4).any (fun f => (m.mapPageAt 2 0 0 1 0 (some f)).isSome) && (m.leafOf (pg 1)).isNone &&
    ((tget? e.k.objs 2).map (fun y => y.ty)) == some .excl && (List.range' 65536 4).any (fun f => (e.mapPageAt 2 0 0 1 3 (some f)).isSome) && (m.leafOf (pg 0)).isSome && !thas e.k.objs 9 &&
    decide (0 + 100000000 ≤ (wTime (flt { x with skep := true }) 100000000).time) && (log true).k.sideLog.length == 1 &&
    ((log false).translate (effVa y.f.e.eff) matches .at _ false 0) && (log false).mem.poison.isEmpty && parked.k.sideLog.isEmpty &&
    (parked.record 2).st == .parked (.page 0 0 0) && decide (2 < parked.k.nextTask)) = true := by decide +kernel

/-- Reads that end in a trap, exact reads that do not, and faults that find no object, no frame or a bad table. -/
theorem witness_ReadsThatTrap : 
    let asks (s : State) (k : ReadKind) (n : Nat) (a : Option Answer) : State := s.onLn (fun l => { l with rd := some ⟨k, at2 s, n, 5, 0, none, 0, 0, a⟩ })
    let ok (s : State) : Bool := s.laneOn 0 && (s.lane 0).rd.isSome && !s.readHeld 1 (at2 s) 64 && (objAt s.k.objs (at2 s)).isSome
    let clean (s : State) : Bool := ok s && (s.firstUnmapped (at2 s) 64).isNone && !s.kernelAt (at2 s) 64 && (s.mmioAt (at2 s)).isNone
    let a (s : State) : Nat := (s.phys? (at2 s)).getD 0 / 64
    let e := wObj .excl .w8 true 0xFF
    let f := wObj .fill .w64 true 0xFF
    let kern := asks (wObjOn (wHw w0 (fun p => { p with kframes := [(0, 2 ^ 37, true)] })) .excl .w8 true 0xFF) (.ldx .w64) 8 none
    let bad := asks { e with mem := { e.mem with poison := [a e] } } (.ldx .w64) 8 none
    let x (s : State) : State := asks s (.vxrd .fill true) 64 none
    let capped := f.capBlocks (at2 f) 1
    let top := { capped with mem := { capped.mem with lines := tset capped.mem.lines (a f) .top } }
    let gone : Fault292 := ⟨⟨9, 0, 0, 0, 0, .missing⟩, false, 0, false, false⟩
    (ok kern && (kern.firstUnmapped (at2 kern) 8).isNone && kern.kernelAt (at2 kern) 8 && (kern.record 1).st == .active 0 && (kern.lane 0).task == 1 &&
    clean bad && bad.poisonedAt (at2 bad) 8 && clean (x f) && !(x f).rangeCapped (at2 f) 64 && !(x f).poisonedAt (at2 f) 64 &&
    clean (x top) && (x top).rangeCapped (at2 f) 64 && (x top).anyTop (at2 f) 64 && clean (x capped) && (x capped).rangeCapped (at2 f) 64 &&
    !(x capped).anyTop (at2 f) 64 && ((asks f (.xrd .mini .w32) 4 (some (.data [0, 0, 0, 0x80] false []))).lane 0).rd.isSome &&
    ((asks f (.vxrd .fill true) 64 (some (.data [] false []))).lane 0).rd.isSome && !thas e.k.objs gone.page.oid && !gone.done && !gone.skep &&
    ({ e with hw := [(0, { e.pkg 0 with used := (List.range 16).map (fun n => (n, 2 ^ 60)) })] }.mapPageAt 2 0 0 1 0 none).isNone && { gone with skep := true, page := ⟨2, 0, 0, 0, 0, .table⟩ }.page.cause == .table) = true := by decide +kernel

/-- A flit of KIND 1 with a sequence and an acknowledgement, and its CRC. -/
def flitBits (q lack : Nat) : BitVec 1024 :=
  let x := 1 + q * 2 ^ 64 + lack * 2 ^ 96
  BitVec.ofNat 1024 (x + crc64 (toBytes x 120) * 2 ^ 960)

theorem witness_Links : let j : Eff := .join .maxn .w64 0 (List.replicate 8 1)
    let f := flitOf 5 j
    let s (f : Flit) (t : Nat) : State := wTime (w0.onK (fun k => { k with flits := [f], nextFlit := 6 })) t
    let m := wObj .maxn .w64 true 0xFF
    let h : Flit := { flitOf 5 (.join .maxn .w64 (at2 m) (List.replicate 8 1)) with merged := true, parts := [3, 4] }
    let part (n : Nat) : Flit := { flitOf n (.join .maxn .w64 (at2 m) (List.replicate 8 1)) with parts := [] }
    let merged := (m.capBlocks (at2 m) 1).onK (fun k => { k with flits := [part 3, part 4, h], nextFlit := 6 })
    let port (p : Port) : State := { wHw w0 (fun x => { x with ports := [(0, p)] }) with cyc := 0 }
    let up : Port := ⟨3, 0xFF, 1, 0, 7, [(8, 0), (9, 0)], false, 0, 0xFF, 0xFF⟩
    let two := (port up).onK (fun k => { k with flits := [part 3, part 4], nextFlit := 6 })
    let paired : State := { wHw w0 id with hw := [(0, { Pkg.init with state := 2, ports := [(0, { up with peer := 1 })] }), (1, { Pkg.init with state := 2, ports := [(0, { up with peer := 0 })] })] }
    let good (x : BitVec 1024) : Bool := decide ((x.extractLsb' 0 4).toNat ≤ 8) && x.extractLsb' 7 1 == 0 && x.extractLsb' 10 6 == 0 &&
      (x.extractLsb' 960 64).toNat == crc64 (toBytes x.toNat 120)
    let wide := w0.onK (fun k => { k with launch := k.launch.map (fun l => { l with npkg := 2, pkgmap := [0, 1] }) })
    (((s { f with done := true } 0).flit? 5).isSome && !(s f 0).partOf 5 && acked j && !acked (.twperm 0 0 1) && decide (0 + 2000 ≤ (s f 2000).time) &&
    decide (0 + 6000 ≤ (s { f with resends := 1 } 6000).time) && decide (0 + 20000 ≤ (s f 20000).time) && (flitOf 5 (.twperm 0 0 1)).pending &&
    (merged.arriving? 5).isSome && merged.anyReports (merged.constituents h) && thas (port up).hw 0 && ((port up).port 0 0).live && ((port up).port 0 0).replay.length == 2 &&
    ((port up).port 0 0).lack + 1 == 8 && good (flitBits 8 9) && (flitBits 8 9).extractLsb' 64 32 == 8 && !good (flitBits 8 9 + 1) && !good 9 &&
    (paired.farEnd 0 0) == some (1, 0) && seqAfter 8 (paired.port 1 0).lseq && (((port up).port 0 0).replay.head?.map (fun z => decide (z.2 + 1000 ≤ (wTime (port up) 1000).time))) == some true &&
    ((port { up with nak := true }).port 0 0).nak && (two.flit? 3).isSome && (two.flit? 4).isSome && !two.held (part 3) && !two.partOf 3 && (part 4).pending &&
    ((port { up with st := 1 }).port 0 0).st == 1 && (wide.k.launch.map (fun l => decide (2 ≤ l.npkg) && l.pkgmap.contains 0)) == some true && (wide.pkg 0).ports.isEmpty &&
    paired.portTo 0 1 && paired.portTo 1 0 && !(port { up with st := 0 } |>.port 0 0).live && decide (0 + 100000 ≤ (wTime (port { up with st := 0 }) 100000).time)) = true := by decide +kernel

/-- A transfer record as a number: O, PG, rows, row bytes; from core 0 to core 1, both at offset 0. -/
def trOf (o pg rows rb id : Nat) : Nat :=
  o * 2 ^ 63 + 2 * 2 ^ 124 + 2 ^ 20 * 2 ^ 128 + 2 * 2 ^ 188 + rows * 2 ^ 192 + rb * 2 ^ 208 + id * 2 ^ 448 + pg * 2 ^ 481

/-- Channel 0 of comb 0 in a state, at an excl object that holds a record. -/
def wTwe (rec' : Nat) (f : Chan → Chan) : State :=
  let s := wObj .excl .w8 true 0xFF
  (wComb (fun c => { c with chans := [(0, f { Chan.init with head := at2 s, owner := 1, st := .walking })] }) s).writeV (at2 s) (toBytes rec' 64)

/-- Channel 0 of comb 0 at a row of a record, in a state with an object that c2 holds. -/
def wRow (s : State) (rec' : State → Nat) (r : Nat) : State :=
  wComb (fun c => { c with chans := [(0, { Chan.init with head := at2 s, owner := 1, st := .walking, row := some r, line := BitVec.ofNat 512 (rec' s) })] }) s

theorem witness_TweRuns : let s (o pg rb id done : Nat) : State := wTwe (trOf o pg 1 rb id) (fun c => { c with doneId := done })
    let line (s : State) : Line := BitVec.ofNat 512 (ofBytes (s.readV (s.chan 0 0).head 64))
    let lost := s 1 0 64 0 0
    let far := { lost with k := { lost.k with objs := [] } }
    let on (s : State) : State := wComb (fun c => { c with chans := [(0, { Chan.init with head := at2 s, owner := 1, st := .walking })] }) s
    let kern := on (wObjOn (wHw w0 (fun p => { p with kframes := [(0, 2 ^ 37, true)] })) .excl .w8 true 0xFF)
    let lat := on (wObj .maxn .w64 true 0xFF)
    let alien := wTwe 0 (fun c => { c with owner := 7 })
    let odd := wTwe 0 (fun c => { c with head := c.head + 4 })
    let bad := { lost with mem := { lost.mem with poison := [(lost.phys? (at2 lost)).getD 0 / 64] } }
    let gone := (wTwe 0 id).onK (fun k => { k with groups := [(1, { Group.init with cancelling := true })] })
    let at' (s : State) : Option Obj := (objAt s.k.objs (s.chan 0 0).head).map (fun y => y.2)
    let reads (s : State) : Bool := (s.chan 0 0).st == .walking && (s.chan 0 0).row.isNone && s.combRuns 0 && !s.ownerGone (s.chan 0 0)
    let ok (s : State) : Bool := reads s && (at' s).any (fun y => !y.ret && decide ((s.chan 0 0).head + 64 ≤ y.base + y.len * 4096))
    let row (r : Nat) : State := wTwe (trOf 1 0 1 64 0) (fun c => { c with row := some r, line := BitVec.ofNat 512 (trOf 1 0 1 64 0) })
    let wait := wTime (wTwe 0 (fun c => { c with st := .waiting })) 4096
    ((wFlit (s 1 0 64 0 0) (.twgo 0 0 64)).due? 5).isSome ∧ ((wFlit (s 1 0 64 0 0) (.twperm 0 0 65535)).due? 5).isSome ∧
    ((wFlit (s 1 0 64 0 0) (.twgo 0 0 64)).acceptTag (flitOf 5 (.twgo 0 0 64))).tagSeen (flitOf 5 (.twgo 0 0 64)) ∧ !(wFlit (s 1 0 64 0 0) (.twgo 0 0 64)).tagSeen (flitOf 5 (.twgo 0 0 64)) ∧
    (!trO (line (s 0 0 64 0 0)) && trO (line (s 1 0 64 0 0)) && trChk (line (s 1 0 64 0 0)) 0 == none && trChk (line (s 1 0 64 0 1)) 1 == some tILLEGAL &&
    trChk (line (s 1 0 66 0 0)) 0 == some tALIGN && trPg (line (s 1 1 64 0 0)) && ((s 1 1 64 0 0).chan 0 0).permits == 0 && lost.combRuns 0 && !lost.ownerGone (lost.chan 0 0) &&
    reads far && (at' far).isNone && ok kern && kern.kernelAt (kern.chan 0 0).head 64 && ok lat && !lat.kernelAt (lat.chan 0 0).head 64 && (at' lat).any (fun y => y.ty == .maxn) &&
    ok alien && (at' alien).any (fun y => y.ty == .excl && y.owner == 1) && !alien.kernelAt (alien.chan 0 0).head 64 && ok odd && (odd.chan 0 0).head % 64 == 4 &&
    !odd.kernelAt (odd.chan 0 0).head 64 && ok bad && (bad.firstUnmapped (bad.chan 0 0).head 64).isNone && bad.poisonedAt (bad.chan 0 0).head 64 &&
    ok lost && (lost.firstUnmapped (lost.chan 0 0).head 64).isNone && !lost.kernelAt (lost.chan 0 0).head 64 && !lost.poisonedAt (lost.chan 0 0).head 64 &&
    (lost.chan 0 0).head % 64 == 0 && gone.ownerGone (gone.chan 0 0) && (gone.chan 0 0).row.isNone && gone.combRuns 0 &&
    decide (0 + 4096 ≤ wait.cyc) && (wait.chan 0 0).st == .waiting && wait.combRuns 0 &&
    (let t := row 0
     let x := (t.chan 0 0).line
     (t.chan 0 0).row == some 0 && decide (0 < trRows x) && trSsp x == 2 && trDsp x == 2 && trMcast x == 0 && !trFj x && spCore (trSrc x) / 4 == 0 &&
       decide (spOff (trSrc x) + trRb x ≤ t.scratchSize) && !t.scratchBad 0 0 64 && spCore (trDst x) == 1 && decide (1 < t.lcount) && spOff (trDst x) == 0) &&
    ((row 1).chan 0 0).row == some (trRows ((row 1).chan 0 0).line) && trCk ((row 1).chan 0 0).line == 0 && plainB (row 1) (((row 1).chan 0 0).head + 7) 1) = true := by
  decide +kernel

/-- What HeldBy asks, by evaluation. -/
def heldB (s : State) (va : Int) (n o : Nat) (y : Obj) : Bool :=
  objAt s.k.objs va.toNat == some (o, y) && decide (0 ≤ va ∧ va.toNat + n ≤ y.base + y.len * 4096) && !y.ret &&
    (s.firstUnmapped va.toNat n).isNone && !s.kernelAt va.toNat n

theorem heldB_sound {s : State} {va : Int} {n o : Nat} {y : Obj} (h : heldB s va n o y = true) : s.HeldBy va n y := by
  simp only [heldB, Bool.and_eq_true, beq_iff_eq, decide_eq_true_eq, Bool.not_eq_true', Option.isNone_iff_eq_none] at h
  obtain ⟨⟨⟨⟨h1, h2, h2'⟩, h3⟩, h4⟩, h5⟩ := h
  exact ⟨⟨o, h1⟩, h2, h2', h3, h4, h5⟩

/-- Rows of 64 bytes: a scratchpad to the scratchpad of a marked comb, exclusive memory to exclusive memory, capped fill
memory to a fill object with FJ, and fill memory that is not capped. -/
def rowSp : State := wRow w0 (fun _ => trOf 1 0 1 64 0 + 2 * 2 ^ 320) 0
def rowWord (s : State) (k : Nat) : Nat :=
  2 ^ 63 + at2 s * 2 ^ 64 + k * 2 ^ 124 + (at2 s + 128) * 2 ^ 128 + k * 2 ^ 188 + 1 * 2 ^ 192 + 64 * 2 ^ 208 + k * 2 ^ 482
def rowMem : State := wRow (wObj .excl .w8 true 0xFF) (rowWord · 0) 0
def rowRaw : State := wRow (wObj .fill .w64 true 0xFF) (rowWord · 1) 0
def rowLat : State := let f := wObj .fill .w64 true 0xFF
  wRow (f.capBlocks (at2 f) 1) (rowWord · 1) 0
def objOf (s : State) : Obj := ((objAt s.k.objs (at2 s)).map (fun y => y.2)).getD ⟨0, 0, .excl, .w8, 0, 0, 0, 0, 0, false, false, false, false, none⟩

theorem witness_TweRow_scratch : rowSp.RowFrom 0 (rowSp.chan 0 0) 0 (rowSp.scratch 0 0 64) ∧
    rowSp.RowTo 0 (rowSp.chan 0 0) 0 (rowSp.scratch 0 0 64) [.scratch 5 (storeWords 0 (rowSp.scratch 0 0 64)) true false] ∧
    rowSp.rowWaits 0 0 0 = false ∧ rowSp.combRuns 0 = true ∧ (rowSp.chan 0 0).row = some 0 ∧
    (rowRaw.tweSrc 0 (rowRaw.chan 0 0) 0 matches .halt _) = true :=
  ⟨Or.inl (by decide +kernel), Or.inl (by decide +kernel), by decide +kernel, by decide +kernel, by decide +kernel, by decide +kernel⟩

theorem witness_TweRow_memory : rowMem.RowFrom 0 (rowMem.chan 0 0) 0 (rowMem.readV (at2 rowMem) 64) ∧
    rowMem.RowTo 0 (rowMem.chan 0 0) 0 (rowMem.readV (at2 rowMem) 64) [.mem (at2 rowMem + 128) (rowMem.readV (at2 rowMem) 64)] :=
  ⟨Or.inr ⟨objOf rowMem, heldB_sound (o := 2) (by decide +kernel), by decide +kernel, by decide +kernel, Or.inl (by decide +kernel)⟩,
    Or.inr ⟨objOf rowMem, heldB_sound (o := 2) (by decide +kernel), by decide +kernel, Or.inl (by decide +kernel)⟩⟩

theorem witness_TweRow_lattice : rowLat.RowFrom 0 (rowLat.chan 0 0) 0 (rowLat.readV (at2 rowLat) 64) ∧
    rowLat.RowTo 0 (rowLat.chan 0 0) 0 (rowLat.readV (at2 rowLat) 64) [.mem (at2 rowLat + 128) (rowLat.readV (at2 rowLat) 64)] :=
  ⟨Or.inr ⟨objOf rowLat, heldB_sound (o := 2) (by decide +kernel), by decide +kernel, by decide +kernel, Or.inr (by decide +kernel)⟩,
    Or.inr ⟨objOf rowLat, heldB_sound (o := 2) (by decide +kernel), by decide +kernel, Or.inr (by decide +kernel)⟩⟩

/-- Completion actions: a word to a marked core's scratchpad, a join of ID and one of its bit. -/
def doneAct (t : LTy) (ck : Nat) : State :=
  wRow (wObj t .w32 true 0xFF) (fun s => if ck = 1 then trOf 1 0 1 64 7 + 2 ^ 446 + 2 ^ 384 else trOf 1 0 1 64 7 + ck * 2 ^ 446 + at2 s * 2 ^ 384) 1

theorem witness_TweActions : (doneAct .maxn 1).ActionOf ((doneAct .maxn 1).chan 0 0) [.scratch 1 [(4, toBytes 0 4)] false false] ∧
    (doneAct .maxn 2).ActionOf ((doneAct .maxn 2).chan 0 0) [.mem (at2 (doneAct .maxn 2)) (toBytes 7 4)] ∧
    (doneAct .union 3).ActionOf ((doneAct .union 3).chan 0 0) [.mem (at2 (doneAct .union 3)) (toBytes 128 4)] ∧
    ((doneAct .maxn 1).chan 0 0).row = some (trRows ((doneAct .maxn 1).chan 0 0).line) :=
  ⟨Or.inl (by decide +kernel),
    Or.inr (Or.inl ⟨by decide +kernel, objOf (doneAct .maxn 2), heldB_sound (o := 2) (by decide +kernel), by decide +kernel⟩),
    Or.inr (Or.inr ⟨by decide +kernel, objOf (doneAct .union 3), heldB_sound (o := 2) (by decide +kernel), by decide +kernel⟩), by decide +kernel⟩

/-- Payload on its way: words of a scratchpad at either delivery, bytes of exclusive memory and of a fill object. -/
theorem witness_TwePayload : let ws : List (Nat × List Byte) := [(z0 - 8, [1, 2, 3, 4]), (z0 - 4, [5, 6, 7, 8])]
    let sp (rest : Bool) : State := wFlit (wRow w0 (fun _ => 0) 1) (.payload 0 0 (.scratch 1 ws true rest))
    let e := wObj .excl .w8 true 0xFF
    let f := wObj .fill .w64 true 0xFF
    let toMem (s : State) : State := wFlit (wRow s (rowWord · 0) 1) (.payload 0 0 (.mem (at2 s) (List.replicate 64 7)))
    let on (s : State) : Bool := (s.flit? 5).any (fun g => !g.stop && !g.done)
    let row (n : Nat) : State := wFlit (wRow w0 (fun _ => trOf 1 0 2 64 0 + 64 * 2 ^ 256) n) (.payload 0 0 (.scratch 0 ws true false))
    let lands (s : State) (t : LTy) : Bool := on (toMem s) && ((toMem s).meet (at2 s) 64 matches .apply) &&
      (objAt (toMem s).k.objs (at2 s)).any (fun y => y.2.ty == t)
    (on (sp false) && on (sp true) && (sp true).combRuns 0 && (sp true).paying 0 0 && ((sp true).chan 0 0).row == some 1 &&
    (List.range 2).all (fun n => ((row n).chan 0 0).row == some n) && ws.all (fun y => y.1 % 4 == 0 && y.2.length == 4) && lands e .excl && lands f .fill &&
    plainB (toMem e) (at2 e) 64) = true := by decide +kernel

theorem witness_ArrayRuns : let c (f : CombSt → CombSt) : State := wComb f w0
    let free := (c (fun c => { c with asking := [8] })).onK (fun k => { k with slotNow := 4 })
    let own := (c (fun c => { c with asking := [8] })).onK (fun k => { k with slotNow := 1 })
    let full := wTime w0 2048
    let pend := w0.onK (fun k => { k with slotPend := some 0, launch := none })
    let e := wObj .excl .w8 true 0xFF
    let load (s : State) (va : Nat) : State := wComb (fun c => { c with lease := some ⟨0, 63, none, [1]⟩, buf0 := ⟨.loading va, []⟩
                                                                        queue := [⟨true, some 0, 1, 0, 0, some false, none, 0, none⟩] }) s
    let ok := load e (at2 e)
    let two := full.onK (fun k => { k with launch := k.launch.map (fun l => { l with npkg := 2, pkgmap := [0, 0] }) })
    (free.combRuns 0 && (free.comb 0).lease.isNone && decide (free.slotUsed (free.comb 0) < 2048) && free.slotOwner (free.comb 0) == 4 && (free.comb 0).askers == [1] &&
    (own.comb 0).lease.isNone && own.slotOwner (own.comb 0) == 1 && decide (2048 ≤ full.slotUsed (full.comb 0)) && pend.k.slotPend == some 0 && pend.k.launch.isNone &&
    ((ok.comb 0).loadHead).isSome && (free.comb 0).queue.isEmpty && ((wBusy.comb 0).queue[0]?).any (fun q => q.job.isNone) && decide (0 < 512 * full.npkg) && decide (0 < pend.period32k + 1) && ((ok.comb 0).bufOf false).st == .loading (at2 e) && !ok.readHeld 1 (at2 e) 8192 && ok.combRuns 0 && !ok.engineMuted 0 (2 ^ 64) &&
    (ok.firstUnmapped (at2 e) 8192).isNone && !ok.kernelAt (at2 e) 8192 && !ok.poisonedAt (at2 e) 8192 && !ok.anyTop (at2 e) 8192 &&
    ((ok.onK (fun k => { k with roots := [] })).firstUnmapped (at2 e) 8192).isSome && (badSlotFrom 0 (chunks 64 128 (List.replicate 8192 0))).isNone &&
    badSlotFrom 0 [List.replicate 64 255] == some 0 && (wBusy.comb 0).nextMove == some 0 && wBusy.combRuns 0 && (two.served 0 0).length == 2 &&
    (two.served 0 0).any (fun y => two.inSlice y)) = true := by decide +kernel

/-- Combs 0 and 1 of die 0, and comb 8 below comb 0. -/
def c0 : Site := ⟨0, 0, 0⟩
def c1 : Site := ⟨0, 0, 1⟩
def c8 : Site := ⟨0, 0, 8⟩

/-- A package with Waggle running, comb 0 and the beats from comb 1 as given. -/
def wWag (w : Wag → Wag) (b : Beat → Beat) (t : Nat) : State :=
  wTime (wHw w0 (fun p => { p with wag := [(0, w Wag.init)], beats := [(1, b Beat.init), (512, b Beat.init)] })) t

theorem witness_Waggle : let s := wWag id id 6000
    let bad := wWag id (fun b => { b with badAt := [0] }) 15999
    let acc := wWag (fun w => { w with accusers := [(1 * 512 + 1, (0, 64000)), (8 * 512 + 8, (0, 64000)), (512 + 8, (0, 64000))] }) id 6000
    let old := wWag (fun w => { w with accusers := [(513, (0, 6000))] }) id 6000
    (thas s.hw 0 && (s.pkg 0).wagOn && (s.wag c0).beats && decide ((s.wag c0).beat + 2000 ≤ s.time) && s.nbOf c0 c1 && (s.beat c0 c1).badAt.isEmpty &&
    ((bad.beat c0 c1).badAt.filter (fun t => decide (bad.time < t + 16000))).length == 1 && (s.beat c0 c1).arrived.isEmpty &&
    decide (max (s.beat c0 c1).last (max (s.pkg 0).wagFrom (s.wag c0).since) + 6000 ≤ s.time) && (s.wag c0).st == .active && ((s.pkg 0).liveNb 0).length != 1 &&
    ((acc.wag c0).accusers.filter (fun e => e.1 / 512 == 1 && e.1 != 1 * 512 + 1 && decide (acc.time < e.2.2))).length == 1 &&
    (tget? (acc.wag c0).accusers (8 * 512 + 8)).isSome && decide (acc.time < 64000) && (tget? (old.wag c0).accusers 513).isSome && decide (6000 ≤ old.time) &&
    -- a good heartbeat, a bad one, the third arrival of a period, an accusation by traffic, and one that stands with one neighbour left
    (let hb : Heartbeat := ⟨c0, s.digest c0, true⟩
     hb.crcOk && hb.id == c0 && hb.digest == s.digest c0 && (1 : BitVec 16) == (s.beat c0 c1).seq + 1 && (0 : BitVec 16) != (s.beat c0 c1).seq + 1) &&
    (((wWag id (fun b => { b with arrived := [5000, 5500] }) 6000).beat c0 c1).arrived.filter (fun t => decide (6000 < t + 2000))).length == 2 &&
    decide ((s.pkg 0).wgrate.toNat % 2 ^ 16 < 0x4001) && (old.pkg 0).liveNb 0 != [1] &&
    (let one := { old with hw := [(0, { old.pkg 0 with wag := tset (old.pkg 0).wag 8 { Wag.init with st := .fenced } })] }
     (one.pkg 0).liveNb 0 == [1] && (one.wag c0).st == .active && (tget? (one.wag c0).accusers 513).isSome)) = true := by
  decide +kernel

theorem witness_Fenced : let fen := wWag (fun w => { w with st := .fenced }) id 0
    let tst := wWag (fun w => { w with st := .selftest }) id 0
    let app (n : Nat) : State := wWag (fun w => { w with st := .appeal }) (fun b => { b with good := 8 }) n
    let three := wWag (fun w => { w with st := .fenced, refused := true, appeals := [0, 1, 2] }) id 3600000000000
    let held := (wRecs w0 [(2, { placeRec with st := .ready })]).onK (fun k => { k with holds := [(2, 0)] })
    let noted := fen.onK (fun k => { k with holds := [(1, 0)] })
    let quiet := wRecs fen []
    ((fen.wag c0).st == .fenced && (fen.ranOn c0).length == 1 && thas held.k.holds 2 && (held.record 2).st == .ready && decide ((held.record 2).notBefore ≤ held.time) &&
    (noted.ranOn c0).all (fun e => tget? noted.k.holds e.1 == some e.2.f.actn) && !(noted.wag c0).failed && !(noted.wag c0).refused && (tst.wag c0).st == .selftest &&
    (app 127999).nbOf c0 c1 && decide (8 ≤ ((app 127999).beat c0 c1).good) && decide ((app 127999).time < ((app 127999).wag c0).since + 128000) &&
    decide (((app 128000).wag c0).since + 128000 ≤ (app 128000).time) && (three.wag c0).refused &&
    decide (((three.wag c0).appeals.drop ((three.wag c0).appeals.length - 3)).headD 0 + 3600000000000 ≤ three.time) && quiet.k.launch.isSome &&
    !(quiet.served 0 0).isEmpty && (quiet.ranOn c0).isEmpty && (quiet.moveAll 0 [] (quiet.served 0 0)).isSome && (w0.hostFor 0 0).isSome && w0.k.ownsDie 0 0 &&
    (fen.served 0 0).contains (laneComb 0) && (fen.lane 0).task == 1 && ((w0.core 0).saved.bytes.map (fun y => y.1)).isEmpty) = true := by decide +kernel

/-- No comb left that could take one: the remap fails. -/
theorem witness_NoHost : let s := wHw w0 (fun p => { p with wag := (List.range 64).map (fun n => (n, { Wag.init with st := .fenced })) })
    ((wRecs s []).moveAll 0 [] [0]).isNone = true := by decide +kernel

theorem witness_Errors : let u : FaultUnit := .comb 0 0 0
    let s := wTime (wHw w0 (fun p => { p with counters := [(unitNo (.comb 0 0 0), ⟨1, false, 0⟩)] })) 1000000
    let p (f : Pkg → Pkg) : State := wHw w0 f
    let x := wTwe (trOf 1 0 1 64 0) id
    (thas s.hw (unitPkg u) && cfgInterval ((s.pkg 0).unitCfg u) == 1000 && (tget (s.pkg 0).counters (unitNo u) ⟨0, false, 0⟩).val == 1 && decide (0 + 1000 * 1000 ≤ s.time) &&
    (w0.phys? w0.ln.pc.toNat).isSome && decide (0 < w0.lcount) && decide (z0 - 1 < w0.scratchSize) && decide (0 < w0.accRows) && w0.hasLane 0 && (w0.lane 0).st == .run &&
    ((w0.onLn (fun l => { l with st := .load })).lane 0).st == .load && (x.chan 0 0).st == .walking && (x.chan 0 0).row.isNone &&
    (wRecs w0 [(2, { placeRec with st := .ready })]).alive 2 && (p id |>.pkg 0).state == 2 && ((p (fun x => { x with goodSync := 31, locked := false })).pkg 0).goodSync == 31 &&
    ((p (fun x => { x with locked := true })).pkg 0).locked && decide (700 ≤ ((p id).pkg 0).clock) && decide (((p (fun x => { x with clock := 1000 })).pkg 0).clock ≤ 1000) &&
    (5 : BitVec 32).toInt.natAbs == 5 && (12 : BitVec 8).toNat < 128 && ((w0.onLn (fun l => { l with st := .drain })).lane 0).st == .drain &&
    decide (((wHw w0 (fun x => { x with locked := true, syncGap := 1000 })).pkg 0).lastSync + 8 * 1000 ≤ (wTime w0 8000).time) &&
    (((wRecs w0 [(2, { placeRec with st := .ready })]).record 2).st.queued) && decide (2 < (wRecs w0 []).k.nextTask) && decide (physAddr 0 5 / 64 = 0) && (BitVec.ofInt 32 (-101)).toInt.natAbs == 101) = true := by decide +kernel

/-- A command line: OP, ID, ARG0, ARG1. -/
def cmdOf' (op a b : Nat) : Line := BitVec.ofNat 512 (op + 9 * 2 ^ 16 + a * 2 ^ 64 + b * 2 ^ 128)
def wHost (s : State) (f : HostSt → HostSt) : State := s.onK (fun k => { k with host := f k.host })

/-- A descriptor of image 1 with one package and 32 vector registers, and an image of one block. -/
def desc1 : BitVec 2048 := BitVec.ofNat 2048 (1 + 2 ^ 128 + 2048 * 2 ^ 160 + 0x1C8C08 * 2 ^ 192 + 32 * 2 ^ 224)
def img1 : Image := ⟨[0, 0, 0, 0x38], [0], [], none, 0x1C8C08, 0, desc1, 0⟩

/-- An image that the checks of R135 accept: one block of zeros with its SHA-256. -/
def imgGood : Image := let code : List Byte := List.replicate 4096 0
  ⟨code, [0], [], none, 0x1C8C08, 0, desc1, BitVec.ofNat 256 (ofBytes (sha256 code))⟩

theorem witness_ImageOk : imageOk imgGood = true ∧ imageOk img1 = false := by
  refine ⟨?_, by decide +kernel⟩
  have h : imgGood.hash.toNat = ofBytes (sha256 imgGood.code) := sha256_toNat _
  unfold imageOk
  rw [h, beq_self_eq_true, Bool.and_true]
  decide +kernel

/-- Check values from outside: SHA-256 of "abc" (FIPS 180-4), CRC-64/ECMA-182 and CRC-16/CCITT-FALSE of "123456789". -/
theorem test_checksums : let abc : List Byte := [0x61, 0x62, 0x63]
    let digits : List Byte := (List.range 9).map (fun i => BitVec.ofNat 8 (0x31 + i))
    (sha256 abc).take 4 = [0xBA, 0x78, 0x16, 0xBF] ∧ (sha256 abc).drop 28 = [0xF2, 0x00, 0x15, 0xAD] ∧
    crc64 digits = 0x6C40DF5F0B497347 ∧ crc16 digits = 0x29B1 := by decide +kernel

theorem witness_Launches : let h (op a b : Nat) : State := wHost w0 (fun h => { h with cmds := [cmdOf' op a b] })
    let ok (op a b : Nat) : Bool := (h op a b).k.host.cmds.length == 1 && cmdOp (cmdOf' op a b) == op && !cmdReserved (cmdOf' op a b) && cmdArg0 (cmdOf' op a b) == a && cmdArg1 (cmdOf' op a b) == b
    let tt (rule : Nat) (s : State) : State := s.onK (fun k => { k with tttab := [(0, 0), (1, 0), (3, BitVec.ofNat 64 (1 + 2 * rule))] })
    let q : LaunchReq := ⟨desc1, [0], 7, none, []⟩
    let idle := (wHost w0 (fun h => { h with launches := [q] })).onK (fun k => { k with launch := none, images := [⟨1, img1⟩] })
    let bad := idle.onK (fun k => { k with images := [] })
    let none' := idle.onK (fun k => { k with images := [⟨1, { img1 with objs := [⟨.excl, .w8, 0, .spread, []⟩] }⟩] })
    let post := wHost w0 (fun h => { h with waiting := [1], cqSize := 16 })
    (ok 1 5 0 && ok 2 65535 0 && ok 3 (1 + 2 ^ 36) 0 && ok 3 (1 + 15 * 2 ^ 32) 0 && w0.liveGroup 1 && ok 4 2 0 && ok 5 0 0 && ok 6 255 0 && ok 7 0 0 && cmdReserved (cmdOf' 0x101 0 0) &&
    (w0.k.launch.map (fun L => (L.cmd, L.root))) == some (0, 1) && ((wRecs w0 [(2, { placeRec with st := .held })]).record 2).st == .held && !(w0.group 1).cancelling &&
    (quad (BitVec.ofNat 256 (5 * 2 ^ 192)) 3).toNat == 5 && wSvc.k.service && (tt 0 w0).k.ttOn 0 && (tt 0 w0).k.ttTime 0 == some 0 && (tt 0 w0).fnField 5 == 0 &&
    (tt 0 w0).k.ttRule 0 == 0 && (tt 1 w0).k.ttRule 0 == 1 && (tt 2 w0).k.ttRule 0 == 2 && (tt 0 w0).k.launch.isSome && (tt 1 w0).k.host.launches.isEmpty &&
    idle.k.launch.isNone && idle.k.host.waiting.isEmpty && (idle.refusal q).isNone && (bad.refusal q).isSome && (none'.refusal q).isNone &&
    ((wHost none' (fun h => { h with launches := [] })).startLaunch q { img1 with objs := [⟨.excl, .w8, 0, .spread, []⟩] }).isNone &&
    ((wHost idle (fun h => { h with launches := [] })).startLaunch q img1).isSome && ((wHost idle (fun h => { h with launches := [] })).startLaunch { q with place := [(700, 2 ^ 20)] } img1).isSome && idle.hostUp && w0.hostUp &&
    (wHost w0 (fun h => { h with waiting := [1], cqSize := 16 }) |>.onK (fun k => { k with endAt := 1 })).k.endAt == 1 && post.k.host.cqSize != 0 && (post.k.host.cqTail + 1) % 16 != post.k.host.cqHead) = true := by
  decide +kernel

theorem witness_Host : let rest := booted State.reset
    let ring := wHost w0 (fun h => { h with sqSize := 16, cqSize := 16, cqTail := 2 })
    let line (n : Nat) : Line := BitVec.ofNat 512 n
    let box (r : MboxReq) : State := { rest with hw := [(0, { Pkg.init with state := 2, mboxReq := some r })] }
    let make : MboxReq := .create 0 0 3 true [0] 65536 1024
    (decide (ring.k.host.sqSize ≤ 16) && ringDist 16 ring.k.host.sqHead 15 == 15 && decide (ringDist 16 0 2 ≤ ringDist 16 0 2) && decide (ringDist 16 0 2 < ringDist 16 0 3) &&
    rest.k.launch.isNone && rest.k.host.cmds.isEmpty && rest.k.host.cqHead == rest.k.host.cqTail && ringSize 16 && ringSize 65536 && w0.k.launch.isSome &&
    (wHost rest (fun h => { h with imgBusy := some 0 })).k.host.imgBusy.isSome && !imgBad 0 && imgBad (line 2) && rest.k.images.isEmpty &&
    ((rest.onK (fun k => { k with images := [⟨1, img1⟩] })).k.images.find? (fun x => x.img == img1)).isSome && thas rest.hw 0 && (rest.pkg 0).mboxReq.isNone &&
    (box make).k.pkgs.isEmpty && (box make).mayCreate 0 0 3 [0] &&
    ((box make).reserveAll ((kBytes (2 ^ 3) 65536 1024 + 2 ^ 30 - 1) / 2 ^ 30) ([0].flatMap (fun p => (List.range (2 ^ 3)).map (fun d => (p, 0 + d))))).isSome &&
    !fnmodeBad 1 && (wHw w0 (fun p => { p with mboxReq := some (.fnmode 0 1) })).k.pkgs.contains 0 && rest.hostUp && decide (2 < 3) &&
    !(wHw w0 (fun p => { p with state := 3 })).hostUp && decide ((rest.pkg 0).step < 7) && w0.k.pkgs.contains 0 && (wHw w0 (fun p => { p with mboxReq := some (.remove 0) })).k.num == 0 &&
    (State.reset.pkg 0).state == 0 && (State.reset.pkg 0).step == 0) = true := by decide +kernel

theorem witness_Registers : let s (r : Nat) (v : Word) : State := wFlit wSvc (.syswr r v)
    let att := w0.onK (fun k => { k with attBusy := some 5 })
    (([0x0A, 0x01, 0x05, 0x10, 0x11, 0x13, 0x400, 0x7FF, 0x124, 0x33, 0x12].all (fun r => ((s r 0).due? 5).isSome)) && ((s 0x124 1).due? 5).isSome && w0.k.attBusy.isNone && plainReg 0x12 &&
    w0.k.attNonce.length == 4 && [0x01, 0x12, 0x33].all (fun r => !(s r 0).tagSeen (flitOf 5 (.syswr r 0))) && w0.pkgOf w0.lcore == w0.pkgOf 0 && (0x5000 : Word) &&& 0xFFF == 0 &&
    ({ (s 0x12 0) with k := { (s 0x12 0).k with accepted := [(tagOf 1 0 0, 0)] } }.tagSeen (flitOf 5 (.syswr 0x12 0))) && !(0 : Word).ult w0.k.flogCons && !w0.k.flogHead.ult 0 && w0.k.flogHead.ult 1 && w0.liveGroup 1 && att.k.attBusy == some 5 && 5 / 2 ^ 2304 == 0) = true := by
  decide +kernel

/-! Clauses about what is still on its way: words of a TDRAIN, commands that wait, stores of an outbox, resends. -/

/-- A core whose full bits are all set, and a TDRAIN of lane l whose word at an offset is to come. -/
def wDrain (s : State) (l off : Nat) : State := s.onK (fun k => { k with
  cores := [(0, { CoreSt.init with full := 2 ^ (z0 / 4) - 1 })]
  combs := [(0, { CombSt.init with queue := [⟨false, some l, 1, 0, 0, none, some (.drain 0 0 off false false none [0]), 0, none⟩] })] })

theorem witness_Draining : let s (x y : Nat) : State := sr w0 [(6, x), (7, y)]
    let row (s : State) (r : Nat) : Nat := (s.rS 6 + BitVec.ofNat 64 r * s.rS 7).toNat
    let word (s : State) (k : Nat) : Nat := (s.rS 6 + BitVec.ofNat 64 (4 * s.runAt 32 1 k)).toNat
    let q := z0 - 8
    let v := z0 - 512
    let rows := wDrain (s v 64) 0 (v + 128)
    let words := wDrain (s v 0) 0 v
    let bits := wDrain (s 8 (8 + 65536)) 0 0
    let waits (x val : Nat) (hit : Bool) : State := (s x 0).onK (fun k => { k with cores := [(0, { CoreSt.init with badW := [0], waits := [⟨0, x, val, if hit then some [] else none⟩] })] })
    -- a word of the own lane stalls, one of another does not
    ((wDrain (s q 0) 0 q).drainWaits q 8 && !(wDrain (s q 0) 1 q).drainWaits q 8 && meets q 8 q 4 && (wDrain (s v 0) 0 v).drainWaits v 512 &&
    [Instr.lds .i64 5 ⟨6, false⟩ 0, .sts .w64 ⟨5, false⟩ 6 0, .ldf 5 ⟨6, false⟩ 0, .waita 5 ⟨6, false⟩ 0].all (passes (wDrain (s q 0) 0 q)) &&
    [Instr.vlds 5 ⟨6, false⟩ 0, .vsts ⟨5, false⟩ 6 0, .vldf 5 ⟨6, false⟩ 0].all (passes (wDrain (s v 0) 0 v)) &&
    ((wDrain (s q 0) 0 q).core 0).full.testBit (q / 4) && (List.range 8).all (fun r => row rows r + 64 ≤ z0 && row rows r % 4 == 0) &&
    rows.drainWaits (row rows 2) 64 && [Instr.vldss 5 ⟨6, false⟩ ⟨7, false⟩, .vstss 5 ⟨6, false⟩ ⟨7, false⟩].all (passes rows) &&
    (List.range 128).all (fun k => word words k == v) && words.drainWaits v 4 &&
    [Instr.vgats 5 ⟨6, false⟩ ⟨1, false⟩, .vscts 5 ⟨6, false⟩ ⟨1, false⟩].all (passes words) && !fieldBad (bits.rS 7) && bits.drainWaits (8 / 8) 1 &&
    !bits.cutsBad 8 8 && [Instr.vldb 5 ⟨6, false⟩ ⟨7, false⟩, .vstb 5 ⟨6, false⟩ ⟨7, false⟩].all (passes bits) &&
    -- WAITA whose value a write has brought, over poison, and one that no write has
    ((waits 0 7 true).core 0).waits == [⟨0, 0, 7, some []⟩] && ((waits 0 7 false).core 0).waits == [⟨0, 0, 7, none⟩] && (waits 0 7 false).scratchBad 0 0 4 &&
    !(waits 8 7 false).scratchBad 0 8 4 && !(waits 8 7 false).drainWaits 8 4 && ofBytes ((waits 8 7 false).mem.readN (scratchAddr w0.kid 0 8) 4) == 0 &&
    [waits 0 7 true, waits 0 7 false, waits 8 7 false].all (fun s => passes (sr s [(5, 7)]) (.waita 5 ⟨6, false⟩ 0)) &&
    passes (waits 8 7 false) (.waita 4 ⟨6, false⟩ 0)) = true := by decide +kernel

/-- A comb with a lease of core 0, a state of buffer 0 and a queue; lane 0 has had its command accepted when acc is true. -/
def wQueue (st : BufState) (l : List ArrCmd) (acc : Bool) (s : State) : State :=
  (wComb (fun c => { c with lease := some ⟨0, 64, none, []⟩, buf0 := ⟨st, List.replicate 8192 0⟩, queue := l }) s).onLn (fun x => { x with acc := acc })
def jobOf (j : Job) (b : Option Bool) : ArrCmd := ⟨false, some 0, 1, 0, 0, b, some j, 0, none⟩
def loadOf (b : Bool) (va : Option Nat) : ArrCmd := ⟨true, some 0, 1, 0, 0, some b, none, 0, va⟩

theorem witness_LeasesThatWait : let e := wObj .excl .w8 true 0xFF
    let f := wObj .fill .w64 true 0xFF
    let w : Instr := .tfmt 0 1 0
    let ld : Instr := .tldw 0 g2 true
    let q (l : List ArrCmd) (acc : Bool) : State := wQueue .loaded l acc e
    let full := q [cmdOf 1 0, loadOf false none, loadOf false (some 0), loadOf false (some 0), loadOf false (some 0), loadOf false (some 0)] false
    let raw := wLease f
    let busy := raw.onK (fun k => { k with flits := [flitOf 5 (.join .fill .w64 (at2 f) (List.replicate 64 0))], nextFlit := 6 })
    let reads (s : State) : Bool := s.leaseHeld && isOk (s.access (s.rC 2) (s.ea g2) 8192 rR true (s.tileTy 2)) && passes s ld
    let some' : ArrCmd := jobOf (.fmt 0 .i8) none
    -- TFMT behind a command, and at a full queue
    ((q [some'] false).leaseHeld && !(q [some'] false).ownComb.queueFull && passes (q [some'] false) w && full.leaseHeld && full.ownComb.queueFull && passes full w &&
    -- TLDW behind a load of its buffer, with none, at a full queue, and of lines that are not capped
    reads (q [loadOf true none] false) && (q [loadOf true none] false).ownComb.queue.any (fun y => y.buf == some true) && !(q [loadOf true none] false).ownComb.queueFull &&
    reads (q [loadOf false none] false) && !(q [loadOf false none] false).ownComb.queue.any (fun y => y.buf == some true) && reads full &&
    reads raw && !raw.rangeCapped (raw.ea g2) 8192 && !raw.undone raw.ln.task raw.k.nextFlit (fun h => effMeets h.e.eff (raw.ea g2) 8192) &&
    reads busy && !busy.rangeCapped (busy.ea g2) 8192 && busy.undone busy.ln.task busy.k.nextFlit (fun h => effMeets h.e.eff (busy.ea g2) 8192)) = true := by decide +kernel

/-- Row 0 of the accumulators at the largest value. -/
def wBig (s : State) : State := s.onK (fun k => { k with cores := k.cores.map (fun e => (e.1, { e.2 with acc := [(0, ⟨List.replicate 128 (BitVec.ofNat 64 (2 ^ 63 - 1)), none⟩),
  (1, ⟨List.replicate 128 5, some 3⟩)] })) })

theorem witness_ArrayStops : let s (row m off : Nat) : State := wArr [(5, row), (6, off), (7, m), (8, 1026)]
    let mma : Instr := .tmma 0 5 ⟨6, false⟩ ⟨7, false⟩ 0 false
    let drain (vs : Bool) : Instr := .tdrain 0 false false 5 ⟨6, false⟩ ⟨7, false⟩ 0 vs false
    let unset := (s 0 1 0).onK (fun k => { k with cores := [] })
    let held (s : State) : Bool := s.leaseHeld && !s.ln.acc
    let b (st : BufState) (l : List ArrCmd) (acc : Bool) : State := wQueue st l acc (s 0 1 0)
    let jm : Job := .mma 0 0 1 0 .i8
    let gone := 0x2000000000
    let bad (w r : List Nat) : State := (s 0 1 0).onK (fun k => { k with cores := k.cores.map (fun e => (e.1, { e.2 with badW := w, badR := r })) })
    -- rows and places out of range, misaligned ones, the vector of a TDRAIN, no format
    (held (s 0 1 z0) && passes (s 0 1 z0) mma && passes (s 0 1 z0) (drain false) && passes (s 0 1 2) mma && passes (s 0 1 2) (drain false) && decide (2 + 512 ≤ z0) &&
    passes (s 0 1 0) (drain true) && (s 0 1 0).rN 8 == 1026 && decide (1026 + 512 ≤ z0) && passes (sr (s 0 1 0) [(8, z0)]) (drain true) &&
    held unset && unset.fmtSoon == .unset && passes unset mma &&
    -- a tile that is invalid, loads, is bad or has faulted; the lane's own command; a load that waits before it; a full queue
    [BufState.invalid, .loading 64, .bad tTRITBYTE 64, .faulted gone].all (fun st => ((b st [] false).ownComb.bufOf false).st == st && passes (b st [] false) mma &&
      passes (b st [] false) (drain false) && passes (b st [jobOf jm (some false)] true) mma) && ((b .invalid [] false).unmapped? gone).isNone &&
    (b .invalid [jobOf jm (some false)] true).ownJob == some ([], jobOf jm (some false)) && (b .loaded [cmdOf 1 0] true).ownJob == some ([], cmdOf 1 0) &&
    passes (b .loaded [cmdOf 1 0] true) mma && passes (b .loaded [cmdOf 1 0] true) (drain false) && (b .loaded [] true).ownJob.isNone && passes (b .loaded [] true) mma &&
    (b .loaded [loadOf false (some 0), jobOf jm (some false)] true).ownJob == some ([loadOf false (some 0)], jobOf jm (some false)) &&
    loadAhead [loadOf false (some 0)] false && !loadAhead [] false && passes (b .loaded [jobOf jm (some false)] true) mma && passes (b .loaded [jobOf jm (some false)] true) (drain false) &&
    loadAhead (b .loaded [loadOf false (some 0)] false).ownComb.queue false && passes (b .loaded [loadOf false (some 0)] false) mma &&
    passes (b .loaded [jobOf (.zero 0 0 1) none] false) mma && (b .loaded (List.replicate 5 (jobOf (.zero 0 0 1) none)) false).ownComb.queueFull &&
    -- poison, a recorded weight, an element with no units, and a sum that is clamped
    (bad [0] []).jobPoison jm [] == some 0 && (bad [] [0]).jobPoison jm [] == some 0 && passes (bad [0] []) mma && ((wBig (s 1 1 0)).accOf 0 1).weight == some 3 &&
    passes (wBig (s 1 1 0)) mma && lsbOf .i8 != 3 &&
    (rowUnits (.narrow 0xC8) ((s 0 1 0).scratch 0 0 256)).isSome) = true := by decide +kernel

/-- A sum of a full row and 32 products of 1 lies above 2^63 - 1; an infinity has no units; both formats are set. -/
theorem witness_ArrayClamps : let s := wArr [(5, 0), (6, 0), (7, 1)]
    let t := wBig ((wComb (fun c => { c with lease := some ⟨0, 64, none, []⟩, buf0 := ⟨.loaded, List.replicate 8192 121⟩ }) s).writeScratch 0 (List.replicate 32 1))
    let inf := (s.writeScratch 0 (List.replicate 256 0x7C)).onK (fun k => { k with cores := k.cores.map (fun e => (e.1, { e.2 with fmt := .narrow 0x100B8 })) })
    let u := (rowUnits .i8 (t.scratch 0 0 256)).getD []
    (t.fmtSoon == .i8 && (t.ownComb.bufOf false).st == .loaded && (t.jobPoison (.mma 0 0 1 0 .i8) []).isNone && passes t (.tmma 0 5 ⟨6, false⟩ ⟨7, false⟩ 0 false) &&
    (rowUnits .i8 (t.scratch 0 0 256)).isSome && (List.zipWith (fun (x : BitVec 64) col => x.toInt + dotI col u) (t.accOf 0 0).vals (tileCols (t.ownComb.bufOf false).data)).any
      (fun z => decide (2 ^ 63 ≤ z)) && inf.fmtSoon == .narrow 0x100B8 && nfValid 0x100B8 && (rowUnits (.narrow 0x100B8) (inf.scratch 0 0 256)).isNone) = true := by decide +kernel

theorem witness_EventClauses : let rec2 (f : Rec → Rec) : State := wRecs w0 [(1, placeRec), (2, f { placeRec with st := .ready })]
    let wide := (rec2 id).onK (fun k => { k with launch := k.launch.map (fun l => { l with valloc := 8 }) })
    let drain := wLane wSave (fun l => { l with st := .drain, reads := [0], seqn := 0, box := [⟨.join .maxn .w64 0 [], .relaxed, 0, 0, 0, []⟩] })
    let save := wLane wSave (fun l => { l with st := .save, reads := [3], seqn := 3 })
    let woken (run : Nat) (st : RecState) : State := (rec2 (fun r => { r with st := st })).onK (fun k => { k with wakes := [⟨2, run, [], .none, false, 0, 0, 0, none⟩] })
    let core (f : CoreSt → CoreSt) (s : State) : State := s.onK (fun k => { k with cores := [(0, f CoreSt.init)] })
    let urg := core (fun c => { c with pre := true, urgent := true, urgAsked := true }) (w0.onLn (fun l => { l with st := .idle }))
    let m : Msg := ⟨0, 0, 4, [1, 2, 3, 4], none, []⟩
    let full := (core (fun c => { c with pend := [(4, List.replicate 16 m)] }) (wFlit w0 (.msg m))).onK (fun k => { k with spillMax := 0 })
    let x := wObj .maxn .w64 true 0xFF
    let w : Watch := ⟨false, .maxn, .w64, at2 x, [1], 5, 0, none, 7⟩
    -- an allocation above the launch's; a lane that has read; wakes of this run, of another, and of a record that has ended
    ((wide.offer 1).map (fun y => y.1) == some 2 && wide.laneFree 1 && decide (wide.valloc < (wide.record 2).f.alloc) && decide (2 < wide.k.nextTask) &&
    (wide.k.flogHead - wide.k.flogCons).toNat != 4096 && drain.laneOn 0 && (drain.lane 0).reads.contains 0 && goesHome (.join .maxn .w64 0 []) &&
    !drain.drainHeld 0 ⟨.join .maxn .w64 0 [], .relaxed, 0, 0, 0, []⟩ && (save.lane 0).reads.contains (save.lane 0).seqn && (tget? save.k.recs 1).isSome &&
    ((woken 0 (.parked .watch)).record 2).run == 0 && ((woken 9 (.parked .watch)).record 2).run != 9 && ((woken 9 .ended).record 2).st == .ended &&
    -- CORE_RESUME with a message asked for; a spill region that is full; a watch of another run, new and again
    (urg.core 0).pre && (urg.core 0).urgAsked && (urg.coreLanes 0).all (fun l => (urg.lane l).st == .idle) && full.spillFull m && full.combRuns 0 &&
    !full.tagSeen (flitOf 5 (.msg m)) && (full.due? 5).isSome &&
    ((wFlit x (.watch w)).due? 5).isSome && ((wFlit x (.watch w)).record 1).run != 7 &&
    (wTime (x.onK (fun k => { k with refused := [(256, ⟨1, w⟩)] })) 256).k.refused.length == 1) = true := by decide +kernel

/-- A block of device registers that the launch names as its n-th, with a capability in c2. -/
def wDevice (n : Nat) : State := match w0.declare none (.package 0) .mmio .w8 16 0 with
  | some (o, s) => ((s.mapDevice (s.baseOf o) 16).wC 2 (mkCap (s.baseOf o) o 0xFF 0 0)).onK (fun k => { k with
      launch := k.launch.map (fun l => { l with blocks := List.replicate n 99 ++ [o] }) })
  | none => w0

theorem witness_HomesAndReads : let d := wDevice 2
    let st := wFlit d (.store (at2 d) (toBytes 799 8) false)
    let x := wObj .count .w64 true 0xFF
    let j := Eff.join .count .w64 (at2 x) (List.replicate 8 1)
    let seen := (wFlit x j).onK (fun k => { k with seen := [(countKey (flitOf 5 j) (at2 x), 0)] })
    let old := wTime (w0.onK (fun k => { k with bound := [(7, 4, 0)] })) 40001
    let e := wObj .excl .w8 true 0xFF
    let asks (s : State) (k : ReadKind) (n : Nat) (box : List Eff) : State := s.onLn (fun l => { l with
      rd := some ⟨k, at2 s, n, 5, 0, some .sys, 0, 0, none⟩, box := box.map (fun y => ⟨y, .relaxed, 0, 0, 0, []⟩) })
    let ready (s : State) (n : Nat) : Bool := s.laneOn 0 && !s.readHeld 1 (at2 s) n && !s.muted 0 1 && (objAt s.k.objs (at2 s)).isSome &&
      (s.firstUnmapped (at2 s) n).isNone && !s.kernelAt (at2 s) n && !s.poisonedAt (at2 s) n
    let f := asks e (.ldx .w64) 8 [.store (at2 e + 2) [9, 9] false, .store (at2 e + 3) [7] false]
    let c := asks e .ldc 16 [.storeCap (at2 e) 5 true]
    let lost := asks e .ldc 16 [.storeCap (at2 e) 5 true, .store (at2 e + 15) [3] false]
    -- a store to a device register; a count that was taken; a binding that expires
    ((st.arriving? 5).isSome && (st.meet (at2 d) 8 matches .apply) && (st.mmioAt (at2 d)) == some (2 * 2 ^ 16) && thas st.hw (lget st.pkgmap 0 0) &&
    seen.pairSeen (countKey (flitOf 5 j) (at2 x)) && (seen.arriving? 5).isSome && (old.k.bound[0]?).isSome && !old.heldAct (7 / 2 ^ 20) && decide (40000 < old.time) &&
    -- reads of what the outbox stores, in part, as a capability, and with its tag lost; a read of a device register
    ready f 8 && (f.mmioAt (at2 e)).isNone && (lget f.ln.box 0 ⟨.hdrop 0 0, .relaxed, 0, 0, 0, []⟩).eff == .store (at2 e + 2) [9, 9] false && ready c 16 &&
    overTag (at2 e) false c.ln.box && ready lost 16 && !overTag (at2 e) false lost.ln.box && ready (asks d (.ldx .w64) 8 []) 8 && (d.mmioAt (at2 d)).isSome) = true := by
  decide +kernel

/-- Two packages joined by port 0 of each, and a launch on both. -/
def wTwo : State :=
  let up : Port := ⟨3, 0xFF, 1, 0, 7, [], false, 0, 0xFF, 0xFF⟩
  { w0.onK (fun k => { k with launch := k.launch.map (fun l => { l with npkg := 2, pkgmap := [0, 1] }) }) with
    hw := [(0, { Pkg.init with state := 2, ports := [(0, up)] }), (1, { Pkg.init with state := 2, ports := [(0, { up with peer := 0 })] })] }

theorem witness_Resends : let far := match wTwo.newObj none (.package 1) ⟨0, 16, .maxn, .w64, 0, 1, 0, 0, 0, false, false, false, false, none⟩ with
      | some (o, s) => (s.baseOf o, s)
      | none => (0, w0)
    let f := flitOf 5 (.join .maxn .w64 far.1 (List.replicate 8 1))
    let t := wTime wTwo 16000
    let wk := t.onK (fun k => { k with wakes := [⟨1, 0, [], .none, false, 1, 0, 1, none⟩] })
    let rd := t.onLn (fun l => { l with rd := some ⟨.ldx .w64, far.1, 8, 5, 0, none, 0, 1, none⟩ })
    -- a flit for the other package leaves by port 0; effects without acknowledgements, wakes and reads are due after 16 us the second time
    ((far.2.target f).map (fun e => e.pkg) == some 1 && (far.2.combEnd 0).pkg == 0 && (far.2.pkg 0).portTowards 1 == some 0 && !acked (.twperm 0 0 1) &&
    decide (0 + 8000 * (1 + 1) ≤ t.time) && t.path 0 1 && wk.k.wakes.length == 1 && wk.path 1 (lget wk.pkgmap (wk.record 1).pkg 0) && rd.laneOn 0 && (rd.lane 0).rd.isSome &&
    rd.path (rd.pkgOf 0) (((rd.homeEnd far.1).map (fun y => y.pkg)).getD (rd.pkgOf 0))) = true := by decide +kernel

theorem witness_SharedCombs : let two (x y : Bool) : State := (wTime (wHw w0 (fun p => { p with remap := [(512 * w0.k.num + 1, 0)] })) 2048).onK (fun k => { k with
      combs := [(0, { CombSt.init with since := if x then some 0 else none }), (1, { CombSt.init with since := if y then some 0 else none })] })
    let cmds (l : List ArrCmd) : State := (wComb (fun c => { c with lease := some ⟨0, 5, some 1, [1]⟩, queue := l }) w0)
    let q := cmds [cmdOf 1 0, loadOf false (some 64)]
    ((two true false).sharedComb 0 && (two true false).served 0 0 == [0, 1] && ((two true false).comb 0).since.isSome && nextIn [0, 1] 0 == 1 && nextIn [0, 1] 1 == 0 &&
    decide (2048 ≤ (two true false).slotUsed ((two true false).comb 0)) && !w0.sharedComb 0 && decide (0 < 512 * (two true false).npkg) &&
    -- the end of a command starts the load behind it
    (q.comb 0).nextMove == some 0 && q.combRuns 0 && ((q.comb 0).queue[1]?) == some (loadOf false (some 64))) = true := by decide +kernel

theorem witness_FencedRuns : let hv (l : List Flit) : State := wTime ((wRecs w0 [(2, { placeRec with st := .ready, notBefore := 9 })]).onK (fun k => { k with flits := l })) 20
    let g (done lost : Bool) : Flit := { flitOf 5 (.hdrop 0 0) with task := 2, done := done, lost := lost }
    let mine (s : State) (x : Flit) : Bool := x.task == 2 && x.actn == (s.record 2).f.actn && !x.e.eff.engine
    let wrote := ((wWag (fun w => { w with st := .fenced }) id 0).onK (fun k => { k with holds := [(1, 0)], cores := [(0, { CoreSt.init with dirty := [3] })] })).onLn
      (fun l => { l with wrote := [1, 2] })
    ((hv [g false false]).k.flits.any (fun x => mine (hv [g false false]) x && x.pending) && !(hv [g false true]).k.flits.any (fun x => mine (hv [g false true]) x && x.pending) &&
    (hv []).record 2 == { placeRec with st := .ready, notBefore := 9 } && decide (9 ≤ (hv []).time) &&
    (wrote.ranOn c0).all (fun e => tget? wrote.k.holds e.1 == some e.2.f.actn) && !(wrote.ranOn c0).isEmpty && (wrote.lane 0).wrote.contains 2 && (wrote.core 0).dirty == [3]) = true := by decide +kernel

theorem witness_FailedPackage : let bad (f : Pkg → Pkg) : State := wHw w0 (fun p => f { p with state := 3 })
    let box (r : MboxReq) : State := bad (fun p => { p with mboxReq := some r })
    (!(bad id).hostUp && (bad id).k.pkgs.contains 0 && ((bad id).pkg 0).state == 3 && ((bad id).pkg 0).mboxReq.isNone && ((box (.fnmode 0 1)).pkg 0).state == 3 &&
    ((box (.remove 0)).pkg 0).mboxReq.isSome && w0.hostUp && (MboxReq.remove 0) != .other) = true := by decide +kernel

/-! Clauses about kernel frames, pages that are served for the device, cancels on their way, what reads come after, and hosts. -/

theorem witness_SaveAreas : let save (s : State) : State := wLane s (fun l => { l with st := .drain, liveV := 0xFF })
    let va (s : State) : Nat := ((s.focusLane 0).areaVa (s.record 1).f 1).getD 0
    let at' (s : State) : SlotMeet := (s.focusLane 0).slotMeet (va s) (saveSlots (s.lane 0))
    let ok (s : State) : Bool := s.laneOn 0 && (s.lane 0).st == .drain && (s.lane 0).box.isEmpty && (s.lane 0).fin.isNone && (s.lane 0).task == 1 &&
      (s.record 1).st == .active 0 && ((s.focusLane 0).areaVa (s.record 1).f 1).isSome
    let failed (s : State) (pg : Option Nat) : Bool := match at' s with
      | .missing m => s.failedFor pg m
      | _ => false
    let woken (s : State) (pg : Option Nat) : State := (wRecs s [(2, { (s.record 1) with st := .parked .watch })]).onK (fun k => { k with
      wakes := [⟨2, 0, [], .scalar 5 7, false, 0, 0, 0, pg⟩] })
    let area (s : State) : Nat := (s.areaVa (s.record 2).f (s.record 2).f.actn).getD 0
    let slot (s : State) : SlotMeet := s.slotMeet (area s) [(40, 8)]
    -- a commit's save and a wake's result: a kernel frame, a page that is missing, and one that could not be served
    (ok (save wSave) && at' (save wSave) == .ok && ok (save wKernel) && at' (save wKernel) == .kernel && ok (save wUnmapped) && (at' (save wUnmapped) matches .missing _) &&
    !failed (save wUnmapped) none && ok (save wUnserved) && failed (save wUnserved) (some 0) && !failed (save wUnserved) none &&
    ((woken wSave none).areaVa ((woken wSave none).record 2).f 0).isSome && slot (woken wSave none) == .ok && slot (woken wKernel none) == .kernel &&
    (slot (woken wUnmapped none) matches .missing _) && ((woken wUnmapped none).record 2).run == 0) = true := by decide +kernel

theorem witness_Cancels : let drain (g : Nat) : State := wLane wSave (fun l => { l with st := .drain, box := [⟨.cancel g, .relaxed, 0, 0, 0, []⟩, ⟨.hdrop 0 4, .relaxed, 0, 1, 0, []⟩] })
    let due (s : State) : State := wFlit s (.cancel 1)
    let ended := due (w0.onK (fun k => { k with groups := [(1, { Group.init with status := 1 })] }))
    let o : Obj := ⟨0x10000000000, 1, .excl, .w8, 0, 2, 0, 0, 0, false, false, false, false, none⟩
    let two := w0.onK (fun k => { k with groups := [(1, Group.init), (2, { Group.init with parent := some 1, status := 2 })], objs := [(5, { o with kept := true }), (6, o), (7, { o with handed := true })] })
    ((drain 1).laneOn 0 && (drain 1).within 1 ((drain 1).record 1).f.gid && !(drain 7).within 7 ((drain 7).record 1).f.gid && goesHome (.cancel 1) &&
    !(drain 1).drainHeld 0 ⟨.cancel 1, .relaxed, 0, 0, 0, []⟩ && !(drain 7).drainHeld 0 ⟨.cancel 7, .relaxed, 0, 0, 0, []⟩ && ((due w0).cancelDue? 1).isSome && (due w0).liveGroup 1 &&
    (ended.cancelDue? 1).isSome && !ended.liveGroup 1 && !w0.chansEnd &&
    -- an object that has been handed up, one that is not, and one to be handed up
    (two.group 2).status == 2 && (two.subtree 2).contains 2 && two.above 3 2 == some 1 && ((tget? two.k.objs 5).map (fun y => y.kept)) == some true &&
    ((tget? two.k.objs 6).map (fun y => y.kept || y.handed)) == some false && decide ((two.k.objs.map (fun e => e.1)).Nodup)) = true := by decide +kernel

theorem witness_KnownReads : let x := wObj .maxn .w64 true 0xFF
    let line := at2 x / 64
    let r : Rel := ⟨at2 x, 8, false, .sys, some 8, 0, [(line, 1)]⟩
    let asks := (x.onK (fun k => { k with rels := [r] })).onLn (fun l => { l with rd := some ⟨.ldx .w64, at2 x, 8, 5, 0, some .sys, 0, 0, none⟩ })
    let reg (o : Nat) (n : Nat) : State := let d := wDevice n
      { d with hw := [(0, { d.pkg 0 with ports := [(0, Port.init)] })] }.onLn (fun l => { l with rd := some ⟨.ldx .w64, at2 d + o, 8, 5, 0, none, 0, 0, none⟩ })
    let capped := (wFlit x (.cap .maxn .sys (at2 x) 8192)).onK (fun k => { k with sideLog := [⟨0, flitOf 5 (.cap .maxn .sys (at2 x) 4096)⟩] })
    let wd := (wFlit w0 (.words 1 [(0, [1, 2, 3, 4])] false)).onK (fun k => { k with accepted := [(tagOf 1 0 0, 0)] })
    -- a release before a read that acquires; a register of the device; a cap behind a logged block; window words taken before
    (reaches r.sc r.lcore .sys 0 && decide (r.ver ≤ asks.changes line) && !asks.device (at2 x) && (asks.lane 0).box.isEmpty && (asks.homeEnd (at2 x)).isSome &&
    (reg 0 2).mmioAt (at2 (wDevice 2)) == some (2 * 2 ^ 16) &&
    capped.capLogged 5 && (capped.arriving? 5).isSome && wd.tagSeen (flitOf 5 (.words 1 [] false)) && (wd.arriving? 5).isSome) = true := by decide +kernel

theorem witness_Wire : let m : Msg := ⟨0, 0, 4, [0, 0, 0, 0], none, []⟩
    let full := ((wFlit w0 (.msg m)).onK (fun k => { k with spillMax := 0, cores := [(0, { CoreSt.init with pend := [(4, List.replicate 16 m)] })] }))
    let fen := wWag (fun w => { w with st := .fenced }) id 8000
    let late := wTime (wFlit w0 (.hdrop 0 0)) 20000
    let killed := w0.onK (fun k => { k with launch := none, killing := some (some 5) })
    let r (p : Pkg → Pkg) : Pkg := (wHw w0 p).pkg 0
    (full.spillFull m && acked (.msg m) && (fen.wag c0).telling && thas fen.hw 0 && decide ((fen.wag c0).since + 8000 * ((fen.wag c0).resends + 1) ≤ fen.time) && late.time == 20000 &&
    -- a kill under way; a clock that has lost its grandmaster; the host's view
    killed.k.killing.isSome && w0.k.killing.isNone && ((killed.k.hostReg 0x60).toNat % 256) == 3 && ((w0.k.hostReg 0x60).toNat % 256) == 2 && (r (fun p => { p with holdover := true, goodSync := 31 })).holdover &&
    (r (fun p => { p with locked := true, relock := true })).relock && (12 : BitVec 8) != (r id).domain && (w0.ctxOn 0 7).isNone && w0.k.num == 0 && (w0.ctxOn 0 0).isSome &&
    barWrite none 0x170010 5 == some (.sqtail 7 5)) = true := by decide +kernel

/-- Every register of block 2, the power cap's among them, has an address, and the enables of a port one of block 1. -/
theorem witness_DeviceRegisters (off : BitVec 16) (p : Port) :
    (wDevice 2).mmioAt (at2 (wDevice 2) + off.toNat) = some (2 * 2 ^ 16 + off.toNat) ∧
    (wDevice 1).mmioAt (at2 (wDevice 1) + off.toNat) = some (1 * 2 ^ 16 + off.toNat) ∧
    { Pkg.init with ports := [(0, p)] }.enablesAt (Config.linkLanes 0).toNat = some p.enables.toNat := by
  have ho : ∀ n ∈ [1, 2], ∃ x y : Obj, (wDevice n).k.objs = [(1, x), (2, y)] ∧ x.base = 33554432 ∧ x.len = 16 ∧ y.base = 67108864 ∧ y.len = 16 ∧
      y.ty = .mmio ∧ at2 (wDevice n) = 67108864 ∧ (wDevice n).k.launch.map (fun l => l.blocks) = some (List.replicate n 99 ++ [2]) := by
    intro n hn
    refine ⟨(tget? (wDevice n).k.objs 1).getD (objOf w0), (tget? (wDevice n).k.objs 2).getD (objOf w0), ?_⟩
    revert n; decide +kernel
  have hm : ∀ n ∈ [1, 2], (wDevice n).mmioAt (at2 (wDevice n) + off.toNat) = some (n * 2 ^ 16 + off.toNat) := by
    intro n hn
    obtain ⟨x, y, h1, h2, h3, h4, h5, h6, h7, h8⟩ := ho n hn
    have hlt := off.isLt
    have ha : objAt (wDevice n).k.objs (67108864 + off.toNat) = some (2, y) := by
      rw [h1]; simp only [objAt, h2, h3, h4, h5]
      rw [if_neg (by omega), if_pos (by omega)]
    unfold State.mmioAt
    rw [h7, ha, h8]
    have hs : 67108864 + off.toNat - 67108864 = off.toNat := by omega
    simp only [h6, h4, if_true, Option.getD_some, hs, Nat.mod_eq_of_lt hlt]
    simp only [List.mem_cons, List.not_mem_nil, or_false] at hn
    rcases hn with rfl | rfl <;> rfl
  exact ⟨hm 2 (by decide), hm 1 (by decide), by simp [Pkg.enablesAt]⟩

/-- Comb 1 whose only neighbour that is left is comb 0, which is tested or heard. -/
theorem witness_LastNeighbour : let s (st : WagState) : State := wHw w0 (fun p => { p with wag := (0, { Wag.init with st := st }) :: (List.range' 2 510).map (fun n => (n, { Wag.init with st := .fenced })) })
    [WagState.selftest, .appeal].all (fun st => (neighbours 0).contains 1 && (((s st).pkg 0).wagOf 1).beats && ((s st).pkg 0).liveNb 1 == [0] && ((s st).wag c0).st == st) = true := by
  decide +kernel

/-- A channel that holds its record and waits for a permit, permits that are there, and one that nothing mutes. -/
theorem witness_Permits : let pg := trOf 1 1 1 64 0
    let gate := wTwe pg (fun c => { c with st := .waiting, gate := true, line := BitVec.ofNat 512 pg })
    let has := wTwe pg (fun c => { c with perms := [(1, [(5, 2)]), (3, [])] })
    let f : Flit := flitOf 5 (.twperm 0 0 2)
    (((wFlit gate (.twperm 0 0 2)).due? 5).isSome && (gate.chan 0 0).gate && trPg (gate.chan 0 0).line && (gate.chan 0 0).permits == 0 && !gate.tagSeen f && !gate.engineMuted 0 0 &&
    (has.chan 0 0).permits == 4 && !has.ownerGone (has.chan 0 0) && trPg (BitVec.ofNat 512 (ofBytes (has.readV (has.chan 0 0).head 64))) && !has.mutedFlit f &&
    !((wTwe 0 (fun c => { c with st := .waiting })).chan 0 0).gate) = true := by decide +kernel

end Sys2Proof.Tests
end

namespace Sys2Proof.Machine

/-! Special registers (Table 1-5). -/

/-- MFS of a register that no array command holds back writes the register's value. -/
theorem givesS_mfs (s : State) (d : SReg) (n : Fin 64) (h : n.val ≠ 12 ∨ s.commandsOf s.cur = false) :
    s.GivesS (.mfs d n) d (s.special n.val) := by
  have hw : ¬ (n.val = 12 ∧ s.commandsOf s.cur = true) := by
    rintro ⟨h12, hc⟩
    rcases h with h | h
    · exact h h12
    · simp [hc] at h
  refine State.GivesS.of_wS (fun v => by simp) ?_
  change execMfs d n s = _
  simp only [execMfs, if_neg hw]

/-- The format registers are the special registers 16 to 23 (R33). -/
theorem State.special_fmt (s : State) (k : Fin 8) : s.special (16 + k.val) = s.ln.fmt[k].zeroExtend 64 := by
  have h : lget s.ln.fmt.toList k.val 0 = s.ln.fmt[k] := by simp [lget]
  rw [← h]
  match k with
  | 0 | 1 | 2 | 3 | 4 | 5 | 6 | 7 => rfl

/-- What a running launch fixes: SEED, VALLOC, PART and MODE (R32). -/
theorem State.special_of_launch {s : State} {x : Launch} (h : s.k.launch = some x) :
    (∀ k < 4, s.special (24 + k) = lget x.seed k 0) ∧ s.special 32 = BitVec.ofNat 64 x.valloc ∧
      s.special 33 = x.part.zeroExtend 64 ∧ s.special 34 = x.mode.zeroExtend 64 := by
  have hseed : s.seed = x.seed := by simp [State.seed, h]
  have hv : s.valloc = x.valloc := by simp [State.valloc, h]
  have hp : s.part = x.part := by simp [State.part, h]
  have hm : s.modeBits = x.mode := by simp [State.modeBits, h]
  refine ⟨fun k hk => ?_, by rw [← hv]; rfl, by rw [← hp]; rfl, by rw [← hm]; rfl⟩
  rw [← hseed]
  match k, hk with
  | 0, _ | 1, _ | 2, _ | 3, _ => rfl

theorem Lane.setSpecial_fpc (l : Lane) (n : Nat) (x : Word) :
    (l.setSpecial n x).fpc = if n = 11 then x &&& 0x1F03 else l.fpc := by
  unfold Lane.setSpecial
  split <;> simp_all [fpcMask]

theorem Lane.setSpecial_flags (l : Lane) (n : Nat) (x : Word) :
    (l.setSpecial n x).flags = if n = 12 then x &&& 0xFFFF0001 else l.flags := by
  unfold Lane.setSpecial
  split <;> simp_all [flagsMask]

theorem Lane.setSpecial_nf (l : Lane) (n : Nat) (x : Word) :
    (l.setSpecial n x).nf = if n = 13 then x &&& 7 else l.nf := by
  unfold Lane.setSpecial
  split <;> simp_all [nfMask]

/-- MTS leaves every register of the lane but these three. -/
theorem Lane.setSpecial_frame (l : Lane) (n : Nat) (x : Word) :
    let m := l.setSpecial n x
    m = { l with fpc := m.fpc, flags := m.flags, nf := m.nf } := by
  unfold Lane.setSpecial
  split <;> rfl

/-- The state after an MTS that its checks and the lane's array commands let go on. -/
def State.mtsDone (s : State) (n : Fin 64) (a : SSrc) : State :=
  ((s.killMarked (.mts n a)).onLn (fun l => l.setSpecial n.val (s.rS a.r))).retire (.mts n a) (s.after (.mts n a)) false
    (depends (.mts n a) s.ln)

theorem exec_mts {s : State} {n : Fin 64} {a : SSrc} (hp : s.Passes (.mts n a))
    (hw : ¬ (n.val = 12 ∧ s.commandsOf s.cur = true)) : exec (.mts n a) s = .next (s.mtsDone n a) := by
  change execMts n a s = _
  simp only [execMts, if_neg hw]
  exact issue_ok hp _

/-- The lane after it. -/
theorem State.mtsDone_ln (s : State) (n : Fin 64) (a : SSrc) :
    let l := (s.mtsDone n a).ln
    l.s = s.ln.s ∧ l.v = s.ln.v ∧ l.m = s.ln.m ∧ l.c = s.ln.c ∧ l.fmt = s.ln.fmt ∧ l.trapc = s.ln.trapc ∧
      l.pc = s.ln.pc + 4 ∧ l.fpc = (if n.val = 11 then s.rS a.r &&& 0x1F03 else s.ln.fpc) ∧
      l.nf = (if n.val = 13 then s.rS a.r &&& 7 else s.ln.nf) ∧
      (n.val = 12 → depends (.mts n a) s.ln = false → l.flags = s.rS a.r &&& 0xFFFF0001) := by
  have hf := Lane.setSpecial_frame (s.killMarked (.mts n a)).ln n.val (s.rS a.r)
  simp only [Lane.setSpecial_fpc, Lane.setSpecial_flags, Lane.setSpecial_nf] at hf
  simp only [State.mtsDone, State.retire_ln _ _ _ _ _ (fun v => by simp : ∀ v, Instr.mts n a ≠ .sig v), State.onLn_ln]
  rw [hf]
  refine ⟨?_, ?_, ?_, ?_, ?_, ?_, rfl, ?_, ?_, fun h12 hd => by simp [h12, hd]⟩
  all_goals split <;> simp

/-- Settles O14: MFS is one register write of State.special, and MTS goes through Lane.setSpecial. -/
theorem specialRegistersAreReadAndWritten : Obligations.SpecialRegistersAreReadAndWritten := by
  unfold Obligations.SpecialRegistersAreReadAndWritten
  refine ⟨fun s d => ⟨givesS_mfs s d, fun hc hp => ?_, rfl, rfl, rfl, rfl, rfl, rfl, rfl, rfl, rfl, rfl, rfl, rfl, rfl, rfl,
    s.special_fmt, rfl, rfl, rfl, rfl, fun x hx => State.special_of_launch hx⟩, fun s n a => ⟨fun hn hp => ?_, fun hn hb => ?_, fun hn hc hp => ?_⟩⟩
  · change execMfs d 12 s = _
    simp only [execMfs, hc]
    exact issue_stay hp id
  · have hw : ¬ (n.val = 12 ∧ s.commandsOf s.cur = true) := by
      rintro ⟨h12, hc⟩
      rcases hn with h | h | ⟨-, h⟩
      · omega
      · omega
      · simp [hc] at h
    obtain ⟨hs, hv, hm, hc, hfmt, htrapc, hpc, hfpc, hnf, hflags⟩ := s.mtsDone_ln n a
    refine ⟨_, exec_mts hp hw, rfl, fun m => rfl, hpc, fun r => ?_, fun r => ?_, fun r => ?_, fun r => ?_, hfmt, htrapc,
      hfpc, hnf, hflags⟩
    · simp only [State.rS, hs]
    · simp only [State.rV, hv]
    · simp only [State.rM, hm]
    · simp only [State.rC, hc]
  · have hpriv : s.preCheck (.mts n a) = some tPRIV := by
      have hblk : ¬ 256 ≤ s.ln.blk := by omega
      have hbad : privBad s.k.service (.mts n a) = true := by
        simp only [privBad, Bool.and_eq_true, bne_iff_ne]
        omega
      simp [State.preCheck, hblk, hbad, suspends, orderBad]
    change execMts n a s = _
    simp only [execMts, issue, hpriv]
  · change execMts n a s = _
    simp only [execMts, hn, hc]
    exact issue_stay hp id

end Sys2Proof.Machine

namespace Sys2Proof.Machine

/-! One comb of the context. -/

@[simp] theorem State.comb_onComb_same (s : State) (c : Nat) (f : CombSt → CombSt) : (s.onComb c f).comb c = f (s.comb c) := by
  simp [State.comb]

theorem State.comb_onComb_other (s : State) {c m : Nat} (f : CombSt → CombSt) (h : m ≠ c) :
    (s.onComb c f).comb m = s.comb m := by
  have h0 : (s.onComb c f).comb0 m = s.comb0 m := rfl
  simp [State.comb, h0, tget_tset_other _ _ _ _ _ h]

theorem State.combsBut_onComb (s : State) (c : Nat) (f : CombSt → CombSt) : s.CombsBut (s.onComb c f) c :=
  fun _ hm => s.comb_onComb_other f hm

theorem State.inCtx_onComb (s : State) (c : Nat) (f : CombSt → CombSt) : s.InCtx (s.onComb c f) := rfl

/-- An event whose condition holds comes about. -/
theorem State.comes_of_event {s t : State} {i : Instr} {b : Bool} {p : State → Prop} (he : exec i s = event s b t) (hb : b = true)
    (hp : p t) : s.Comes i p :=
  ⟨t, he.trans (by rw [event_next, if_pos hb]), hp⟩

/-- An event whose condition fails changes nothing. -/
theorem State.comes_of_no_event {s t : State} {i : Instr} {b : Bool} {p : State → Prop} (he : exec i s = event s b t) (hb : b = false)
    (hp : p s) : s.Comes i p :=
  ⟨s, he.trans (by rw [event_next, hb]; rfl), hp⟩

/-! What ports send (R341, R342). -/

theorem State.Wires.of_hw {s t : State} (h : t.hw = s.hw) : s.Wires t := by
  intro p
  have hp : t.pkg p = s.pkg p := by simp only [State.pkg, h]
  exact ⟨by rw [hp], fun j => ⟨(tget (s.pkg p).ports j Port.init).lseq, [], by rw [hp, List.append_nil]⟩⟩

theorem State.Wires.trans {s t u : State} (h1 : s.Wires t) (h2 : t.Wires u) : s.Wires u := by
  intro p
  obtain ⟨e1, q1⟩ := h1 p
  obtain ⟨e2, q2⟩ := h2 p
  refine ⟨e2.trans (by rw [e1]), fun j => ?_⟩
  obtain ⟨a, l, h1⟩ := q1 j
  obtain ⟨b, r, h2⟩ := q2 j
  exact ⟨b, l ++ r, by rw [h2, h1, List.append_assoc]⟩

theorem State.pkg_of_hw_tset {s t : State} {p : Nat} {x : Pkg} (h : t.hw = tset s.hw p x) (q : Nat) :
    t.pkg q = if q = p then x else s.pkg q := by
  simp only [State.pkg, h, tget, tget?_tset]
  split <;> rfl

/-- A port that sends a flit changes its sequence number and its replay buffer only. -/
theorem State.Wires.of_transmit {s t : State} {kind payload : Nat} {src dst : End} (h : t.hw = s.transmit kind payload src dst) :
    s.Wires t := by
  unfold State.transmit at h
  split at h
  · exact .of_hw h
  · split at h
    · exact .of_hw h
    · rename_i j _
      intro p
      rw [State.pkg_of_hw_tset h]
      by_cases hp : p = src.pkg
      · subst hp
        rw [if_pos rfl]
        refine ⟨rfl, fun i => ?_⟩
        simp only [tget, tget?_tset]
        by_cases hi : i = j
        · subst hi
          rw [if_pos rfl]
          exact ⟨_, _, rfl⟩
        · rw [if_neg hi]
          exact ⟨((tget? (s.pkg src.pkg).ports i).getD Port.init).lseq, [], by rw [List.append_nil]⟩
      · rw [if_neg hp]
        exact ⟨rfl, fun i => ⟨(tget (s.pkg p).ports i Port.init).lseq, [], by rw [List.append_nil]⟩⟩

theorem State.Wires.of_askHome {s t : State} {l va : Nat} (h : t.hw = s.askHome l va) : s.Wires t := by
  unfold State.askHome at h
  split at h
  · exact .of_transmit h
  · exact .of_hw h

theorem State.Wires.of_answerHome {s t : State} {l va : Nat} (h : t.hw = s.answerHome l va) : s.Wires t := by
  unfold State.answerHome at h
  split at h
  · exact .of_transmit h
  · exact .of_hw h

theorem State.wires_fetched (s : State) (l va : Nat) : s.Wires (s.fetched l va) :=
  have ask : s.Wires { s with hw := s.askHome l va } := .of_askHome rfl
  ask.trans (.of_answerHome (l := l) (va := va) rfl)

@[simp] theorem State.comb_fetched (s : State) (l va c : Nat) : (s.fetched l va).comb c = s.comb c := rfl

theorem State.Wires.of_hw_left {s s' t : State} (h : s'.hw = s.hw) (w : s'.Wires t) : s.Wires t := (State.Wires.of_hw h).trans w

/-! Leases and slots (R228, R229). -/

theorem find?_beq_of_mem {l : List Nat} {x : Nat} (h : x ∈ l) : l.find? (fun k => k == x) = some x := by
  have hsome : (l.find? (fun k => k == x)).isSome = true := List.find?_isSome.2 ⟨x, h, beq_self_eq_true x⟩
  obtain ⟨k, hk⟩ := Option.isSome_iff_exists.1 hsome
  have hkx : (k == x) = true := List.find?_some (p := fun k => k == x) hk
  rw [hk, beq_iff_eq.1 hkx]

theorem firstAsker_eq {ask : List Nat} {r j : Nat} (hj : j < 4) (ha : (r + j) % 4 ∈ ask)
    (hn : ∀ k < j, (r + k) % 4 ∉ ask) : firstAsker ask r = some ((r + j) % 4) := by
  have hc : ∀ k, ask.contains ((r + k) % 4) = decide ((r + k) % 4 ∈ ask) := fun k => List.contains_eq_mem ..
  unfold firstAsker
  rw [List.find?_map, Function.comp_def]
  simp only [hc]
  have hf : (List.range 4).find? (fun k => decide ((r + k) % 4 ∈ ask)) = some j := by
    rw [List.find?_range_eq_some]
    exact ⟨by simpa using ha, by simpa using hj, fun k hk => by simpa using hn k hk⟩
  rw [hf]
  rfl

/-- The lease of a comb whose slot or slice ends. -/
theorem CombSt.endLease_lease (c : CombSt) :
    c.endLease.lease = if c.queue = [] then none else c.lease.map (fun x => { x with left := 0 }) := by
  cases h : c.queue <;> simp [CombSt.endLease, h]

/-! Tile loads (R232). -/

theorem CombSt.bufOf_setBuf_same (c : CombSt) (b : Bool) (x : Buf) : (c.setBuf b x).bufOf b = x := by
  cases b <;> rfl

theorem CombSt.bufOf_setBuf_not (c : CombSt) (b : Bool) (x : Buf) : (c.setBuf b x).bufOf (!b) = c.bufOf (!b) := by
  cases b <;> rfl

theorem CombSt.setBuf_queue (c : CombSt) (b : Bool) (x : Buf) : (c.setBuf b x).queue = c.queue := by
  cases b <;> rfl

theorem CombSt.setBuf_lease (c : CombSt) (b : Bool) (x : Buf) : (c.setBuf b x).lease = c.lease := by
  cases b <;> rfl

theorem State.judgeTile_unmapped {s : State} {va a : Nat} (box : List Entry) (h : s.firstUnmapped va 8192 = some a) :
    s.judgeTile va box = ⟨.faulted a, []⟩ := by
  rw [State.judgeTile]
  generalize s.firstUnmapped va 8192 = o at *
  subst h
  rfl

theorem State.judgeTile_mapped {s : State} {va : Nat} (box : List Entry) (hm : s.firstUnmapped va 8192 = none)
    (hk : s.kernelAt va 8192 = false) (hp : s.poisonedAt va 8192 = false) (ht : s.anyTop va 8192 = false) :
    s.judgeTile va box = match badSlotFrom 0 (chunks 64 128 (overlay va (s.readV va 8192) box)) with
      | some i => ⟨.bad tTRITBYTE (va + 64 * i), []⟩
      | none => ⟨.loaded, overlay va (s.readV va 8192) box⟩ := by
  rw [State.judgeTile]
  generalize s.firstUnmapped va 8192 = o, s.kernelAt va 8192 = k, s.poisonedAt va 8192 = p, s.anyTop va 8192 = t,
    overlay va (s.readV va 8192) box = d at *
  subst hm hk hp ht
  rfl

/-! Which waiting TLDW starts (R232, R239). -/

/-- Behind some commands, command k of a list waits with VA w for buffer b, which no command before it names. -/
def LoadStarts (before l : List ArrCmd) (k : Nat) (x : ArrCmd) (w : Nat) (b : Bool) : Prop :=
  l[k]? = some x ∧ x.pend = some w ∧ x.buf = some b ∧ ∀ y ∈ before ++ l.take k, y.buf ≠ some b

theorem loadStarts_succ {before t : List ArrCmd} {q x : ArrCmd} {k w : Nat} {b : Bool} :
    LoadStarts before (q :: t) (k + 1) x w b ↔ LoadStarts (before ++ [q]) t k x w b := by
  simp [LoadStarts]

theorem startLoads_cons_starts {before t : List ArrCmd} {q x : ArrCmd} {w : Nat} {b : Bool}
    (h : LoadStarts before (q :: t) 0 x w b) : startLoads before (q :: t) = some (b, w, { x with pend := none } :: t) := by
  obtain ⟨hq, hw, hb, hn⟩ := h
  obtain rfl : q = x := by simpa using hq
  have hfree : before.any (fun p => p.buf == some b) = false := by simpa using hn
  simp [startLoads, hw, hb, hfree]

theorem startLoads_cons_waits {before t : List ArrCmd} {q : ArrCmd} (h : ∀ x w b, ¬ LoadStarts before (q :: t) 0 x w b) :
    startLoads before (q :: t) = (startLoads (before ++ [q]) t).map (fun r => (r.1, r.2.1, q :: r.2.2)) := by
  rw [startLoads]
  split
  next w b hw hb =>
    have hused : before.any (fun p => p.buf == some b) = true := by
      exact Decidable.byContradiction (fun hn => h q w b ⟨rfl, hw, hb, by simpa using hn⟩)
    rw [if_pos hused]
  next => rfl

theorem startLoads_none {l : List ArrCmd} : ∀ {before : List ArrCmd}, (∀ k x w b, ¬ LoadStarts before l k x w b) →
    startLoads before l = none := by
  induction l with
  | nil => intros; rfl
  | cons q t ih =>
    intro before h
    rw [startLoads_cons_waits (h 0), ih (fun k x w b hs => h (k + 1) x w b (loadStarts_succ.2 hs))]
    rfl

theorem startLoads_some {l : List ArrCmd} : ∀ {before : List ArrCmd} {k : Nat} {x : ArrCmd} {w : Nat} {b : Bool},
    LoadStarts before l k x w b → (∀ k' x' w' b', k' < k → ¬ LoadStarts before l k' x' w' b') →
    startLoads before l = some (b, w, l.set k { x with pend := none }) := by
  induction l with
  | nil => rintro before k x w b ⟨h, -⟩; simp at h
  | cons q t ih =>
    intro before k x w b h hfirst
    cases k with
    | zero => exact startLoads_cons_starts h
    | succ k =>
      rw [startLoads_cons_waits (fun x' w' b' => hfirst 0 x' w' b' (Nat.succ_pos k)),
        ih (loadStarts_succ.1 h) (fun k' x' w' b' hk hs => hfirst (k' + 1) x' w' b' (by omega) (loadStarts_succ.2 hs))]
      rfl

theorem CombSt.startLoad_lease (c : CombSt) : c.startLoad.lease = c.lease := by
  unfold CombSt.startLoad
  split
  · rw [CombSt.setBuf_lease]
  · rfl

theorem CombSt.startLoad_none {c : CombSt} (h : ∀ k x w b, ¬ LoadStarts [] c.queue k x w b) : c.startLoad = c := by
  simp [CombSt.startLoad, startLoads_none h]

theorem CombSt.startLoad_some {c : CombSt} {k w : Nat} {x : ArrCmd} {b : Bool} (h : LoadStarts [] c.queue k x w b)
    (hfirst : ∀ k' x' w' b', k' < k → ¬ LoadStarts [] c.queue k' x' w' b') :
    c.startLoad = { c with queue := c.queue.set k { x with pend := none } }.setBuf b ⟨.loading w, []⟩ := by
  simp [CombSt.startLoad, startLoads_some h hfirst]

/-- The lease once command i of the queue has ended: gone with the last command that TREL found, or with the last one of all when it
takes no further one (R228, R229). -/
def CombSt.leaseAfter (c : CombSt) (i : Nat) : Option Lease :=
  match c.lease with
  | some y =>
    let n := y.ending.map (fun n => if i < n then n - 1 else n)
    if n = some 0 ∨ (c.queue.length = 1 ∧ y.left = 0) then none else some { y with ending := n }
  | none => none

theorem CombSt.settleLease_ended {c : CombSt} {i : Nat} {q : ArrCmd} (hq : c.queue[i]? = some q) :
    ({ c with queue := ldrop c.queue i }.settleLease i).lease = c.leaseAfter i := by
  have hi : i < c.queue.length := (List.getElem?_eq_some_iff.1 hq).1
  have he : (ldrop c.queue i).isEmpty = decide (c.queue.length = 1) := by
    rw [Bool.eq_iff_iff, List.isEmpty_iff, ← List.length_eq_zero_iff, decide_eq_true_iff]
    simp only [ldrop, List.length_append, List.length_take, List.length_drop]
    omega
  unfold CombSt.settleLease CombSt.leaseAfter
  simp only [he]
  cases c.lease with
  | none => rfl
  | some y => simp

/-! The array's events. -/

/-- LEASE_GRANT to position k of a comb that has no lease. -/
theorem State.comes_leaseGrant {s : State} {comb k : Nat} {p : State → Prop}
    (hwho : (if s.slotOwner (s.comb comb) == 4 then firstAsker (s.comb comb).askers (s.comb comb).rr
      else (s.comb comb).askers.find? (fun j => j == s.slotOwner (s.comb comb))) = some k)
    (hruns : s.combRuns comb = true) (hl : (s.comb comb).lease = none) (hq : (s.comb comb).queue = [])
    (hu : s.slotUsed (s.comb comb) < 2048)
    (hp : p (s.onComb comb (fun c => { c with
      lease := some ⟨k, 64, none, []⟩, rr := if s.slotOwner (s.comb comb) == 4 then (k + 1) % 4 else c.rr
      buf0 := Buf.init, buf1 := Buf.init }))) : s.Comes (.leaseGrant comb) p := by
  refine State.comes_of_event (b := (s.comb comb).lease.isNone && (s.comb comb).queue.isEmpty &&
    decide (s.slotUsed (s.comb comb) < 2048) && s.combRuns comb) ?_ ?_ hp
  · change execLeaseGrant comb s = _
    simp only [execLeaseGrant, hwho]
  · simp [hl, hq, hu, hruns]

/-- SLOT_END of a comb of the launch that does not share its host, and of one that does. -/
theorem exec_slotEnd (s : State) (comb : Nat) : exec (.slotEnd comb) s =
    event s (decide (2048 ≤ s.slotUsed (s.comb comb)) && decide (comb < 512 * s.npkg) && !s.sharedComb comb)
      (s.onComb comb (fun c => (c.roll (s.slotUsed (s.comb comb)) s.cyc).endLease)) := rfl

/-- A comb that shares its host stops at the end of its slot (R24). -/
theorem State.combRuns_shared {s : State} {comb : Nat} (hu : 2048 ≤ s.slotUsed (s.comb comb)) (hs : s.sharedComb comb = true) :
    s.combRuns comb = false := by
  simp [State.combRuns, State.inSlice, hs, hu]

/-- The entries of the issuing lane's outbox that a TLDW reads over memory (R214). -/
def State.loadBox (s : State) (q : ArrCmd) : List Entry :=
  match q.lane with
  | some l => (s.lane l).box.take q.sees
  | none => []

/-- TLDW_LOAD_END of the first load of the path, which its comb and no effect of its task holds back. -/
theorem State.comes_tldwLoadEnd {s : State} {comb va : Nat} {buf : Bool} {q : ArrCmd} {p : State → Prop}
    (hh : (s.comb comb).loadHead = some q) (hb : ((s.comb comb).bufOf buf).st = .loading va) (hq : q.buf = some buf) (hn : q.pend = none)
    (hr : s.readHeld q.task va 8192 = false) (hruns : s.combRuns comb = true) (hm : s.engineMuted comb (2 ^ 64 + comb) = false)
    (hp : p ((s.onComb comb (fun c => c.setBuf buf (s.judgeTile va (s.loadBox q)))).fetched (4 * comb) va)) : s.Comes (.tldwLoadEnd comb buf) p := by
  refine State.comes_of_event (b := q.buf == some buf && q.pend.isNone && !s.readHeld q.task va 8192 && s.combRuns comb &&
    !s.engineMuted comb (2 ^ 64 + comb)) ?_ ?_ hp
  · change execTldwLoadEnd comb buf s = _
    simp only [execTldwLoadEnd, hh, hb]
    rfl
  · rw [hq, hn, hr, hruns, hm]; simp

/-- ARRAY_COMMAND_END of a command whose work is done. -/
theorem State.comes_arrayCommandEnd {s : State} {comb i : Nat} {q : ArrCmd} {p : State → Prop} (hi : (s.comb comb).nextMove = some i)
    (hq : (s.comb comb).queue[i]? = some q) (hj : q.job = none) (hruns : s.combRuns comb = true)
    (hp : p (s.onComb comb (fun c => ({ c with queue := ldrop c.queue i }.settleLease i).startLoad))) :
    s.Comes (.arrayCommandEnd comb) p := by
  refine State.comes_of_event (b := s.combRuns comb) ?_ hruns hp
  change execArrayCommandEnd comb s = _
  simp only [execArrayCommandEnd, hi, hq, hj, Option.bind_some, Option.map_some]

/-- TIME_SLICE_SWITCH from comb z to the next one. -/
theorem State.comes_timeSliceSwitch {s : State} {site : Site} {z : Nat} {p : State → Prop}
    (hz : (s.served site.pkg (site.die * 64 + site.comb)).find? (fun y => (s.comb y).since.isSome) = some z)
    (hl : 2 ≤ (s.served site.pkg (site.die * 64 + site.comb)).length) (hu : 2048 ≤ s.slotUsed (s.comb z))
    (hp : p ((s.onComb z (fun c => { c.roll (s.slotUsed (s.comb z)) s.cyc with since := none }.endLease)).onComb
      (nextIn (s.served site.pkg (site.die * 64 + site.comb)) z) (fun c => { c with since := some s.cyc }))) :
    s.Comes (.timeSliceSwitch site) p := by
  refine State.comes_of_event (b := decide (2 ≤ (s.served site.pkg (site.die * 64 + site.comb)).length) &&
    decide (2048 ≤ s.slotUsed (s.comb z))) ?_ ?_ hp
  · change execTimeSliceSwitch site s = _
    simp only [execTimeSliceSwitch, hz]
  · simp [hl, hu]

/-- Settles O53: each event is one change of its comb; which load starts next is LoadStarts. -/
theorem arrayLeasesSlotsAndLoadsEnd : Obligations.ArrayLeasesSlotsAndLoadsEnd := by
  unfold Obligations.ArrayLeasesSlotsAndLoadsEnd
  intro s comb va i j p z q buf site c only read box tile left starts ended l
  have honly : ∀ f, only (s.onComb comb f) := fun f => ⟨s.inCtx_onComb comb f, s.combsBut_onComb comb f, rfl⟩
  refine ⟨fun hruns hl hq hu => ⟨fun hown hask => ?_, fun hown hj hask hfirst => ?_⟩, fun hu hc hs => ⟨?_, ?_⟩, fun hu hc hs => ?_,
    fun hpend hper => ?_, fun hh hb hq hn hr hruns hm => ?_, fun hi hq hj hruns => ?_, fun hz hlen hu => ?_⟩
  · have h4 : (s.slotOwner (s.comb comb) == 4) = false := by simpa using hown
    refine State.comes_leaseGrant (k := s.slotOwner c) ?_ hruns hl hq hu ⟨honly _, ?_⟩
    · rw [h4, if_neg (by simp)]
      exact find?_beq_of_mem hask
    · rw [State.comb_onComb_same, h4]; rfl
  · have h4 : (s.slotOwner (s.comb comb) == 4) = true := by simpa using hown
    refine State.comes_leaseGrant (k := (c.rr + j) % 4) ?_ hruns hl hq hu ⟨honly _, ?_⟩
    · rw [h4, if_pos rfl]
      exact firstAsker_eq hj hask hfirst
    · rw [State.comb_onComb_same, h4]; rfl
  · exact State.comes_of_no_event (exec_slotEnd s comb) (by simp [hs]) rfl
  · exact State.combRuns_shared hu hs
  · refine State.comes_of_event (exec_slotEnd s comb) (by simp [hs, hc]; exact hu) ⟨honly _, ?_⟩
    rw [State.comb_onComb_same]
    exact ⟨rfl, CombSt.endLease_lease _, rfl⟩
  · refine State.comes_of_event (b := s.k.launch.isNone || decide (p < s.period32k)) (t := s.onK (fun k => { k with slotNow := k.slottab, slotPend := none })) ?_ ?_ rfl
    · change execSlottabApply s = _
      simp only [execSlottabApply, hpend]
    · rcases hper with h | h <;> simp [h]
  · refine State.comes_tldwLoadEnd hh hb hq hn hr hruns hm ⟨⟨⟨rfl, (State.wires_fetched _ _ _).of_hw_left rfl⟩,
      s.combsBut_onComb comb (fun c => c.setBuf buf (s.judgeTile va (s.loadBox q))), rfl⟩, ?_⟩
    rw [State.comb_fetched, State.comb_onComb_same, CombSt.setBuf_queue, CombSt.bufOf_setBuf_same, CombSt.bufOf_setBuf_not]
    refine ⟨rfl, rfl, fun a ha => by rw [State.judgeTile_unmapped _ ha], fun hmap hk hpo ht => ?_⟩
    have htile : overlay va (s.readV va 8192) (s.loadBox q) = tile := rfl
    rw [State.judgeTile_mapped _ hmap hk hpo ht, htile]
    exact ⟨fun hg => by rw [hg], fun hg => by rw [hg]⟩
  · refine State.comes_arrayCommandEnd hi hq hj hruns ⟨honly _, rfl, ?_⟩
    rw [State.comb_onComb_same]
    refine ⟨fun hno => ?_, fun k x w b hk hfirst => ?_, ?_⟩
    · have hnone : ∀ k x w b, ¬ LoadStarts [] ({ c with queue := ldrop c.queue i }.settleLease i).queue k x w b := hno
      rw [CombSt.startLoad_none hnone]
      exact ⟨rfl, rfl, rfl⟩
    · have hload : LoadStarts [] ({ c with queue := ldrop c.queue i }.settleLease i).queue k x w b := hk
      rw [CombSt.startLoad_some hload hfirst, CombSt.setBuf_queue, CombSt.bufOf_setBuf_same, CombSt.bufOf_setBuf_not]
      exact ⟨rfl, rfl, rfl⟩
    · rw [CombSt.startLoad_lease, CombSt.settleLease_ended hq]
      rfl
  · refine State.comes_timeSliceSwitch hz hlen hu ⟨rfl, rfl, ?_, fun hne => ?_⟩
    · rw [State.comb_onComb_same]
    · rw [State.comb_onComb_other _ _ (Ne.symm hne), State.comb_onComb_same]
      exact ⟨rfl, CombSt.endLease_lease _⟩

end Sys2Proof.Machine

namespace Sys2Proof.Machine

/-! What placing objects, moving combs and freeing objects leave of a context: the host's registers, the running launch, and its
counts. -/

/-- The part of a context that nothing in the course of a launch's start changes. -/
def State.launchPart (s : State) : HostSt × Option Launch × Nat × Nat × Nat :=
  (s.k.host, s.k.launch, s.k.launchSeq, s.k.rfcount, s.k.fences)

/-- A fold of steps that each keep the part keeps it. -/
theorem foldl_launchPart {β : Type} (g : State → β → State) (hg : ∀ s b, (g s b).launchPart = s.launchPart) (l : List β) (s : State) :
    (l.foldl g s).launchPart = s.launchPart := by
  induction l generalizing s with
  | nil => rfl
  | cons b t ih => rw [List.foldl_cons, ih, hg]

/-- A fold of steps that may fail and else keep the part keeps it. -/
theorem foldl_bind_launchPart {β : Type} (g : State → β → Option State)
    (hg : ∀ {s b t}, g s b = some t → t.launchPart = s.launchPart) (l : List β) {o : Option State} {t : State}
    (h : l.foldl (fun u b => u.bind (fun s => g s b)) o = some t) : ∃ s, o = some s ∧ t.launchPart = s.launchPart := by
  induction l generalizing o with
  | nil => exact ⟨t, h, rfl⟩
  | cons b l ih =>
    obtain ⟨v, hv, e⟩ := ih h
    obtain ⟨s, hs, hb⟩ := Option.bind_eq_some_iff.1 hv
    exact ⟨s, hs, e.trans (hg hb)⟩

theorem State.tickBy_launchPart (s : State) (n : Nat) : (s.tickBy n).launchPart = s.launchPart := rfl

theorem State.onCore_launchPart (s : State) (c : Nat) (f : CoreSt → CoreSt) : (s.onCore c f).launchPart = s.launchPart := rfl

theorem State.onComb_launchPart (s : State) (c : Nat) (f : CombSt → CombSt) : (s.onComb c f).launchPart = s.launchPart := rfl

theorem State.onPkg_launchPart (s : State) (p : Nat) (f : Pkg → Pkg) : (s.onPkg p f).launchPart = s.launchPart := rfl

theorem State.setMem_launchPart (s : State) (m : Memory) : State.launchPart { s with mem := m } = s.launchPart := rfl

/-! Frames and pages. -/

theorem State.takeFrame_launchPart {s t : State} {pkg die ps sec a : Nat} (h : s.takeFrame pkg die ps sec = some (a, t)) :
    t.launchPart = s.launchPart := by
  unfold State.takeFrame at h
  extract_lets at h
  split at h
  · cases h; rfl
  · obtain ⟨b, -, hb⟩ := Option.map_eq_some_iff.1 h
    cases hb; rfl

theorem State.takeTable_launchPart {s t : State} {pkg die a : Nat} (h : s.takeTable pkg die = some (a, t)) :
    t.launchPart = s.launchPart := by
  obtain ⟨⟨b, u⟩, hb, hu⟩ := Option.map_eq_some_iff.1 h
  cases hu
  exact State.takeFrame_launchPart (t := u) hb

theorem State.pickFrame_launchPart {s t : State} {pkg die ps sec a : Nat} {frame : Option Nat}
    (h : s.pickFrame pkg die ps sec frame = some (a, t)) : t.launchPart = s.launchPart := by
  unfold State.pickFrame at h
  split at h
  · split at h
    · cases h; rfl
    · cases h
  · exact State.takeFrame_launchPart h

theorem State.writeLeaf_launchPart {o pkg die pg leaf n : Nat} : ∀ {s t : State} {top : Nat},
    s.writeLeaf o pkg die pg leaf n top = some t → t.launchPart = s.launchPart := by
  induction n with
  | zero => intro s t top h; cases h; rfl
  | succ n ih =>
    intro s t top h
    simp only [State.writeLeaf] at h
    split at h
    · exact (ih h).trans rfl
    · split at h
      · cases h
      · rename_i a u hu
        have hnote : t.launchPart = u.launchPart := (ih h).trans rfl
        exact hnote.trans (State.takeTable_launchPart hu)

theorem State.mapPageAt_launchPart {s t : State} {o pkg die pg mt : Nat} {frame : Option Nat}
    (h : s.mapPageAt o pkg die pg mt frame = some t) : t.launchPart = s.launchPart := by
  unfold State.mapPageAt at h
  split at h
  · cases h
  · extract_lets sec withRoot at h
    generalize hroot : withRoot = w at h
    cases w with
    | none => cases h
    | some w =>
      obtain ⟨r, u⟩ := w
      have hu : u.launchPart = s.launchPart := by
        simp only [withRoot] at hroot
        split at hroot
        · cases hroot; rfl
        · obtain ⟨⟨a, v⟩, hv, hr⟩ := Option.map_eq_some_iff.1 hroot
          cases hr
          exact State.takeTable_launchPart (t := v) hv
      dsimp only at h
      split at h
      · cases h
      · rename_i a v hpick
        have hnote : t.launchPart = v.launchPart := (State.writeLeaf_launchPart h).trans rfl
        exact hnote.trans ((State.pickFrame_launchPart hpick).trans hu)

@[simp] theorem State.mapVa_launchPart (s : State) (va : Nat) : (s.mapVa va).launchPart = s.launchPart := by
  unfold State.mapVa
  split
  · rename_i m _
    cases h : s.mapPage m.oid m.pkg m.die m.pg with
    | none => rfl
    | some t => exact State.mapPageAt_launchPart h
  · rfl

@[simp] theorem State.mapRange_launchPart (s : State) (va n : Nat) : (s.mapRange va n).launchPart = s.launchPart := by
  induction n generalizing s va with
  | zero => rfl
  | succ n ih => rw [State.mapRange, ih, State.mapVa_launchPart]

@[simp] theorem State.writeV_launchPart (s : State) (va : Nat) (l : List Byte) : (s.writeV va l).launchPart = s.launchPart := by
  induction l generalizing s va with
  | nil => rfl
  | cons x t ih =>
    rw [State.writeV, ih]
    split <;> rfl

@[simp] theorem State.mapDevice_launchPart (s : State) (va n : Nat) : (s.mapDevice va n).launchPart = s.launchPart := by
  induction n generalizing s va with
  | zero => rfl
  | succ n ih =>
    rw [State.mapDevice, ih]
    split
    · rename_i m _
      cases h : s.mapPageAt m.oid m.pkg m.die m.pg 2 none with
      | none => rfl
      | some t => exact State.mapPageAt_launchPart h
    · rfl

@[simp] theorem State.capBlocks_launchPart (s : State) (va n : Nat) : (s.capBlocks va n).launchPart = s.launchPart := by
  refine foldl_launchPart _ (fun u i => ?_) _ _
  split <;> rfl

/-! Objects. -/

theorem State.declare_launchPart {s t : State} {place : Option (Nat × Nat)} {mode : OwnMode} {ty : LTy} {w : Wd} {len owner o : Nat}
    (h : s.declare place mode ty w len owner = some (o, t)) : t.launchPart = s.launchPart := by
  unfold State.declare State.newObj at h
  extract_lets at h
  split at h
  · cases h; rfl
  · cases h

theorem State.initBytes_launchPart {ty : LTy} {base : Nat} {l : List (Nat × Byte)} : ∀ {s t : State},
    s.initBytes ty base l = some t → t.launchPart = s.launchPart := by
  induction l with
  | nil => intro s t h; cases h; rfl
  | cons x l ih =>
    intro s t h
    obtain ⟨u, hu, ht⟩ := Option.bind_eq_some_iff.1 h
    refine (ih ht).trans ?_
    unfold State.initByte at hu
    extract_lets v at hu
    split at hu
    · cases hu
    · extract_lets m at hu
      cases hu
      exact s.mapVa_launchPart _

theorem State.placeObjs_launchPart {owner : Nat} {l : List ObjDecl} : ∀ {s t : State} {place : List (Nat × Nat)} {done rev : List Nat},
    s.placeObjs owner place done l = some (rev, t) → t.launchPart = s.launchPart := by
  induction l with
  | nil => intro s t place done rev h; cases h; rfl
  | cons x l ih =>
    intro s t place done rev h
    simp only [State.placeObjs] at h
    split at h
    · cases h
    · split at h
      · cases h
      · split at h
        · cases h
        · rename_i hdecl
          split at h
          · cases h
          · rename_i hinit
            exact (ih h).trans ((State.initBytes_launchPart hinit).trans (State.declare_launchPart hdecl))

theorem State.placeBlocks_launchPart {owner : Nat} {l : List Nat} : ∀ {s t : State} {done os : List Nat},
    s.placeBlocks owner done l = some (os, t) → t.launchPart = s.launchPart := by
  induction l with
  | nil => intro s t done os h; cases h; rfl
  | cons n l ih =>
    intro s t done os h
    simp only [State.placeBlocks] at h
    split at h
    · cases h
    · rename_i hdecl
      exact (ih h).trans ((State.mapDevice_launchPart _ _ _).trans (State.declare_launchPart hdecl))

theorem State.placeMapped_launchPart {s t : State} {place : Option (Nat × Nat)} {ty : LTy} {w : Wd} {blocks owner o : Nat}
    {bytes : List Byte} (h : s.placeMapped place ty w blocks owner bytes = some (o, t)) : t.launchPart = s.launchPart := by
  unfold State.placeMapped at h
  split at h
  · cases h
  · rename_i hdecl
    dsimp only at h
    split at h
    · cases h
    · cases h
      rw [State.writeV_launchPart, State.mapRange_launchPart, State.declare_launchPart hdecl]

@[simp] theorem State.stock_launchPart (s : State) : s.stock.launchPart = s.launchPart := by
  refine Eq.trans rfl (foldl_launchPart State.addRoom (fun u m => ?_) _ s)
  unfold State.addRoom
  dsimp only
  split <;> rfl

theorem State.freeFrames_launchPart (s : State) (l : List Root) : (s.freeFrames l).launchPart = s.launchPart := by
  induction l generalizing s with
  | nil => rfl
  | cons r t ih => rw [State.freeFrames, ih]; rfl

theorem State.dropObj_launchPart (s : State) (o : Nat) : (s.dropObj o).launchPart = s.launchPart :=
  Eq.trans rfl (s.freeFrames_launchPart _)

theorem State.freeObjN_launchPart (s : State) (n o : Nat) : (s.freeObjN n o).launchPart = s.launchPart := by
  induction n generalizing s o with
  | zero => rfl
  | succ n ih =>
    have hdrop := s.dropObj_launchPart o
    simp only [State.freeObjN]
    split
    · rfl
    · split
      · rfl
      · split
        · exact hdrop
        · split
          · split
            · exact (ih _ _).trans hdrop
            · exact hdrop
          · exact hdrop

@[simp] theorem State.freeObjs_launchPart (s : State) : s.freeObjs.launchPart = s.launchPart :=
  Eq.trans rfl (foldl_launchPart (fun (u : State) (e : Nat × Obj) => u.freeObj e.1) (fun u e => u.freeObjN_launchPart _ e.1) s.k.objs s)

@[simp] theorem State.freeObjs_mem (s : State) : s.freeObjs.mem = s.mem :=
  Eq.trans rfl (foldl_mem (fun (u : State) (e : Nat × Obj) => u.freeObj e.1) (fun u e => u.freeObj_mem e.1) s.k.objs s)

/-! Hosts of combs (R23, R335). -/

theorem State.restoreCore_launchPart (s : State) (lcore : Nat) : (s.restoreCore lcore).launchPart = s.launchPart := by
  unfold State.restoreCore
  extract_lets c a old line mine kept back
  rw [State.tickBy_launchPart, State.onCore_launchPart, State.setMem_launchPart]

theorem State.moveComb_launchPart (s : State) (pkg c y : Nat) : (s.moveComb pkg c y).launchPart = s.launchPart := by
  unfold State.moveComb
  extract_lets alone s1 s2
  have hs2 : s2.launchPart = s1.launchPart :=
    foldl_launchPart (fun (s : State) i => s.restoreCore (c * 4 + i)) (fun u i => u.restoreCore_launchPart _) (List.range 4) s1
  rw [State.onComb_launchPart, hs2, State.onPkg_launchPart]

theorem State.moveAll_launchPart {pkg : Nat} {choice : List (Nat × Nat)} {l : List Nat} : ∀ {s t : State},
    s.moveAll pkg choice l = some t → t.launchPart = s.launchPart := by
  induction l with
  | nil => intro s t h; cases h; rfl
  | cons c l ih =>
    intro s t h
    simp only [State.moveAll] at h
    split at h
    · cases h
    · exact (ih h).trans (State.moveComb_launchPart ..)

theorem State.rebuildRemap_launchPart {s t : State} (h : s.rebuildRemap = some t) : t.launchPart = s.launchPart := by
  unfold State.rebuildRemap at h
  extract_lets mine ready ps s1 moved at h
  have hs1 : s1.launchPart = s.launchPart :=
    foldl_launchPart (fun (s : State) p => s.onPkg p (ready p)) (fun _ _ => rfl) ps s
  have hmoved : ∀ {u}, moved = some u → u.launchPart = s.launchPart := by
    intro u hu
    have hpkg : ∀ {a p b}, ((((a : State).pkg p).wag.filter (fun e => e.2.st != .active && mine p e.1)).map (fun e => e.1)).foldl
        (fun u x => u.bind (fun s => s.moveAll p [] (s.served p x))) (some a) = some b → b.launchPart = a.launchPart := by
      intro a p b hab
      obtain ⟨w, hw, hbw⟩ := foldl_bind_launchPart _ (fun hm => State.moveAll_launchPart hm) _ hab
      cases hw
      exact hbw
    obtain ⟨v, hv, huv⟩ := foldl_bind_launchPart _ hpkg ps hu
    cases hv
    exact huv.trans hs1
  obtain ⟨u, hu, ht⟩ := Option.map_eq_some_iff.1 h
  refine Eq.trans ?_ (hmoved hu)
  rw [← ht]
  split <;> rfl

end Sys2Proof.Machine

namespace Sys2Proof.Machine

/-! The start of a launch (R322). -/

/-- Where an accepted launch q has started from s: the host's registers stay, the counts start anew, and the root record, READY at
its entry, and the root group have the next ids. -/
structure State.Started (s : State) (q : LaunchReq) (u : State) : Prop where
  host : u.k.host = s.k.host
  launchSeq : u.k.launchSeq = s.k.launchSeq + 1
  rfcount : u.k.rfcount = 0
  fences : u.k.fences = 0
  ready : (u.record s.k.nextTask).st = .ready
  gid : (u.record s.k.nextTask).f.gid = s.k.nextGid
  status : (u.group s.k.nextGid).status = 0
  launch : ∃ y, u.k.launch = some y ∧ y.npkg = dNpkg q.desc ∧ y.part = dPart q.desc ∧ y.root = s.k.nextGid ∧
    y.rootTask = s.k.nextTask ∧ (u.record s.k.nextTask).f.pc = pc60 (BitVec.ofNat 64 (y.codeBase + dEntry q.desc))

/-- The last step of a start: the placed launch, its root group g and its root record r are entered, then the manifest. -/
theorem State.started_of_entered {s w : State} {q : LaunchReq} {place : Launch → Launch} {g : Group} {r : Rec} {m : BitVec 2048}
    {base : Nat}
    (hw : w.launchPart = (s.k.host, some (launchOf q s.k.nextGid s.k.nextTask s.cyc), s.k.launchSeq + 1, 0, 0))
    (hready : r.st = .ready) (hgid : r.f.gid = s.k.nextGid) (hpc : r.f.pc = pc60 (BitVec.ofNat 64 (base + dEntry q.desc)))
    (hg : g.status = 0) (hplace : ∀ l, (place l).npkg = l.npkg ∧ (place l).part = l.part ∧ (place l).root = l.root ∧
      (place l).rootTask = l.rootTask ∧ (place l).codeBase = base) :
    s.Started q ((w.onK (fun k => { k with
      launch := k.launch.map place, groups := tset k.groups s.k.nextGid g, recs := tset k.recs s.k.nextTask r })).onK (fun k => { k with
      manifest := m })) := by
  simp only [State.launchPart, Prod.mk.injEq] at hw
  obtain ⟨hhost, hlaunch, hseq, hrf, hfences⟩ := hw
  have hrec : ((w.onK (fun k => { k with
      launch := k.launch.map place, groups := tset k.groups s.k.nextGid g, recs := tset k.recs s.k.nextTask r })).onK (fun k => { k with
      manifest := m })).record s.k.nextTask = r := by
    simp [State.record]
  refine ⟨hhost, hseq, hrf, hfences, by rw [hrec, hready], by rw [hrec, hgid], ?_, ?_⟩
  · simp [State.group, hg]
  · obtain ⟨h1, h2, h3, h4, h5⟩ := hplace (launchOf q s.k.nextGid s.k.nextTask s.cyc)
    refine ⟨place (launchOf q s.k.nextGid s.k.nextTask s.cyc), ?_, h1, h2, h3, h4, by rw [hrec, hpc, h5]⟩
    simp [hlaunch]

theorem State.started_of_startLaunch {s u : State} {q : LaunchReq} {img : Image} (h : s.startLaunch q img = some u) :
    s.Started q u := by
  unfold State.startLaunch at h
  extract_lets d root task s0 v len at h
  split at h
  · cases h
  rename_i s1 hremap
  split at h
  · cases h
  rename_i code s2 hcode
  split at h
  · cases h
  rename_i rev s3 hobjs
  split at h
  · cases h
  rename_i blocks s3b hblocks
  extract_lets objs at h
  split at h
  · cases h
  rename_i lines s4 hlines
  split at h
  · cases h
  rename_i frame s5 hframe
  extract_lets base at' shape f r s6 at h
  split at h
  · cases h
  rw [← Option.some.inj h]
  have hpart : (s5.capBlocks base (len / 4096)).stock.launchPart = s0.launchPart := by
    rw [State.stock_launchPart, State.capBlocks_launchPart, State.placeMapped_launchPart hframe, State.placeMapped_launchPart hlines,
      State.placeBlocks_launchPart hblocks, State.placeObjs_launchPart hobjs, State.placeMapped_launchPart hcode,
      State.rebuildRemap_launchPart hremap]
  have hready : r.st = .ready := rfl
  have hgid : r.f.gid = root := rfl
  have hpc : r.f.pc = pc60 (BitVec.ofNat 64 (base + dEntry d)) := rfl
  exact State.started_of_entered (hpart.trans rfl) hready hgid hpc rfl (fun l => ⟨rfl, rfl, rfl, rfl, rfl⟩)

end Sys2Proof.Machine

namespace Sys2Proof.Machine

/-! What the updates of a context's host side leave (R319, R320, R347). -/

theorem State.hostUp_iff (s : State) : s.hostUp = true ↔ ∀ p ∈ s.k.pkgs, (s.pkg p).state ≠ 3 := by
  simp [State.hostUp]

/-- Commands of no OP add completions only. -/
theorem State.rejectUnknown_eq (s : State) (l : List Line) :
    ∃ c w, s.rejectUnknown l = s.onHost (fun h => { h with cmds := c, waiting := h.waiting ++ w }) := by
  induction l generalizing s with
  | nil => exact ⟨[], [], by simp [State.rejectUnknown]⟩
  | cons x t ih =>
    simp only [State.rejectUnknown]
    split
    · exact ⟨x :: t, [], by simp⟩
    · obtain ⟨c, w, h⟩ := ih (s.reply x 0x21)
      refine ⟨c, answerOf (cmdId x) 0x21 none :: w, h.trans ?_⟩
      simp [State.reply, State.complete, State.onHost, State.onK, answerOf]

/-- What the command at the head of the queue does before the next one is looked at. -/
def State.answered (s : State) (x : Line) (op : Nat) (bad : Line → Bool) (f : Line → State → State) : State :=
  if cmdReserved x || bad x then s.reply x 0x21 else f x (if op = 1 then s else s.reply x 0x20)

/-- A command at the head of the queue is handled, when its context's packages have not failed: then completions of unknown commands
behind it may follow. -/
theorem State.comes_command {s : State} {i : Instr} {op : Nat} {bad : Line → Bool} {f : Line → State → State} {x : Line}
    {rest : List Line} {p : State → Prop} (he : exec i s = s.command op bad f) (hc : s.k.host.cmds = x :: rest) (hop : cmdOp x = op)
    (hup : ∀ p ∈ s.k.pkgs, (s.pkg p).state ≠ 3)
    (hp : ∀ c w, p ((s.answered x op bad f).onHost (fun h => { h with cmds := c, waiting := h.waiting ++ w }))) : s.Comes i p := by
  obtain ⟨c, w, h⟩ := State.rejectUnknown_eq (s.answered x op bad f) rest
  refine State.comes_of_event (b := cmdOp x == op && s.hostUp) (t := (s.answered x op bad f).rejectUnknown rest) (he.trans ?_) ?_
    (h ▸ hp c w)
  · simp only [State.command, hc, State.answered]
  · simp [hop, s.hostUp_iff.2 hup]

/-- A command with a reserved field is rejected with 0x21 (log entry 56). -/
theorem State.comes_command_reserved {s : State} {i : Instr} {op : Nat} {bad : Line → Bool} {f : Line → State → State} {x : Line}
    {rest : List Line} (he : exec i s = s.command op bad f) (hc : s.k.host.cmds = x :: rest) (hop : cmdOp x = op)
    (hup : ∀ p ∈ s.k.pkgs, (s.pkg p).state ≠ 3) (hr : cmdReserved x = true) :
    s.Comes i (fun t => s.InCtx t ∧ t.k.recs = s.k.recs ∧ t.k.host.launches = s.k.host.launches ∧
      answerOf (cmdId x) 0x21 none ∈ t.k.host.waiting) := by
  refine State.comes_command he hc hop hup (fun c w => ?_)
  have ha : s.answered x op bad f = s.complete (answerOf (cmdId x) 0x21 none) := by simp [State.answered, hr, State.reply, answerOf]
  rw [ha]
  exact ⟨rfl, rfl, rfl, by simp [State.onHost]⟩

/-- An entry of TTTAB is written and counts the firings that are past. -/
def State.writeEntry (s : State) (e : Nat) (b : BitVec 256) (now : Nat) : State := s.onK (fun k => (k.ttPut e b).ttRearm e now)

/-! Each instruction of a command: what makes its fields bad, and what it does (Table 17-4). -/

theorem exec_launch_command (s : State) (desc : BitVec 2048) (m : Placing) : exec (.launch desc m) s =
    s.command 1 (fun x => cmdArg1 x != 0) (fun x s => s.onHost (fun h => { h with
      launches := h.launches ++ [⟨desc, m.pkgmap, cmdId x, none, m.place⟩] })) := rfl

theorem exec_hostCancel_command (s : State) : exec .hostCancel s =
    s.command 2 (fun x => cmdArg1 x != 0 || decide (65536 ≤ cmdArg0 x)) (fun x s => s.cancelCmd (cmdArg0 x)) := rfl

theorem exec_setclass_command (s : State) : exec .setclass s =
    s.command 3 (fun x => cmdArg1 x != 0 || decide (2 ^ 37 ≤ cmdArg0 x)) (fun x s => s.setOverride (cmdArg0 x)) := rfl

theorem exec_release_command (s : State) : exec .release s =
    s.command 4 (fun x => decide (2 ^ 32 ≤ cmdArg0 x)) (fun x s =>
      s.releaseHeld (cmdArg0 x) (if cmdArg1 x = 0 then none else some (BitVec.ofNat 64 (cmdArg1 x)))) := rfl

theorem exec_kill_command {s : State} (h : s.k.killing = none) : exec .kill s =
    s.command 5 (fun x => cmdArg0 x != 0 || cmdArg1 x != 0) (fun _ s => s.killCtx) := by
  change execKill s = _
  simp [execKill, h]

theorem exec_ttwrite_command (s : State) (bytes : BitVec 256) : exec (.ttwrite bytes) s =
    s.command 6 (fun x => decide (256 ≤ cmdArg0 x) || decide (8 ≤ (quad bytes 3).toNat) || (quad bytes 3).toNat / 2 == 3)
      (fun x s => s.writeEntry (cmdArg0 x) bytes s.ttClock) := rfl

theorem exec_preempt_command (s : State) : exec .preempt s =
    s.command 7 (fun x => cmdArg1 x != 0 || !s.k.service || decide (s.lcount ≤ cmdArg0 x))
      (fun x s => s.onCore (cmdArg0 x) (fun c => { c with asked := true })) := rfl

/-! Groups and records of a context. -/

theorem State.liveGroup_iff (s : State) (g : Nat) : s.liveGroup g = true ↔ ∃ x, tget? s.k.groups g = some x ∧ x.status = 0 := by
  unfold State.liveGroup
  cases tget? s.k.groups g <;> simp

theorem State.group_onGroup_live {s : State} {g : Nat} (h : s.liveGroup g = true) (f : Group → Group) :
    (s.onGroup g f).group g = f (s.group g) := by
  obtain ⟨x, hx, -⟩ := (s.liveGroup_iff g).1 h
  simp [State.group, State.onGroup, tget, hx]

/-- A table whose entries of some kind change. -/
theorem tget?_map_where {α : Type} (p : α → Prop) [DecidablePred p] (f : α → α) (t : Tab α) (k : Nat) :
    tget? (t.map (fun e => if p e.2 then (e.1, f e.2) else e)) k = (tget? t k).map (fun y => if p y then f y else y) := by
  induction t with
  | nil => rfl
  | cons e t ih =>
    obtain ⟨j, y⟩ := e
    by_cases hp : p y <;> by_cases hj : j = k <;> simp [tget?, hp, hj, ih]

theorem State.recsBut_onRec (s : State) (t : Nat) (f : Rec → Rec) : s.RecsBut (s.onRec t f) t := by
  intro m hm
  simp [State.onRec, tget?_tmap, hm]

theorem State.record_onRec_same {s : State} {t : Nat} {r : Rec} (h : tget? s.k.recs t = some r) (f : Rec → Rec) :
    (s.onRec t f).record t = f (s.record t) := by
  simp [State.onRec, State.record, tget, h]

/-- A record that is HELD is listed: a task without a record counts as ended. -/
theorem State.listed_of_held {s : State} {t : Nat} (h : (s.record t).st = .held) : ∃ r, tget? s.k.recs t = some r := by
  cases hr : tget? s.k.recs t with
  | some r => exact ⟨r, rfl⟩
  | none =>
    have : s.record t = Rec.init := by simp [State.record, tget, hr]
    rw [this] at h
    cases h

/-! Cancelling (R306, R312). -/

@[simp] theorem State.cancelLaunch_mem (s : State) : s.cancelLaunch.mem = s.mem := by
  unfold State.cancelLaunch
  split
  · split <;> rfl
  · rfl

@[simp] theorem State.cancelLaunch_host (s : State) : s.cancelLaunch.k.host = s.k.host := by
  unfold State.cancelLaunch
  split
  · split <;> rfl
  · rfl

theorem State.cancelLaunch_cancelling {s : State} {L : Launch} (hL : s.k.launch = some L) (hlive : s.liveGroup L.root = true) :
    (s.cancelLaunch.group L.root).cancelling = true := by
  have h : s.cancelLaunch = s.onGroup L.root (fun g => { g with cancelling := true }) := by simp [State.cancelLaunch, hL, hlive]
  rw [h, State.group_onGroup_live hlive]

/-- Refused launches add their completions. -/
theorem State.refuse_foldl (status : Nat) (l : List LaunchReq) (s : State) :
    l.foldl (fun s q => s.refuse q status) s =
      s.onHost (fun h => { h with waiting := h.waiting ++ l.map (fun q => answerOf q.cmd status q.tt) }) := by
  induction l generalizing s with
  | nil => simp [State.onHost, State.onK]
  | cons q t ih =>
    rw [List.foldl_cons, ih]
    simp [State.refuse, State.complete, State.onHost, State.onK, answerOf]

/-- Is a waiting launch the host's one of a command id? -/
def LaunchReq.hostCmd (q : LaunchReq) (id : Nat) : Bool := q.tt.isNone && q.cmd == id

/-- The queue without the host's launches of a command id, each of which is completed with status 0x01. -/
def State.withoutCmd (s : State) (id : Nat) : State :=
  s.onHost (fun h => { h with
    launches := h.launches.filter (fun q => !q.hostCmd id)
    waiting := h.waiting ++ (h.launches.filter (fun q => q.hostCmd id)).map (fun q => answerOf q.cmd 1 q.tt) })

theorem State.cancelCmd_eq (s : State) (id : Nat) :
    s.cancelCmd id = if s.k.launch.any (fun l => l.tt.isNone && l.cmd == id) then (s.withoutCmd id).cancelLaunch else s.withoutCmd id := by
  simp only [State.cancelCmd, State.refuse_foldl]
  rfl

theorem State.cancelCmd_mem (s : State) (id : Nat) : (s.cancelCmd id).mem = s.mem := by
  rw [State.cancelCmd_eq]
  split
  · rw [State.cancelLaunch_mem]; rfl
  · rfl

theorem State.cancelCmd_host (s : State) (id : Nat) : (s.cancelCmd id).k.host = (s.withoutCmd id).k.host := by
  rw [State.cancelCmd_eq]
  split
  · rw [State.cancelLaunch_host]
  · rfl

theorem State.cancelCmd_cancelling {s : State} {L : Launch} {id : Nat} (hL : s.k.launch = some L) (ht : L.tt = none) (hid : L.cmd = id)
    (hlive : s.liveGroup L.root = true) : ((s.cancelCmd id).group L.root).cancelling = true := by
  have h : s.k.launch.any (fun l => l.tt.isNone && l.cmd == id) = true := by simp [hL, ht, hid]
  rw [State.cancelCmd_eq, if_pos h]
  exact State.cancelLaunch_cancelling (s := s.withoutCmd id) hL hlive

/-! Class overrides (R306). -/

/-- A record's class under an override: at once, or with its next commit where a core holds it. -/
def Rec.reclass (c : Nat) (r : Rec) : Rec :=
  match r.st with
  | .loc _ | .active _ | .fenced _ => { r with newCls := some c }
  | _ => { r with f := { r.f with cls := c }, newCls := none }

theorem Rec.reclass_st (c : Nat) (r : Rec) : (r.reclass c).st = r.st := by
  unfold Rec.reclass
  split <;> rfl

theorem State.setOverride_remove {s : State} {v : Nat} (hl : s.liveGroup (v % 2 ^ 32) = true) (hv : v / 2 ^ 36 = 1) :
    s.setOverride v = s.onGroup (v % 2 ^ 32) (fun x => { x with ovr := none }) := by
  simp only [State.setOverride, hl, hv]
  rfl

theorem State.setOverride_set {s : State} {v : Nat} (hl : s.liveGroup (v % 2 ^ 32) = true) (hv : v / 2 ^ 36 = 0) :
    s.setOverride v = (s.onGroup (v % 2 ^ 32) (fun x => { x with ovr := some (v / 2 ^ 32 % 16) })).onK (fun k => { k with
      recs := k.recs.map (fun e => if e.2.f.gid = v % 2 ^ 32 then (e.1, e.2.reclass (v / 2 ^ 32 % 16)) else e) }) := by
  simp only [State.setOverride, hl, hv]
  rfl

/-! Release of a held record (R307). -/

/-- A record that returns from HELD at time now, at a new PC where one is given. -/
def Rec.released (r : Rec) (now : Nat) (pc : Option Word) : Rec :=
  { r with st := .ready, since := now, posted := false, f := { r.f with pc := pc60 (pc.getD r.f.pc), tpd := false } }

theorem State.releaseHeld_eq {s : State} {t : Nat} (hh : (s.record t).st = .held)
    (hc : (s.group (s.record t).f.gid).cancelling = false) (pc : Option Word) :
    ∃ o : Word, s.releaseHeld t pc = (s.onRec t (fun r => r.released s.time pc)).onK (fun k => { k with ovq := o }) := by
  unfold State.releaseHeld
  rw [if_pos (by simp [hh, hc])]
  by_cases hp : (s.record t).posted = true
  · exact ⟨s.k.ovq - 1, by simp only [hp, if_true]; rfl⟩
  · exact ⟨s.k.ovq, by simp only [hp]; rfl⟩

theorem State.releaseHeld_effect {s : State} {t : Nat} (hh : (s.record t).st = .held)
    (hc : (s.group (s.record t).f.gid).cancelling = false) (pc : Option Word) :
    s.InCtx (s.releaseHeld t pc) ∧ (s.releaseHeld t pc).k.host = s.k.host ∧ s.RecsBut (s.releaseHeld t pc) t ∧
      (s.releaseHeld t pc).record t = (s.record t).released s.time pc := by
  obtain ⟨o, ho⟩ := State.releaseHeld_eq hh hc pc
  obtain ⟨r, hr⟩ := State.listed_of_held hh
  rw [ho]
  exact ⟨rfl, rfl, s.recsBut_onRec t (fun r => r.released s.time pc), State.record_onRec_same hr (fun r => r.released s.time pc)⟩

/-! Entries of TTTAB (R317). -/

theorem Ctx.ttPut_word (k : Ctx) (e j : Nat) (b : BitVec 256) (hj : j < 4) :
    tget (k.ttPut e b).tttab (4 * e + j) 0 = quad b j := by
  simp only [Ctx.ttPut, List.range, List.range.loop, List.foldl_cons, List.foldl_nil, tget, tget?_tset]
  have h : j = 0 ∨ j = 1 ∨ j = 2 ∨ j = 3 := by omega
  rcases h with rfl | rfl | rfl | rfl <;> simp

theorem State.writeEntry_effect (s : State) (e : Nat) (b : BitVec 256) (now : Nat) :
    s.InCtx (s.writeEntry e b now) ∧ (s.writeEntry e b now).k.host = s.k.host ∧
      ∀ j < 4, tget (s.writeEntry e b now).k.tttab (4 * e + j) 0 = quad b j :=
  ⟨rfl, rfl, fun j hj => s.k.ttPut_word e j b hj⟩

/-! Kills (R280). -/

theorem State.killCtx_mem (s : State) : s.killCtx.mem = s.mem := s.freeObjs_mem

theorem State.killCtx_host (s : State) : s.killCtx.k.host = s.k.host := congrArg (fun x => x.1) s.freeObjs_launchPart

theorem State.killCtx_killing {s : State} {L : Launch} (hk : s.k.killing = none) (hL : s.k.launch = some L) :
    s.killCtx.k.killing = some (some (answerOf L.cmd 2 L.tt)) := by
  change some (s.k.killing.getD (s.k.launch.map (fun l => cqEntry l.cmd 0x02 l.tt 0 0 0))) = _
  rw [hk, hL]
  rfl

theorem State.killDone_eq {s : State} {z : Option (BitVec 256)} (h : s.k.killing = some z) :
    s.killDone = (s.onK (fun k => { k with killing := none })).onHost (fun h => { h with waiting := h.waiting ++ z.toList }) := by
  cases z <;> simp [State.killDone, h, State.complete, State.onHost, State.onK]

/-! Firings (R318). -/

theorem queueFiring_eq (q : LaunchReq) (l : List LaunchReq) :
    queueFiring q l = l.takeWhile (fun y => y.tt.isSome) ++ q :: l.dropWhile (fun y => y.tt.isSome) := by
  induction l with
  | nil => rfl
  | cons x t ih => cases h : x.tt.isSome <;> simp [queueFiring, h, ih]

/-- A firing q enters the queue, and one is dropped. -/
def State.enterFiring (s : State) (q : LaunchReq) : State := s.onHost (fun h => { h with launches := queueFiring q h.launches })
def State.dropFiring (s : State) (e : Nat) : State := s.complete (answerOf 0 3 (some e))

/-- The firing of entry e is counted. -/
def State.countFiring (s : State) (e : Nat) : State := s.onK (fun k => { k with ttNext := tset k.ttNext e (tget k.ttNext e 0 + 1) })

/-- A firing of an enabled entry whose time has come, which the device handles by the entry's rule. -/
theorem exec_ttFire {s : State} {e : Fin 256} {at' : Nat} (desc : BitVec 2048) (pm : Placing) (hon : s.k.ttOn e.val = true)
    (ht : s.k.ttTime e.val = some at') (hle : at' ≤ s.timeOn (s.k.pkgs.headD 0)) (hf : s.fnField 5 = 0) :
    exec (.ttFire e desc pm) s = .next (
      let s1 := s.countFiring e.val
      let q : LaunchReq := ⟨desc, pm.pkgmap, 0, some e.val, pm.place⟩
      if s.k.ttRule e.val = 0 then (if s.k.launch.isSome then s1.dropFiring e.val else s1.enterFiring q)
      else if s.k.ttRule e.val = 1 then
        (if s.k.host.launches.any (fun x => x.tt == some e.val) then s1.dropFiring e.val else s1.enterFiring q)
      else s1.cancelLaunch.enterFiring q) := by
  change execTtFire e desc pm s = _
  have hen : (s.k.ttOn e.val && (s.k.ttTime e.val).any (fun t => decide (t ≤ s.ttClock))) = true := by
    simpa [hon, ht, State.ttClock] using hle
  simp only [execTtFire, event_next, hen, if_true, hf]
  split
  next h => simp only [h, if_true]; rfl
  next h => simp only [h]; rfl
  next h0 h1 => rw [if_neg h0, if_neg h1]; rfl

/-! Starts and completions (R318, R322, R347). -/

/-- A waiting launch is taken from the head of the queue. -/
def State.takeLaunch (s : State) (ql : List LaunchReq) : State := s.onHost (fun h => { h with launches := ql })

theorem exec_kill_underWay {s : State} {z : Option (BitVec 256)} (h : s.k.killing = some z) : exec .kill s = .next s.killDone := by
  change execKill s = _
  simp [execKill, h]

theorem exec_launchStart_refused {s : State} {q : LaunchReq} {ql : List LaunchReq} {code : Nat} (hq : s.k.host.launches = q :: ql)
    (hl : s.k.launch = none) (hk : s.k.killing = none) (hw : s.k.host.waiting = []) (hup : ∀ p ∈ s.k.pkgs, (s.pkg p).state ≠ 3)
    (hr : s.refusal q = some code) : exec .launchStart s = .next ((s.takeLaunch ql).refuse q code) := by
  change execLaunchStart s = _
  simp only [execLaunchStart, hq, event_next, hl, hk, hw, s.hostUp_iff.2 hup, hr]
  rfl

theorem exec_launchStart_accepted {s : State} {q : LaunchReq} {ql : List LaunchReq} {i : Loaded} (hq : s.k.host.launches = q :: ql)
    (hl : s.k.launch = none) (hk : s.k.killing = none) (hw : s.k.host.waiting = []) (hup : ∀ p ∈ s.k.pkgs, (s.pkg p).state ≠ 3)
    (hr : s.refusal q = none) (hi : s.k.images.find? (fun y => y.handle == dImage q.desc) = some i) :
    exec .launchStart s = .next (((s.takeLaunch ql).startLaunch q i.img).getD ((s.takeLaunch ql).refuse q 0x15)) := by
  change execLaunchStart s = _
  simp only [execLaunchStart, hq, event_next, hl, hk, hw, s.hostUp_iff.2 hup, hr, hi]
  rfl

/-- While a kill is under way no launch starts. -/
theorem exec_launchStart_killing {s : State} {z : Option (BitVec 256)} (h : s.k.killing = some z) : exec .launchStart s = .next s := by
  change execLaunchStart s = _
  unfold execLaunchStart
  split
  · rfl
  · simp [event_next, h]

/-- The oldest completion is posted. -/
def State.postedFirst (s : State) (c : BitVec 256) (cl : List (BitVec 256)) : State :=
  (s.onHost (fun h => { h with waiting := cl, posted := h.posted ++ [c], cqTail := (h.cqTail + 1) % h.cqSize })).onK
    (fun k => { k with endAt := k.endAt - 1 })

theorem exec_completionPost {s : State} {c : BitVec 256} {cl : List (BitVec 256)} (hw : s.k.host.waiting = c :: cl)
    (hsize : s.k.host.cqSize ≠ 0) (hroom : (s.k.host.cqTail + 1) % s.k.host.cqSize ≠ s.k.host.cqHead) :
    exec .completionPost s = .next (if s.k.endAt = 1 then (s.postedFirst c cl).freeObjs else s.postedFirst c cl) := by
  change execCompletionPost s = _
  simp only [execCompletionPost, hw, event_next]
  rw [if_pos (by simp [hsize, hroom])]
  rfl

end Sys2Proof.Machine

namespace Sys2Proof.Machine

/-! Changes of the context alone. -/

theorem State.InCtx.refl (s : State) : s.InCtx s := rfl

theorem State.InCtx.trans {s t u : State} (h1 : s.InCtx t) (h2 : t.InCtx u) : s.InCtx u := by
  unfold State.InCtx at h1 h2 ⊢
  rw [h2, h1]

theorem State.InCtx.onK {s u : State} (h : s.InCtx u) (f : Ctx → Ctx) : s.InCtx (u.onK f) := by
  unfold State.InCtx at h ⊢
  rw [h]
  rfl

theorem State.InCtx.onHost {s u : State} (h : s.InCtx u) (f : HostSt → HostSt) : s.InCtx (u.onHost f) := h.onK _

theorem State.InCtx.onGroup {s u : State} (h : s.InCtx u) (g : Nat) (f : Group → Group) : s.InCtx (u.onGroup g f) := h.onK _

theorem State.InCtx.onRec {s u : State} (h : s.InCtx u) (t : Nat) (f : Rec → Rec) : s.InCtx (u.onRec t f) := h.onK _

theorem State.InCtx.complete {s u : State} (h : s.InCtx u) (e : BitVec 256) : s.InCtx (u.complete e) := h.onK _

theorem State.InCtx.mem {s u : State} (h : s.InCtx u) : u.mem = s.mem := by
  unfold State.InCtx at h
  rw [h]

/-! The commands (Table 17-4), each accepted. -/

/-- A command x of operation op, without a reserved field set, stands at the head of the queue of a context whose packages have not
failed. -/
def State.Given (s : State) (x : Line) (rest : List Line) (op : Nat) : Prop :=
  s.k.host.cmds = x :: rest ∧ cmdOp x = op ∧ cmdReserved x = false ∧ ∀ p ∈ s.k.pkgs, (s.pkg p).state ≠ 3

/-- The answer to an accepted command waits. -/
def State.Accepted (t : State) (x : Line) : Prop := answerOf (cmdId x) 0x20 none ∈ t.k.host.waiting

/-- The state once command x has been answered. -/
def State.withAnswer (s : State) (x : Line) : State := s.complete (answerOf (cmdId x) 0x20 none)

theorem State.accepted_withAnswer (s : State) (x : Line) : (s.withAnswer x).Accepted x := by
  simp [State.Accepted, State.withAnswer]

/-- What comes of the commands behind an accepted one. -/
def State.drained (t : State) (c : List Line) (w : List (BitVec 256)) : State :=
  t.onHost (fun h => { h with cmds := c, waiting := h.waiting ++ w })

theorem State.inCtx_withAnswer (s : State) (x : Line) : s.InCtx (s.withAnswer x) := (State.InCtx.refl s).complete _

theorem State.InCtx.drained {s t : State} (h : s.InCtx t) (c : List Line) (w : List (BitVec 256)) : s.InCtx (t.drained c w) := h.onHost _

theorem State.drained_tttab (t : State) (c : List Line) (w : List (BitVec 256)) : (t.drained c w).k.tttab = t.k.tttab := rfl

@[simp] theorem State.record_drained (t : State) (c : List Line) (w : List (BitVec 256)) (n : Nat) :
    (t.drained c w).record n = t.record n := rfl

theorem State.Accepted.of_host {s t : State} {x : Line} (h : s.Accepted x) (e : t.k.host = s.k.host) : t.Accepted x := by
  rw [State.Accepted, e]
  exact h

theorem State.Accepted.drained {t : State} {x : Line} (h : t.Accepted x) (c : List Line) (w : List (BitVec 256)) :
    (t.drained c w).Accepted x := List.mem_append_left w h

/-- An accepted command is answered with 0x20 and carried out, which leaves v. -/
theorem State.comes_accepted {s v : State} {i : Instr} {op : Nat} {bad : Line → Bool} {f : Line → State → State} {x : Line}
    {rest : List Line} {p : State → Prop} (he : exec i s = s.command op bad f) (hg : s.Given x rest op) (hop : op ≠ 1)
    (hb : bad x = false) (hv : f x (s.withAnswer x) = v) (ha : v.Accepted x) (hp : ∀ c w, p (v.drained c w)) :
    s.Comes i (fun t => t.Accepted x ∧ p t) := by
  obtain ⟨hc, ho, hr, hup⟩ := hg
  refine State.comes_command he hc ho hup (fun c w => ?_)
  have hans : s.answered x op bad f = f x (s.withAnswer x) := by
    simp [State.answered, hr, hb, hop, State.reply, answerOf, State.withAnswer]
  rw [hans, hv]
  exact ⟨ha.drained c w, hp c w⟩

/-- LAUNCH queues the launch, and the launch is what answers it. -/
theorem State.comes_launch {s : State} {x : Line} {rest : List Line} (desc : BitVec 2048) (pm : Placing) (hg : s.Given x rest 1)
    (hb : cmdArg1 x = 0) : s.Comes (.launch desc pm) (fun t => t.mem = s.mem ∧ s.InCtx t ∧
      t.k.host.launches = s.k.host.launches ++ [⟨desc, pm.pkgmap, cmdId x, none, pm.place⟩] ∧ t.k.recs = s.k.recs) := by
  obtain ⟨hc, hop, hr, hup⟩ := hg
  refine State.comes_command (exec_launch_command s desc pm) hc hop hup (fun c w => ?_)
  have hgood : (cmdReserved x || cmdArg1 x != 0) = false := by simp [hr, hb]
  simp only [State.answered, hgood]
  exact ⟨rfl, rfl, rfl, rfl⟩

theorem LaunchReq.hostCmd_iff (q : LaunchReq) (id : Nat) : q.hostCmd id = true ↔ q.tt = none ∧ q.cmd = id := by
  simp [LaunchReq.hostCmd]

/-- CANCEL of command id a: the host's waiting launches of that id go with status 0x01, and the running one is cancelled. -/
theorem State.comes_hostCancel {s : State} {x : Line} {rest : List Line} {L : Launch} (hg : s.Given x rest 2) (hb : cmdArg1 x = 0)
    (ha : cmdArg0 x < 65536) : s.Comes .hostCancel (fun t => t.Accepted x ∧ t.mem = s.mem ∧
      (∀ y ∈ t.k.host.launches, y ∈ s.k.host.launches ∧ ¬ (y.tt = none ∧ y.cmd = cmdArg0 x)) ∧
      (∀ y ∈ s.k.host.launches, y.tt = none → y.cmd = cmdArg0 x → answerOf (cmdArg0 x) 1 none ∈ t.k.host.waiting) ∧
      (s.k.launch = some L → L.tt = none → L.cmd = cmdArg0 x → s.liveGroup L.root = true → (t.group L.root).cancelling = true)) := by
  have hbad : (cmdArg1 x != 0 || decide (65536 ≤ cmdArg0 x)) = false := by simp [hb, ha]
  have hhost := State.cancelCmd_host (s.withAnswer x) (cmdArg0 x)
  refine State.comes_accepted (exec_hostCancel_command s) hg (by decide) hbad rfl ?_ (fun c w => ⟨State.cancelCmd_mem _ _, ?_, ?_, ?_⟩)
  · rw [State.Accepted, hhost]
    exact List.mem_append_left _ (s.accepted_withAnswer x)
  · intro y hy
    have hleft : ((s.withAnswer x).cancelCmd (cmdArg0 x)).k.host.launches =
        s.k.host.launches.filter (fun q => !q.hostCmd (cmdArg0 x)) := by rw [hhost]; rfl
    have hy : y ∈ ((s.withAnswer x).cancelCmd (cmdArg0 x)).k.host.launches := hy
    rw [hleft, List.mem_filter, Bool.not_eq_true', ← Bool.not_eq_true, LaunchReq.hostCmd_iff] at hy
    exact hy
  · intro y hy htt hcmd
    have hmem : answerOf (cmdArg0 x) 1 none ∈ (((s.withAnswer x).cancelCmd (cmdArg0 x)).k.host).waiting := by
      rw [hhost]
      refine List.mem_append_right _ (List.mem_map.2 ⟨y, List.mem_filter.2 ⟨hy, (y.hostCmd_iff _).2 ⟨htt, hcmd⟩⟩, ?_⟩)
      rw [htt, hcmd]
    exact List.mem_append_left w hmem
  · exact fun hL htt hcmd hlive => State.cancelCmd_cancelling (s := s.withAnswer x) hL htt hcmd hlive

/-- SETCLASS of a live group: the override goes, or it is set and its records take the class, with their next commit where a core
holds them. -/
theorem State.comes_setclass {s : State} {x : Line} {rest : List Line} (hg : s.Given x rest 3) (hb : cmdArg1 x = 0)
    (ha : cmdArg0 x < 2 ^ 37) (hlive : s.liveGroup (cmdArg0 x % 2 ^ 32) = true) :
    s.Comes .setclass (fun t => t.Accepted x ∧ t.mem = s.mem ∧ s.InCtx t ∧
      (cmdArg0 x / 2 ^ 36 = 1 → (t.group (cmdArg0 x % 2 ^ 32)).ovr = none ∧ t.k.recs = s.k.recs) ∧
      (cmdArg0 x / 2 ^ 36 = 0 → (t.group (cmdArg0 x % 2 ^ 32)).ovr = some (cmdArg0 x / 2 ^ 32 % 16) ∧
        ∀ m, tget? t.k.recs m = (tget? s.k.recs m).map (fun y =>
          if y.f.gid = cmdArg0 x % 2 ^ 32 then y.reclass (cmdArg0 x / 2 ^ 32 % 16) else y))) := by
  have hbad : (cmdArg1 x != 0 || decide (2 ^ 37 ≤ cmdArg0 x)) = false := by
    rw [hb, decide_eq_false (Nat.not_le.2 ha)]; rfl
  have h01 : cmdArg0 x / 2 ^ 36 = 1 ∨ cmdArg0 x / 2 ^ 36 = 0 := by omega
  have hlive' : (s.withAnswer x).liveGroup (cmdArg0 x % 2 ^ 32) = true := hlive
  rcases h01 with h1 | h0
  · have hin := (s.inCtx_withAnswer x).onGroup (cmdArg0 x % 2 ^ 32) (fun y => { y with ovr := none })
    have hovr := congrArg Group.ovr (State.group_onGroup_live hlive' (fun y => { y with ovr := none }))
    refine State.comes_accepted (exec_setclass_command s) hg (by decide) hbad (State.setOverride_remove hlive' h1)
      (s.accepted_withAnswer x) (fun c w => ⟨(hin.drained c w).mem, hin.drained c w, fun _ => ⟨hovr, rfl⟩, fun h0 => ?_⟩)
    rw [h1] at h0; cases h0
  · have hin := ((s.inCtx_withAnswer x).onGroup (cmdArg0 x % 2 ^ 32) (fun y => { y with ovr := some (cmdArg0 x / 2 ^ 32 % 16) })).onK
      (fun k => { k with recs := k.recs.map (fun e =>
        if e.2.f.gid = cmdArg0 x % 2 ^ 32 then (e.1, e.2.reclass (cmdArg0 x / 2 ^ 32 % 16)) else e) })
    have hovr := congrArg Group.ovr (State.group_onGroup_live hlive' (fun y => { y with ovr := some (cmdArg0 x / 2 ^ 32 % 16) }))
    refine State.comes_accepted (exec_setclass_command s) hg (by decide) hbad (State.setOverride_set hlive' h0)
      (s.accepted_withAnswer x) (fun c w => ⟨(hin.drained c w).mem, hin.drained c w, fun h1 => ?_, fun _ => ⟨hovr, fun m => ?_⟩⟩)
    · rw [h0] at h1; cases h1
    · exact tget?_map_where (fun y : Rec => y.f.gid = cmdArg0 x % 2 ^ 32) (Rec.reclass (cmdArg0 x / 2 ^ 32 % 16)) s.k.recs m

/-- RELEASE of a HELD record whose group is not cancelling: it is READY, at its PC or at the one given. -/
theorem State.comes_release {s : State} {x : Line} {rest : List Line} (hg : s.Given x rest 4) (ha : cmdArg0 x < 2 ^ 32)
    (hheld : (s.record (cmdArg0 x)).st = .held) (hcan : (s.group (s.record (cmdArg0 x)).f.gid).cancelling = false) :
    s.Comes .release (fun t => t.Accepted x ∧ t.mem = s.mem ∧ s.InCtx t ∧ s.RecsBut t (cmdArg0 x) ∧
      (t.record (cmdArg0 x)).st = .ready ∧ (t.record (cmdArg0 x)).f.tpd = false ∧ (t.record (cmdArg0 x)).f.pc =
        pc60 (if cmdArg1 x = 0 then (s.record (cmdArg0 x)).f.pc else BitVec.ofNat 64 (cmdArg1 x))) := by
  have hbad : decide (2 ^ 32 ≤ cmdArg0 x) = false := decide_eq_false (Nat.not_le.2 ha)
  obtain ⟨hin, hhost, hothers, hrec⟩ := State.releaseHeld_effect (s := s.withAnswer x) hheld hcan
    (if cmdArg1 x = 0 then none else some (BitVec.ofNat 64 (cmdArg1 x)))
  have hin : s.InCtx _ := (s.inCtx_withAnswer x).trans hin
  refine State.comes_accepted (exec_release_command s) hg (by decide) hbad rfl ((s.accepted_withAnswer x).of_host hhost)
    (fun c w => ⟨(hin.drained c w).mem, hin.drained c w, hothers, ?_⟩)
  rw [State.record_drained, hrec]
  refine ⟨rfl, rfl, ?_⟩
  simp only [Rec.released]
  split <;> rfl

/-- KILL of a context that runs a launch. -/
theorem State.comes_kill {s : State} {x : Line} {rest : List Line} {L : Launch} (hg : s.Given x rest 5) (ha : cmdArg0 x = 0)
    (hb : cmdArg1 x = 0) (hk : s.k.killing = none) (hL : s.k.launch = some L) :
    s.Comes .kill (fun t => t.Accepted x ∧ t.mem = s.mem ∧ t.k.launch = none ∧ t.k.recs = [] ∧
      t.k.killing = some (some (answerOf L.cmd 2 L.tt))) := by
  have hbad : (cmdArg0 x != 0 || cmdArg1 x != 0) = false := by simp [ha, hb]
  refine State.comes_accepted (exec_kill_command hk) hg (by decide) hbad rfl ?_
    (fun c w => ⟨State.killCtx_mem _, rfl, rfl, State.killCtx_killing (s := s.withAnswer x) hk hL⟩)
  rw [State.Accepted, State.killCtx_host]
  exact s.accepted_withAnswer x

/-- TTWRITE of an entry with good fields. -/
theorem State.comes_ttwrite {s : State} {x : Line} {rest : List Line} {bytes : BitVec 256} (hg : s.Given x rest 6)
    (ha : cmdArg0 x < 256) (h8 : (quad bytes 3).toNat < 8) (h3 : (quad bytes 3).toNat / 2 ≠ 3) :
    s.Comes (.ttwrite bytes) (fun t => t.Accepted x ∧ t.mem = s.mem ∧ s.InCtx t ∧
      ∀ j < 4, tget t.k.tttab (4 * cmdArg0 x + j) 0 = quad bytes j) := by
  have hbad : (decide (256 ≤ cmdArg0 x) || decide (8 ≤ (quad bytes 3).toNat) || (quad bytes 3).toNat / 2 == 3) = false := by
    rw [decide_eq_false (Nat.not_le.2 ha), decide_eq_false (Nat.not_le.2 h8), beq_eq_false_iff_ne.2 h3]; rfl
  obtain ⟨hin, hhost, hwords⟩ := (s.withAnswer x).writeEntry_effect (cmdArg0 x) bytes (s.withAnswer x).ttClock
  have hin : s.InCtx _ := (s.inCtx_withAnswer x).trans hin
  refine State.comes_accepted (v := (s.withAnswer x).writeEntry (cmdArg0 x) bytes (s.withAnswer x).ttClock)
    (exec_ttwrite_command s bytes) hg (by decide) hbad rfl ((s.accepted_withAnswer x).of_host hhost)
    (fun c w => ⟨(hin.drained c w).mem, hin.drained c w, ?_⟩)
  rw [State.drained_tttab]
  exact hwords

/-- PREEMPT of a core of a service context. -/
theorem State.comes_preempt {s : State} {x : Line} {rest : List Line} (hg : s.Given x rest 7) (hb : cmdArg1 x = 0)
    (hs : s.k.service = true) (ha : cmdArg0 x < s.lcount) : s.Comes .preempt (fun t => t.Accepted x ∧ t.mem = s.mem ∧ s.InCtx t ∧
      (t.core (cmdArg0 x)).asked = true ∧ s.CoresBut t (cmdArg0 x)) := by
  have hbad : (cmdArg1 x != 0 || !s.k.service || decide (s.lcount ≤ cmdArg0 x)) = false := by
    rw [hb, hs, decide_eq_false (Nat.not_le.2 ha)]; rfl
  refine State.comes_accepted (exec_preempt_command s) hg (by decide) hbad rfl (s.accepted_withAnswer x)
    (fun c w => ⟨rfl, rfl, ?_, fun m hm => tget_tset_other _ _ _ _ _ hm⟩)
  exact congrArg CoreSt.asked (tget_tset_same s.k.cores (cmdArg0 x) _ _)

/-! Firings (R318). -/

/-- What a firing leaves that enters the queue of a state that holds the host's registers h. -/
theorem State.enterFiring_host {s : State} {h : HostSt} (hh : s.k.host = h) (q : LaunchReq) :
    (s.enterFiring q).k.host.waiting = h.waiting ∧
      (s.enterFiring q).k.host.launches = h.launches.takeWhile (fun y => y.tt.isSome) ++ q :: h.launches.dropWhile (fun y => y.tt.isSome) := by
  subst hh
  exact ⟨rfl, queueFiring_eq q _⟩

theorem State.inCtx_enterFiring (s : State) (e : Nat) (q : LaunchReq) : s.InCtx ((s.countFiring e).enterFiring q) :=
  ((State.InCtx.refl s).onK _).onHost _

theorem State.inCtx_dropFiring (s : State) (e : Nat) : s.InCtx ((s.countFiring e).dropFiring e) :=
  ((State.InCtx.refl s).onK _).complete _

/-- A firing that replaces the running launch cancels its root group. -/
theorem State.replaceFiring_effect {s : State} {L : Launch} (e : Nat) (q : LaunchReq) (hL : s.k.launch = some L)
    (hlive : s.liveGroup L.root = true) : ((s.countFiring e).cancelLaunch.enterFiring q).mem = s.mem ∧
      (s.countFiring e).cancelLaunch.k.host = s.k.host ∧
      (((s.countFiring e).cancelLaunch.enterFiring q).group L.root).cancelling = true :=
  ⟨(s.countFiring e).cancelLaunch_mem, (s.countFiring e).cancelLaunch_host,
    State.cancelLaunch_cancelling (s := s.countFiring e) hL hlive⟩

/-! Completions (R322, R347). -/

/-- The posted completion takes the objects of an ended launch with it. -/
theorem State.comes_completionPost {s : State} {c : BitVec 256} {cl : List (BitVec 256)} (hw : s.k.host.waiting = c :: cl)
    (hsize : s.k.host.cqSize ≠ 0) (hroom : (s.k.host.cqTail + 1) % s.k.host.cqSize ≠ s.k.host.cqHead) :
    s.Comes .completionPost (fun t => t.mem = s.mem ∧ (s.k.endAt ≠ 1 → s.InCtx t ∧ t.k.objs = s.k.objs) ∧
      (s.k.endAt = 1 → t.k.objs = []) ∧ t.k.host = { s.k.host with
        waiting := cl, posted := s.k.host.posted ++ [c], cqTail := (s.k.host.cqTail + 1) % s.k.host.cqSize }) := by
  refine ⟨_, exec_completionPost hw hsize hroom, ?_⟩
  by_cases hend : s.k.endAt = 1
  · rw [if_pos hend]
    exact ⟨(s.postedFirst c cl).freeObjs_mem, fun h => absurd hend h, fun _ => rfl,
      congrArg (fun x => x.1) (s.postedFirst c cl).freeObjs_launchPart⟩
  · rw [if_neg hend]
    exact ⟨rfl, fun _ => ⟨rfl, rfl⟩, fun h => absurd h hend, rfl⟩

/-! Records under a class override. -/

theorem Rec.reclass_ready {r : Rec} (c : Nat) (h : r.st = .ready) : (r.reclass c).f.cls = c ∧ (r.reclass c).newCls = none := by
  unfold Rec.reclass
  rw [h]
  exact ⟨rfl, rfl⟩

theorem Rec.reclass_active {r : Rec} {l : Nat} (c : Nat) (h : r.st = .active l) :
    (r.reclass c).newCls = some c ∧ (r.reclass c).f.cls = r.f.cls := by
  unfold Rec.reclass
  rw [h]
  exact ⟨rfl, rfl⟩

theorem State.record_of_listed {s : State} {m : Nat} {r : Rec} (h : tget? s.k.recs m = some r) : s.record m = r := by
  simp [State.record, tget, h]

/-- Settles O57: each command is State.comes_accepted with what it does, each firing exec_ttFire by its rule, and the start is
State.Started. -/
theorem launchesAndCommandsAreCarriedOut : Obligations.LaunchesAndCommandsAreCarriedOut := by
  unfold Obligations.LaunchesAndCommandsAreCarriedOut
  intro s x rest desc pm bytes e q ql code at' i u c cl L ins h a b up given done ok fires firing drops enters
  refine ⟨fun hc hup hop hr hkill hins => ?_, fun hg hb => s.comes_launch desc pm hg hb, fun hg hb ha => ?_, fun hg hb ha hlive => ?_,
    fun hg ha hheld hcan => ?_, fun hg ha hb hk hL => ?_, fun z hz => ⟨?_, exec_launchStart_killing hz⟩, fun hg ha h8 h3 => ?_,
    fun hg hb hserv ha => ?_, fun hfires => ?_, fun hq hl hk hw hup => ?_, fun hw hsize hroom => State.comes_completionPost hw hsize hroom⟩
  · rcases hins with ⟨rfl, h1⟩ | ⟨rfl, h2⟩ | ⟨rfl, h3⟩ | ⟨rfl, h4⟩ | ⟨rfl, h5⟩ | ⟨rfl, h6⟩ | ⟨rfl, h7⟩
    · exact State.comes_command_reserved (exec_launch_command s desc pm) hc h1 hup hr
    · exact State.comes_command_reserved (exec_hostCancel_command s) hc h2 hup hr
    · exact State.comes_command_reserved (exec_setclass_command s) hc h3 hup hr
    · exact State.comes_command_reserved (exec_release_command s) hc h4 hup hr
    · exact State.comes_command_reserved (exec_kill_command (hkill h5)) hc h5 hup hr
    · exact State.comes_command_reserved (exec_ttwrite_command s bytes) hc h6 hup hr
    · exact State.comes_command_reserved (exec_preempt_command s) hc h7 hup hr
  · obtain ⟨t, ht, hok, hmem, hleft, hgone, hcancel⟩ := State.comes_hostCancel (L := L) hg hb ha
    exact ⟨t, ht, hmem, hok, hleft, hgone, hcancel⟩
  · obtain ⟨t, ht, hok, hmem, hin, hremove, hset⟩ := State.comes_setclass hg hb ha hlive
    refine ⟨t, ht, hmem, hok, hin, hremove, fun h0 => ?_⟩
    obtain ⟨hovr, hrecs⟩ := hset h0
    refine ⟨hovr, fun m y hy => ?_⟩
    have hm := hrecs m
    rw [hy, Option.map_some] at hm
    by_cases hgid : y.f.gid = a % 2 ^ 32
    · rw [if_pos hgid] at hm ⊢
      rw [State.record_of_listed hm]
      exact ⟨y.reclass_st _, Rec.reclass_ready _, fun l => Rec.reclass_active _⟩
    · rw [if_neg hgid] at hm ⊢
      exact hm
  · obtain ⟨t, ht, hok, hmem, hrest⟩ := State.comes_release hg ha hheld hcan
    exact ⟨t, ht, hmem, hok, hrest⟩
  · obtain ⟨t, ht, hok, hmem, hrest⟩ := State.comes_kill hg ha hb hk hL
    exact ⟨t, ht, hmem, hok, hrest⟩
  · refine ⟨_, exec_kill_underWay hz, ?_⟩
    rw [State.killDone_eq hz]
    exact ⟨rfl, rfl, rfl, rfl, rfl⟩
  · obtain ⟨t, ht, hok, hmem, hrest⟩ := State.comes_ttwrite hg ha h8 h3
    exact ⟨t, ht, hmem, hok, hrest⟩
  · obtain ⟨t, ht, hok, hmem, hrest⟩ := State.comes_preempt hg hb hserv ha
    exact ⟨t, ht, hmem, hok, hrest⟩
  · obtain ⟨hon, ht, hle, hf⟩ := hfires
    have hexec := exec_ttFire desc pm hon ht hle hf
    have henters : enters ((s.countFiring e.val).enterFiring firing) := (s.countFiring e.val).enterFiring_host rfl firing
    have hin := s.inCtx_enterFiring e.val firing
    have hdrop := s.inCtx_dropFiring e.val
    refine ⟨fun h0 hl => ?_, fun h0 hl => ?_, fun h1 hy => ?_, fun h1 hy => ?_, fun h2 hL hlive => ?_⟩
    · rw [h0, if_pos rfl, hl] at hexec
      exact ⟨_, hexec, hin.mem, hin, henters⟩
    · rw [h0, if_pos rfl, if_pos hl] at hexec
      exact ⟨_, hexec, hdrop.mem, hdrop, rfl, rfl⟩
    · have hany : h.launches.any (fun x => x.tt == some e.val) = true := by simpa using hy
      rw [h1, if_neg (by decide), if_pos rfl, if_pos hany] at hexec
      exact ⟨_, hexec, hdrop.mem, hdrop, rfl, rfl⟩
    · have hnone : ¬ h.launches.any (fun x => x.tt == some e.val) = true := by simpa using hy
      rw [h1, if_neg (by decide), if_pos rfl, if_neg hnone] at hexec
      exact ⟨_, hexec, hin.mem, hin, henters⟩
    · rw [h2, if_neg (by decide), if_neg (by decide)] at hexec
      obtain ⟨hmem, hhost, hcancel⟩ := State.replaceFiring_effect e.val firing hL hlive
      exact ⟨_, hexec, hmem, State.enterFiring_host hhost firing, hcancel⟩
  · refine ⟨fun hr => ?_, fun hr hi => ⟨fun hu => ?_, fun hu => ?_⟩⟩
    · refine ⟨_, exec_launchStart_refused hq hl hk hw hup hr, rfl, rfl, rfl, hl, ?_⟩
      exact congrArg (fun l => l ++ [answerOf q.cmd code q.tt]) hw
    · have hu : (s.takeLaunch ql).startLaunch q i.img = none := hu
      have hexec := exec_launchStart_accepted hq hl hk hw hup hr hi
      rw [hu, Option.getD_none] at hexec
      exact ⟨_, hexec, rfl, rfl, hl, congrArg (fun l => l ++ [answerOf q.cmd 0x15 q.tt]) hw⟩
    · have hu : (s.takeLaunch ql).startLaunch q i.img = some u := hu
      have hexec := exec_launchStart_accepted hq hl hk hw hup hr hi
      rw [hu, Option.getD_some] at hexec
      obtain ⟨hhost, hseq, hrf, hfences, hready, hgid, hstatus, hlaunch⟩ := State.started_of_startLaunch hu
      exact ⟨u, hexec, congrArg HostSt.launches hhost, hrf, hfences, hseq, hready, hgid, hstatus, hlaunch⟩

end Sys2Proof.Machine

namespace Sys2Proof.Machine

/-! Rounding to an integer (Table 3-3). -/

theorem scaleQ_pos (q : Int) : 0 < (scaleQ q).1 ∧ 0 < (scaleQ q).2 := by
  unfold scaleQ
  split
  next => exact ⟨Nat.one_pos, Nat.two_pow_pos _⟩
  next => exact ⟨Nat.two_pow_pos _, Nat.one_pos⟩

/-- Does a mode take a quotient fl with a rest, of a divisor u, to fl + 1? -/
def RMode.up (rm : RMode) (neg : Bool) (fl rest u : Nat) : Bool :=
  match rm with
  | .rne => decide (u < 2 * rest) || (2 * rest == u && fl % 2 == 1)
  | .rtz => false
  | .rdn => neg && rest != 0
  | .rup => !neg && rest != 0

/-- n / u rounded to an integer in a mode. -/
def RMode.divide (rm : RMode) (neg : Bool) (n u : Nat) : Nat :=
  if rm.up neg (n / u) (n % u) u then n / u + 1 else n / u

theorem roundInt_eq (rm : RMode) (neg : Bool) (num den : Nat) (q : Int) :
    roundInt rm neg num den q = (rm.divide neg (num * (scaleQ q).2) (den * (scaleQ q).1),
      num * (scaleQ q).2 % (den * (scaleQ q).1) == 0) := rfl

theorem RMode.up_of_exact (rm : RMode) (neg : Bool) (fl : Nat) {u : Nat} (hu : 0 < u) : rm.up neg fl 0 u = false := by
  cases rm
  case rne => simp [RMode.up]; omega
  all_goals simp [RMode.up]

theorem RMode.divide_of_exact (rm : RMode) (neg : Bool) {n u : Nat} (hu : 0 < u) (h : n % u = 0) : rm.divide neg n u = n / u := by
  rw [RMode.divide, h, RMode.up_of_exact _ _ _ hu, if_neg Bool.false_ne_true]

/-- The rounded quotient is the quotient below or the one above, and the latter only where there is a rest. -/
theorem RMode.divide_cases (rm : RMode) (neg : Bool) {n u : Nat} (hu : 0 < u) :
    (rm.up neg (n / u) (n % u) u = false ∧ rm.divide neg n u * u + n % u = n) ∨
      (rm.up neg (n / u) (n % u) u = true ∧ 0 < n % u ∧ rm.divide neg n u * u + n % u = n + u) := by
  have hdiv : n / u * u + n % u = n := Nat.div_add_mod' n u
  cases hup : rm.up neg (n / u) (n % u) u with
  | false => exact .inl ⟨rfl, by simp [RMode.divide, hup, hdiv]⟩
  | true =>
    have hrest : n % u ≠ 0 := fun h0 => by simp [h0, RMode.up_of_exact _ _ _ hu] at hup
    refine .inr ⟨rfl, Nat.pos_of_ne_zero hrest, ?_⟩
    simp only [RMode.divide, hup, if_true, Nat.add_one_mul]
    omega

theorem RMode.divide_exact_iff (rm : RMode) (neg : Bool) {n u : Nat} (hu : 0 < u) : n % u = 0 ↔ rm.divide neg n u * u = n := by
  have hlt : n % u < u := Nat.mod_lt _ hu
  rcases rm.divide_cases neg (n := n) hu with ⟨-, h⟩ | ⟨-, hpos, h⟩ <;> omega

/-- RNE: a nearest multiple, the even one of two. -/
theorem RMode.divide_rne (neg : Bool) {n u : Nat} (hu : 0 < u) :
    let r := RMode.rne.divide neg n u
    2 * (r * u) ≤ 2 * n + u ∧ 2 * n ≤ 2 * (r * u) + u ∧ (2 * (r * u) = 2 * n + u ∨ 2 * n = 2 * (r * u) + u → r % 2 = 0) := by
  intro r
  have hlt : n % u < u := Nat.mod_lt _ hu
  rcases RMode.rne.divide_cases neg (n := n) hu with ⟨hup, h⟩ | ⟨hup, -, h⟩ <;> change r * u + n % u = _ at h
  · have hr : r = n / u := by simp [r, RMode.divide, hup]
    simp only [RMode.up, Bool.or_eq_false_iff, Bool.and_eq_false_iff, decide_eq_false_iff_not, beq_eq_false_iff_ne, ← hr] at hup
    omega
  · have hr : r = n / u + 1 := by simp [r, RMode.divide, hup]
    simp only [RMode.up, Bool.or_eq_true, Bool.and_eq_true, decide_eq_true_eq, beq_iff_eq] at hup
    omega

theorem RMode.up_rtz {neg : Bool} (fl rest u : Nat) : RMode.rtz.up neg fl rest u = false := rfl
theorem RMode.up_rdn_pos (fl rest u : Nat) : RMode.rdn.up false fl rest u = false := rfl
theorem RMode.up_rdn_neg (fl rest u : Nat) : RMode.rdn.up true fl rest u = (rest != 0) := rfl
theorem RMode.up_rup_pos (fl rest u : Nat) : RMode.rup.up false fl rest u = (rest != 0) := rfl
theorem RMode.up_rup_neg (fl rest u : Nat) : RMode.rup.up true fl rest u = false := rfl

/-- A directed mode goes down when it does not ask for the side above. -/
theorem RMode.divide_down {rm : RMode} {neg : Bool} (hrm : ∀ fl rest u, rm.up neg fl rest u = false) {n u : Nat} (hu : 0 < u) :
    rm.divide neg n u * u ≤ n ∧ n < (rm.divide neg n u + 1) * u := by
  have hlt : n % u < u := Nat.mod_lt _ hu
  rcases rm.divide_cases neg (n := n) hu with ⟨-, h⟩ | ⟨hup, -, -⟩
  · rw [Nat.add_one_mul]; omega
  · rw [hrm] at hup; contradiction

/-- One that asks for the side above goes up unless the quotient is exact. -/
theorem RMode.divide_up {rm : RMode} {neg : Bool} (hrm : ∀ fl rest u, rm.up neg fl rest u = (rest != 0)) {n u : Nat} (hu : 0 < u) :
    n ≤ rm.divide neg n u * u ∧ rm.divide neg n u * u < n + u := by
  have hlt : n % u < u := Nat.mod_lt _ hu
  rcases rm.divide_cases neg (n := n) hu with ⟨hup, h⟩ | ⟨-, hpos, h⟩
  · have hrest : n % u = 0 := by simpa [hrm] using hup
    omega
  · omega

/-! Values that a format holds. -/

/-- What is a multiple of 2^e rounds to itself at that unit. -/
theorem roundInt_scaleQ (rm : RMode) (neg : Bool) (m : Nat) (e : Int) :
    roundInt rm neg (m * (scaleQ e).1) (scaleQ e).2 e = (m, true) := by
  obtain ⟨h1, h2⟩ := scaleQ_pos e
  have hu : 0 < (scaleQ e).2 * (scaleQ e).1 := Nat.mul_pos h2 h1
  have hn : m * (scaleQ e).1 * (scaleQ e).2 = m * ((scaleQ e).2 * (scaleQ e).1) := by
    rw [Nat.mul_assoc, Nat.mul_comm (scaleQ e).1]
  have hrest : m * ((scaleQ e).2 * (scaleQ e).1) % ((scaleQ e).2 * (scaleQ e).1) = 0 := Nat.mul_mod_left ..
  rw [roundInt_eq, hn, RMode.divide_of_exact _ _ hu hrest, Nat.mul_div_cancel _ hu, hrest]
  rfl

theorem log2_mul_two_pow {m : Nat} (hm : m ≠ 0) (k : Nat) : (m * 2 ^ k).log2 = m.log2 + k := by
  have hpos : 0 < 2 ^ k := Nat.two_pow_pos k
  rw [Nat.log2_eq_iff (Nat.mul_ne_zero hm (Nat.ne_of_gt hpos))]
  have hlt : m < 2 ^ (m.log2 + 1) := Nat.lt_log2_self
  refine ⟨?_, ?_⟩
  · rw [Nat.pow_add]; exact Nat.mul_le_mul_right _ (Nat.log2_self_le hm)
  · rw [Nat.add_right_comm, Nat.pow_add]; exact Nat.mul_lt_mul_of_pos_right hlt hpos

theorem scaleQ_add (k : Nat) (e : Int) :
    (scaleQ e).2 * (scaleQ (k + e)).1 = 2 ^ k * (scaleQ e).1 * (scaleQ (k + e)).2 := by
  rcases Int.lt_or_le e 0 with he | he
  · rcases Int.lt_or_le (k + e) 0 with hk | hk
    · simp only [scaleQ, if_pos he, if_pos hk, Nat.mul_one, ← Nat.pow_add]
      congr 1; omega
    · simp only [scaleQ, if_pos he, if_neg (Int.not_lt.2 hk), Nat.mul_one, ← Nat.pow_add]
      congr 1; omega
  · have hk : ¬ (k + e : Int) < 0 := by omega
    simp only [scaleQ, if_neg (Int.not_lt.2 he), if_neg hk, Nat.one_mul, Nat.mul_one, ← Nat.pow_add]
    congr 1; omega

theorem ltPow_log2 {m : Nat} (hm : m ≠ 0) (e : Int) : ltPow (m * (scaleQ e).1) (scaleQ e).2 ((m.log2 : Int) + e) = false := by
  have hle : 2 ^ m.log2 * ((scaleQ e).1 * (scaleQ (m.log2 + e)).2) ≤ m * ((scaleQ e).1 * (scaleQ (m.log2 + e)).2) :=
    Nat.mul_le_mul_right _ (Nat.log2_self_le hm)
  rw [ltPow, decide_eq_false_iff_not, Nat.not_lt, scaleQ_add, Nat.mul_assoc, Nat.mul_assoc]
  exact hle

theorem ilog2Q_scaleQ {m : Nat} (hm : m ≠ 0) (e : Int) : ilog2Q (m * (scaleQ e).1) (scaleQ e).2 = (m.log2 : Int) + e := by
  have hlog : (((m * (scaleQ e).1).log2 : Int) - (scaleQ e).2.log2) = (m.log2 : Int) + e := by
    unfold scaleQ
    split
    next he => simp only [Nat.mul_one, Nat.log2_two_pow]; omega
    next he => simp only [log2_mul_two_pow hm, show Nat.log2 1 = 0 from rfl]; omega
  simp only [ilog2Q, hlog, ltPow_log2 hm, Bool.false_eq_true, if_false]

/-- A value whose leading bit fits above the least unit keeps its unit, and rounds without a flag. -/
theorem roundE_of_held (f : FFmt) (rm : RMode) (neg : Bool) {m : Nat} {e : Int} (hm : m ≠ 0)
    (he : max ((m.log2 : Int) + e - f.mb) f.qmin = e) (hfin : (e - f.qmin).toNat * 2 ^ f.mb + m < f.infBits) :
    roundE f rm neg m e = ((if neg then f.signBit else 0) + ((e - f.qmin).toNat * 2 ^ f.mb + m), 0) := by
  have hnum : m * (scaleQ e).1 ≠ 0 := Nat.mul_ne_zero hm (Nat.ne_of_gt (scaleQ_pos e).1)
  simp only [roundE, roundQ, if_neg hnum, ilog2Q_scaleQ hm, he, roundInt_scaleQ, if_neg (Nat.not_le.2 hfin), if_true]

theorem roundE_zero (f : FFmt) (rm : RMode) (neg : Bool) (e : Int) : roundE f rm neg 0 e = (if neg then f.signBit else 0, 0) := by
  simp [roundE, roundQ]

/-- The sign, the exponent and the fraction of a pattern make it up (Table 3-1). -/
theorem FFmt.pattern_eq (f : FFmt) {x : Nat} (hx : x < 2 ^ f.width) :
    x = (if x / f.signBit % 2 == 1 then f.signBit else 0) + (x / 2 ^ f.mb % 2 ^ f.eb * 2 ^ f.mb + x % 2 ^ f.mb) := by
  have hsign : x / f.signBit < 2 := Nat.div_lt_of_lt_mul (by rw [FFmt.signBit, ← Nat.pow_succ]; exact hx)
  have hlow : x % f.signBit = x / 2 ^ f.mb % 2 ^ f.eb * 2 ^ f.mb + x % 2 ^ f.mb := by
    rw [FFmt.signBit, Nat.pow_add, Nat.mod_mul, Nat.add_comm, Nat.mul_comm]
  have hdiv : x / f.signBit * f.signBit + x % f.signBit = x := Nat.div_add_mod' ..
  rw [hlow] at hdiv
  rcases Nat.eq_zero_or_pos (x / f.signBit) with h | hpos
  · rw [h, Nat.zero_mul] at hdiv
    simpa [h] using hdiv.symm
  · have h : x / f.signBit = 1 := Nat.le_antisymm (Nat.le_of_lt_succ hsign) hpos
    rw [h, Nat.one_mul] at hdiv
    simpa [h] using hdiv.symm

theorem FFmt.signed_lt_infBits (f : FFmt) {e m : Nat} (he : e < 2 ^ f.eb - 1) (hm : m < 2 ^ f.mb) : e * 2 ^ f.mb + m < f.infBits := by
  calc e * 2 ^ f.mb + m < (e + 1) * 2 ^ f.mb := by rw [Nat.add_one_mul]; omega
    _ ≤ f.infBits := Nat.mul_le_mul_right _ he

/-- A pattern that is no NaN stands for a value that rounds to it, without a flag, in every mode. -/
theorem roundV_unpackF (f : FFmt) (rm : RMode) {x : Nat} (hx : x < 2 ^ f.width) (hn : (unpackF f x).isNan = false) :
    roundV f rm (unpackF f x) = (x, 0) := by
  have hpat := f.pattern_eq hx
  have hm : x % 2 ^ f.mb < 2 ^ f.mb := Nat.mod_lt _ (Nat.two_pow_pos _)
  have he : x / 2 ^ f.mb % 2 ^ f.eb < 2 ^ f.eb := Nat.mod_lt _ (Nat.two_pow_pos _)
  unfold unpackF at hn ⊢
  generalize (x / f.signBit % 2 == 1) = neg at *
  generalize x / 2 ^ f.mb % 2 ^ f.eb = e at *
  generalize x % 2 ^ f.mb = m at *
  subst hpat
  by_cases hinf : e = 2 ^ f.eb - 1
  · by_cases h0 : m = 0
    · simp [hinf, h0, roundV, infRes, FFmt.infBits]
    · simp [hinf, h0, FVal.isNan] at hn
  · have hlt : e < 2 ^ f.eb - 1 := by omega
    have hfin := f.signed_lt_infBits hlt hm
    rw [if_neg hinf]
    by_cases hsub : e = 0
    · subst hsub
      by_cases h0 : m = 0
      · subst h0
        simp [roundV, roundE_zero]
      · have hlog : m.log2 < f.mb := (Nat.log2_lt h0).2 hm
        rw [if_pos rfl, roundV, roundE_of_held f rm neg h0 (by omega) (by simpa using hfin)]
        simp
    · have hpos : 2 ^ f.mb + m ≠ 0 := Nat.ne_of_gt (Nat.add_pos_left (Nat.two_pow_pos _) _)
      have hlog : (2 ^ f.mb + m).log2 = f.mb := by
        rw [Nat.log2_eq_iff hpos, Nat.pow_succ]; omega
      have hbits : (f.qmin + e - 1 - f.qmin).toNat * 2 ^ f.mb + (2 ^ f.mb + m) = e * 2 ^ f.mb + m := by
        obtain ⟨k, rfl⟩ := Nat.exists_eq_succ_of_ne_zero hsub
        rw [show (f.qmin + (k + 1 : Nat) - 1 - f.qmin).toNat = k by omega, Nat.succ_mul, Nat.add_assoc]
      rw [if_neg hsub, roundV, roundE_of_held f rm neg hpos (by rw [hlog]; omega) (by rw [hbits]; exact hfin), hbits]

/-- Settles O12: a pattern's value keeps its unit (roundE_of_held), and roundInt is RMode.divide, mode by mode. -/
theorem roundingIsNearestOrDirected : Obligations.RoundingIsNearestOrDirected := by
  unfold Obligations.RoundingIsNearestOrDirected
  refine ⟨fun f rm x _ hx hn => roundV_unpackF f rm hx hn, fun rm neg num den q hden => ?_⟩
  have hu : 0 < den * (scaleQ q).1 := Nat.mul_pos hden (scaleQ_pos q).1
  rw [roundInt_eq]
  intro r n u
  refine ⟨?_, ?_, ?_, ?_, ?_⟩
  · exact beq_iff_eq.trans (rm.divide_exact_iff neg hu)
  · rintro rfl
    exact RMode.divide_rne neg hu
  · rintro rfl
    exact RMode.divide_down (neg := neg) RMode.up_rtz hu
  · rintro rfl
    cases neg
    · exact RMode.divide_down RMode.up_rdn_pos hu
    · exact RMode.divide_up RMode.up_rdn_neg hu
  · rintro rfl
    cases neg
    · exact RMode.divide_up RMode.up_rup_pos hu
    · exact RMode.divide_down RMode.up_rup_neg hu

end Sys2Proof.Machine

namespace Sys2Proof.Machine

/-! Array commands at work (R239). -/

/-- ARRAY_COMMAND_END of a command with work left does a piece of it. -/
theorem State.exec_arrayCommandEnd_job {s : State} {comb n : Nat} {q : ArrCmd} {j : Job} (hn : (s.comb comb).nextMove = some n)
    (hq : (s.comb comb).queue[n]? = some q) (hj : q.job = some j) (hruns : s.combRuns comb = true) :
    exec (.arrayCommandEnd comb) s = .next (s.movePiece comb n q j) := by
  change execArrayCommandEnd comb s = _
  simp only [execArrayCommandEnd, hn, hq, hj, Option.bind_some, Option.map_some, event_next, hruns, if_true]

/-- A TFMT of lane l sets the format, and brings l into focus for what its activation takes of it. -/
theorem State.movePiece_fmt {s : State} {comb i lc l : Nat} {q : ArrCmd} {f : ArrFmt} {tile : List Byte}
    (ht : (s.comb comb).tileOf q = some tile) (hl : q.lane = some l) :
    s.movePiece comb i q (.fmt lc f) =
      (((s.onCore lc (fun c => { c with fmt := f })).onComb comb (fun c => c.setJob i none)).focusLane l).onLn
        (fun x => x.noteWrite []) := by
  simp only [State.movePiece, ht, hl, State.piece, State.takePiece, Bool.false_eq_true, if_false]
  rfl

/-! The lane that leaves focus. -/

theorem State.lane_onLn_other (s : State) (f : Lane → Lane) {m : Nat} (h : m ≠ s.cur) : (s.onLn f).lane m = s.lane m := by
  change (if m = s.cur then f s.ln else tget s.k.lanes m (s.lane0 m)) = _
  rw [State.lane, if_neg h, if_neg h]

/-- A lane that leaves focus as a launch finds an enabled lane, and that has no entry, gets none: it is then what its launch makes of
its number, which is OFF above LANESM1 (R96). -/
theorem State.lane_focusLane_unlisted {s : State} {l : Nat} (hl : l ≠ s.cur) (hi : s.ln = Lane.init)
    (hn : thas s.k.lanes s.cur = false) : (s.focusLane l).lane s.cur = s.lane0 s.cur := by
  have hlanes : putLane s.k.lanes s.cur s.ln = s.k.lanes := by simp [putLane, hi, hn]
  have hnone : tget? s.k.lanes s.cur = none := by simpa [thas] using hn
  simp only [State.focusLane, if_neg hl, hlanes, State.lane, if_neg (Ne.symm hl), tget, hnone, Option.getD_none]
  rfl

/-- A TFMT of lane 0 whose work is still to do. -/
def tfmtOfLane0 : ArrCmd :=
  { load := false, lane := some 0, task := 0, core := 0, pc := 0, buf := none, job := some (.fmt 0 .i8), sees := 0, pend := none }

/-- A launch on one package with one lane a core (LANESM1 = 0). -/
def oneLaneLaunch : Launch :=
  { npkg := 1, pkgmap := [0], part := 0, valloc := 32, mode := 0, seed := [0, 0, 0, 0], codeOid := 0, codeBase := 0, codeLen := 0
    shape := none, root := 0, rootTask := 0, cmd := 0, tt := none, cyc0 := 0, blocks := [] }

/-- The TFMT's turn has come, and lane 1, which the launch does not have, stands in focus with the values of an enabled lane. -/
def offLaneInFocus : State := { State.reset with
  cur := 1
  k := { Ctx.init with launch := some oneLaneLaunch, combs := [(0, { CombSt.init with queue := [tfmtOfLane0] })] } }

/-- Refutes O44 in its clause of TFMT, which says that every lane but the command's own stays as it is. The command brings its lane
into focus, and the lane that leaves focus, where it is Lane.init and has no entry, becomes what State.lane0 says of its number: in
offLaneInFocus lane 1 is IDLE before and OFF after. The statement asks of a state only what lets the command work, so that one, in which
a lane stands in focus that the launch does not have, is among those that it speaks of. -/
theorem not_arrayComputesExactly : ¬ Obligations.ArrayComputesExactly := by
  unfold Obligations.ArrayComputesExactly
  intro h
  obtain ⟨-, -, -, -, -, -, -, -, -, -, -, hfmt, -, -, -⟩ := h offLaneInFocus 0 false false false false 0 ⟨0, false⟩ ⟨0, false⟩ 0 0 .i8
    0 0 0 tfmtOfLane0 [] [] none
  have hn : (offLaneInFocus.comb 0).nextMove = some 0 := by decide
  have hruns : offLaneInFocus.combRuns 0 = true := by decide
  obtain ⟨t, ht, -, -, -, -, -, hothers, -⟩ := hfmt ⟨⟨hn, rfl, rfl, hruns⟩, rfl⟩
  have hstays : t.lane 1 = Lane.init := hothers 1 (by decide)
  have hoff : t.lane 1 = { Lane.init with st := .off } := by
    rw [State.exec_arrayCommandEnd_job hn rfl rfl hruns, State.movePiece_fmt rfl rfl] at ht
    rw [← Host.Outcome.next.inj ht, State.lane_onLn_other _ _ (by decide)]
    exact State.lane_focusLane_unlisted (by decide) rfl rfl
  exact absurd (congrArg Lane.st (hstays.symm.trans hoff)) (by decide)

end Sys2Proof.Machine
